-- ==== Sys2Proof/Word.lean ====
section
/-!
DEFINITION. Word.lean: the widths the reference uses (16-bit exchange memory words, 24-bit samples, bytes),
the stereo pair, and the sparse memory both memories of the part are held in.
-/
namespace Sys2Proof

/-- A word of exchange memory and of a control port (chapter 9). -/
abbrev Word := BitVec 16
/-- A two-word mailbox parameter, high word first (R200). -/
abbrev Long := BitVec 32
/-- A byte of a link frame (R153). -/
abbrev Byte := BitVec 8
/-- A 24-bit signed audio sample (chapter 0, Conventions). -/
abbrev Sample := BitVec 24

/-- One left sample and one right sample (R38). -/
structure Pair where
  left : Sample
  right : Sample
  deriving DecidableEq, Repr

/-- A memory in canonical form: addresses strictly rising, no entry equal to 0, the value an unlisted
address reads as (DESIGN CHOICE, log 3). -/
abbrev Mem (w : Nat) := List (Nat × BitVec w)

end Sys2Proof
end

