-- ==== Sys2Proof/Syntax.lean ====
section
/-!
DEFINITION. Syntax.lean: the names the reference gives to the things a command can name, and the commands and events
themselves: one constructor of `Instr` per row of spec/opcode_table.json, in the table's order.
-/
namespace Sys2Proof

/-- The three control ports: automation computer, studio computer, alert receiver (chapter 0). -/
inductive Port | a | b | c
  deriving DecidableEq, Repr

/-- The two playout decks (chapter 4). -/
inductive DeckId | d1 | d2
  deriving DecidableEq, Repr

/-- The eight telephone lines (chapter 5). -/
inductive Line | l1 | l2 | l3 | l4 | l5 | l6 | l7 | l8
  deriving DecidableEq, Repr

/-- The thirteen sources of the air map (R1). -/
inductive Source
  | deck (d : DeckId)
  | mic
  | line (k : Line)
  | alert
  | fallback
  deriving DecidableEq, Repr

/-- The five states of a source record (R2). -/
inductive SourceState | off | rising | on | falling | held
  deriving DecidableEq, Repr

/-- What a state notice says of a source: its new state and L (R12). -/
structure StateNotice where
  state : SourceState
  level : Nat
  deriving DecidableEq, Repr

/-- The five phases of the alert engine (R124). -/
inductive Phase | standby | preempt | tone | message | restore
  deriving DecidableEq, Repr

/-- The three states of the dead-air monitor (R138). -/
inductive MonitorState | disarmed | watching | engaged
  deriving DecidableEq, Repr

/-- The three link states (R170). -/
inductive LinkState | down | up | lost
  deriving DecidableEq, Repr

/-- The four lamps (R192). -/
inductive Lamp | onAir | caller | alert | link
  deriving DecidableEq, Repr

/-- The two tone generators (R111). -/
inductive Generator | t1 | t2
  deriving DecidableEq, Repr

/-- The four alert classes (R111). -/
inductive AlertClass | test | statement | watch | immediate
  deriving DecidableEq, Repr

/-- The outcomes of an alert (R118, R134; QUEUED is a DONE result only, chapter 11). -/
inductive AlertOutcome | none | logged | aired | cancelled | expired | displaced | declined | queued
  deriving DecidableEq, Repr

/-- The 29 counters, in the order of the table of chapter 10. -/
inductive Counter
  | clipEvents
  | starve (d : DeckId)
  | segueMissed | cueFault | alertStarve
  | alertsAired | alertsExpired | alertsDisplaced
  | fallbackStarve
  | callsAnswered | missedCalls | lineDrops
  | deadAirEvents
  | programDropped | noticeDropped | rxBadCheck | rxBadFrame | rxPause | linkLosses
  | mailboxOverruns (p : Port)
  | accessFaults (p : Port)
  | clipWriteFaults (p : Port)
  deriving DecidableEq, Repr

/-- What the alert engine hands the link framer: a STARTED notice (outcome NONE) or an ENDED notice (R155, R158). -/
structure AlertNotice where
  id : Word
  cls : AlertClass
  priority : Nat
  tone : Nat
  started : Bool
  outcome : AlertOutcome
  forwarded : Bool
  truncated : Bool
  deriving DecidableEq, Repr

/-- One change of a studio value, as the framer takes it from its owner (R159). -/
inductive StudioChange
  | phase (p : Phase)
  | monitor (m : MonitorState)
  | mic (isOpen : Bool)
  | line (k : Line) (onAir : Bool)
  deriving DecidableEq, Repr

/-- One input of the lamp driver, as it takes it from its owner (R193). -/
inductive LampInput
  | mic (st : SourceState)
  | line (k : Line) (notOff : Bool)
  | phase (p : Phase)
  | waiting (anyRecord : Bool)
  | link (st : LinkState)
  | pause (inForce : Bool)
  deriving DecidableEq, Repr

/-- The commands and events of the part: one constructor per row of spec/opcode_table.json, in its order. A mailbox
command names the port that issues it and its parameter words as they stand in that port's page (R181, R200). -/
inductive Instr
  | resetNAssert
  | resetNRelease (sz1 sz0 : Bool)
  | startUpEnd
  | programSampleEvent
  | rampEnd (src : Source)
  | duckRampEnd
  | millisecondRewrite
  | windowEnd
  | clipAlloc (port : Port) (pairs : Long)
  | pageSearchEnd
  | clipCursor (port : Port) (clip : Word) (offset : Long)
  | clipSeal (port : Port) (clip : Word) (length : Long)
  | sealTaken (port : Port)
  | clipFree (port : Port) (clip : Word)
  | arbiterSet (port : Port) (alert deck fallback : Word)
  | deckLoad (port : Port) (deck address : Word)
  | deckPlay (port : Port) (deck : Word)
  | deckStop (port : Port) (deck fade : Word)
  | deckSkip (port : Port) (deck fade : Word)
  | deckResume (port : Port) (deck : Word)
  | deckNotify (port : Port) (deck mode : Word)
  | fallbackSet (port : Port) (clip gain armed : Word)
  | deadairSet (port : Port) (threshold : Long) (limit recovery fade : Word)
  | linkSet (port : Port) (enable rate timeout : Word)
  | micOpen (port : Port)
  | micClose (port : Port)
  | micGain (port : Port) (gain fade : Word)
  | duckSet (port : Port) (depth time : Word)
  | highwayMap (port : Port) (words : List Word)
  | lineAnswer (port : Port) (line destination : Word)
  | lineQueue (port : Port) (line : Word)
  | lineScreen (port : Port) (line : Word)
  | lineTake (port : Port) (line : Word)
  | lineBack (port : Port) (line : Word)
  | lineDrop (port : Port) (line : Word)
  | linePromote (port : Port) (line : Word)
  | lineGain (port : Port) (line gain fade : Word)
  | alertPost (port : Port) (id priority cls clip tone expiry : Word)
  | alertCancel (port : Port) (id : Word)
  | alertPolicy (port : Port) (part : Word) (values : List Word)
  | alertRelease (port : Port) (id : Word)
  | alertDecline (port : Port) (id : Word)
  | countersClear (port : Port)
  | lampSet (port : Port) (lamp duty : Word)
  | unknownCommand (port : Port) (value : Word)
  | mailboxOverrun (port : Port) (value : Word)
  | xmPointerWrite (port : Port) (value : Word)
  | xmDataRead (port : Port)
  | xmDataWrite (port : Port) (value : Word)
  | eventWordWrite (port : Port) (value : Word)
  | eventMaskWrite (port : Port) (value : Word)
  | clipDataWrite (port : Port) (value : Word)
  | clipDataRead (port : Port)
  | heldWriteReleased (port : Port)
  | heldReadReleased (port : Port)
  | portClear (port : Port) (value : Word)
  | ramp (src : Source) (target length : Nat)
  | cut (src : Source)
  | hold (length : Nat)
  | restore (length : Nat)
  | stateNotice (src : Source) (n : StateNotice)
  | silentNotice (src : Source)
  | lockRequest (clip : Fin 128)
  | unlock (clip : Fin 128)
  | arbiterGrant
  | burstEnd
  | deckPrimed (d : DeckId)
  | lookahead (d : DeckId)
  | cueFadeOutPoint (d : DeckId)
  | cueSeguePoint (d : DeckId)
  | segueSignal (receiver : DeckId)
  | cueEnd (d : DeckId)
  | slotWordArrival (slot : Fin 16) (word : BitVec 32)
  | transmitFrame
  | ringQualifyExpiry (k : Line)
  | ringGapExpiry (k : Line)
  | answerGraceExpiry (k : Line)
  | loopLossExpiry (k : Line)
  | releaseGuardExpiry (k : Line)
  | forwardTimerExpiry (id : Word)
  | expiryTimerExpiry (id : Word)
  | preemptEnd
  | toneGeneratorOverflow (g : Generator)
  | toneEnd
  | messageEnd
  | restoreEnd
  | programFrameFormed
  | alertNoticeHanded (n : AlertNotice)
  | studioValueChange (c : StudioChange)
  | standbyDeparture
  | transmitGapEnd
  | pauseFrame (bytes : List Byte)
  | siteStatusFrame (bytes : List Byte)
  | rxBadCheck (bytes : List Byte)
  | rxBadFrame (bytes : List Byte)
  | lossTimerExpiry
  | pauseTimerExpiry
  | lampInputChange (i : LampInput)
  | flashTimerExpiry (lamp : Lamp)
  | counterIncrement (c : Counter)
  | startPatternFound (bits : Word)
  deriving DecidableEq, Repr

end Sys2Proof
end

