-- ==== Sys2Proof/Decode.lean ====
section
/-!
DEFINITION. Decode.lean: the command a word of the table spells. The table gives no row any bits (every row's "fields" is
empty: the part's commands are accesses, mailbox commands and events, not words of one encoding), so no word spells one.
-/
namespace Sys2Proof

/-- The command whose table bits a word holds: none, for no row of the table has bits. -/
def decodeTableWord (_nbits _w : Nat) : Option Instr := none

end Sys2Proof
end

