-- ==== Sys2Proof/Config.lean ====
section
/-!
DEFINITION. Config.lean: the fixed numbers of the part, each with the rule that names it. None is a free value:
the free values of the model stand in `Sys2Proof.Machine.Unstated` (State.lean).
-/
namespace Sys2Proof.Config

/-- Gain 32768 is unity (chapter 0, Conventions). -/
def unity : Nat := 32768
/-- The longest ramp, in program sample events (R2, R7). -/
def maxRamp : Nat := 480000
/-- One millisecond is 48 program sample events (chapter 0, Conventions). -/
def eventsPerMs : Nat := 48
/-- A window of the dead-air monitor (R137). -/
def windowEvents : Nat := 4800
/-- Pairs in a page of the clip store (R37). -/
def pagePairs : Nat := 8192
/-- Bytes in a page of the clip store (R37). -/
def pageBytes : Nat := 65536
/-- Pairs a reader's buffer holds (R62, R132, R145). -/
def bufferPairs : Nat := 4096
/-- Pairs at which a LOADING deck is primed (R68). -/
def primedPairs : Nat := 2048
/-- Pairs a port's write buffer holds (chapter 3). -/
def writeBufferPairs : Nat := 8
/-- Words a port's clip read-ahead holds (chapter 3). -/
def clipAheadWords : Nat := 8
/-- The largest value of a counter (R197). -/
def counterMax : Nat := 4294967295
/-- Frames the program queue holds (R161). -/
def programFrames : Nat := 14
/-- Frames the priority queue holds (R163). -/
def priorityFrames : Nat := 4
/-- Pairs in a PROGRAM frame (R157). -/
def framePairs : Nat := 48
/-- Records the alert queue holds (R114), and entries of the outcome history (R134). -/
def alertRecords : Nat := 8
/-- First word of the status region (R174). -/
def statusBase : Nat := 12288
/-- Words of exchange memory (R174). -/
def xmWords : Nat := 16384
/-- The word a link or an address field holds for none (chapter 11). -/
def noAddress : Nat := 0xFFFF
/-- FREE VALUES (log 22): how many pairs of a burst have moved where its grant ends before the burst is done, by the number of
such ends before. The reference gives it by reference periods, which the model does not count (log 13); it has no body, so
that nothing can be proved of it. -/
opaque pairsMoved : Nat → Nat

end Sys2Proof.Config
end

