-- ==== Sys2Proof/Machine/State.lean ====
section
/-!
DEFINITION. Machine/State.lean: every piece of state the reference gives the part, as plain data, and the state right
after reset. INVENTORY.md lists each field with the rule that names it. Quantities that are counted or compared (gains,
lengths, clip numbers) are natural numbers; words, samples and frame bytes are bit vectors.
-/
namespace Sys2Proof.Machine

/-! ## Tables indexed by the reference's fixed names -/

/-- One value for each control port. -/
structure PerPort (α : Type) where
  a : α
  b : α
  c : α
  deriving DecidableEq, Repr

/-- One value for each deck. -/
structure PerDeck (α : Type) where
  d1 : α
  d2 : α
  deriving DecidableEq, Repr

/-- One value for each telephone line. -/
structure PerLine (α : Type) where
  l1 : α
  l2 : α
  l3 : α
  l4 : α
  l5 : α
  l6 : α
  l7 : α
  l8 : α
  deriving DecidableEq, Repr

/-- One value for each source of the air map (R1). -/
structure PerSource (α : Type) where
  decks : PerDeck α
  mic : α
  lines : PerLine α
  alert : α
  fallback : α
  deriving DecidableEq, Repr

/-- One value for each lamp (R192). -/
structure PerLamp (α : Type) where
  onAir : α
  caller : α
  alert : α
  link : α
  deriving DecidableEq, Repr

/-- One value for each alert class (R111). -/
structure PerClass (α : Type) where
  test : α
  statement : α
  watch : α
  immediate : α
  deriving DecidableEq, Repr

/-- A timer of the part, in program sample events still to come: `none` is stopped, `some 0` has run out and its rule has
not acted yet (chapter 0, Time). -/
abbrev Timer := Option Nat

/-! ## The air map (chapter 1) -/

/-- A ramp: start gain G0, target T, length S and position k (R2, R4), and whether it is in flight. T outlives the ramp:
it is the record's target. -/
structure Ramp where
  start : Nat
  target : Nat
  length : Nat
  position : Nat
  running : Bool
  deriving DecidableEq, Repr

/-- A source record (R2): state, current gain L, ramp with the target T, and the saved target Ts while HELD. -/
structure SourceRec where
  state : SourceState
  level : Nat
  ramp : Ramp
  saved : Option Nat
  deriving DecidableEq, Repr

/-- The air map (R2, R3, R15): thirteen records, the hold flag, the duck factor K with its ramp, the duck settings and
the microphone settings. -/
structure AirMap where
  sources : PerSource SourceRec
  hold : Bool
  duck : Nat
  duckRamp : Ramp
  duckDepth : Nat
  duckTime : Nat
  micGain : Nat
  micFade : Nat
  deriving DecidableEq, Repr

/-- The answer to a RAMP or CUT request (R12). -/
inductive Answer | started | settled | deferred | cutDone
  deriving DecidableEq, Repr

/-- A notice of the air map to a source's owner (R12), or the segue signal of one deck to the other (R80), while the step that
sends it has not yet delivered it. -/
inductive Message
  | state (src : Source) (n : StateNotice)
  | silent (src : Source)
  | segue (receiver : DeckId)
  deriving DecidableEq, Repr

/-! ## The mixer (chapter 2) -/

/-- What the mixer holds of one program sample event (R21): inputs, effective gains, exact sums, the fallback terms, the
program and primary pairs, and the output words that wait for the next transmit frame (R33). -/
structure MixFrame where
  inputs : PerSource (Int × Int)
  gains : PerSource Nat
  sumLeft : Int
  sumRight : Int
  fallbackLeft : Int
  fallbackRight : Int
  program : Pair
  primary : Pair
  lineOut : PerLine Sample
  screenerOut : Sample
  deriving DecidableEq, Repr

/-! ## The clip store and its arbiter (chapter 3) -/

/-- Clip states (R39). -/
inductive ClipState | free | loading | ready | retiring
  deriving DecidableEq, Repr

/-- A clip table entry (R39). -/
structure ClipEntry where
  state : ClipState
  owner : Option Port
  first : Nat
  pages : Nat
  capacity : Nat
  sealed : Nat
  locks : Nat
  deriving DecidableEq, Repr

/-- A run of pages the page map gives to one clip (R40). The page map is the list of its runs, first pages rising:
a page no run covers is free. -/
structure PageRun where
  first : Nat
  count : Nat
  clip : Fin 128
  deriving DecidableEq, Repr

/-- The page search of a CLIP_ALLOC (R43): the port whose command started it, the pairs value after clamping, and the
program sample events since it began. -/
structure Search where
  port : Port
  pairs : Nat
  age : Nat
  deriving DecidableEq, Repr

/-- An alert as ALERT_POST offers it, after clamping (R115). -/
structure AlertPost where
  id : Nat
  priority : Nat
  cls : AlertClass
  clip : Fin 128
  tone : Nat
  expiry : Nat
  deriving DecidableEq, Repr

/-- A request on the clip table that waits behind a page search, in the order of arrival (R43). -/
inductive ClipRequest
  | command (p : Port)
  | lock (c : Fin 128)
  | unlock (c : Fin 128)
  | deckRead (d : DeckId)
  | alertPost (r : AlertPost)
  | fallbackArm (c : Fin 128) (gain : Nat)
  deriving DecidableEq, Repr

/-- The manager's answer to a lock request (R52): the clip's place, or the state for which it is refused. -/
inductive LockAnswer
  | granted (first pages sealed : Nat)
  | refused (st : ClipState)
  deriving DecidableEq, Repr

/-- The clip store manager (R37, R39, R40, R43). `lockAnswer` is the answer to the latest LOCK_REQUEST. -/
structure ClipStore where
  totalPages : Nat
  table : Vector ClipEntry 128
  pages : List PageRun
  search : Option Search
  waiting : List ClipRequest
  lockAnswer : Option LockAnswer
  deriving DecidableEq, Repr

/-- A requester of the clip memory arbiter (R55). -/
inductive Requester
  | alert
  | deck (d : DeckId)
  | fallback
  | port (p : Port)
  deriving DecidableEq, Repr

/-- A running grant (R56, R57): its holder, the most pairs its burst has still to move, whether it writes, and the reference
periods the burst as granted takes (R59). -/
structure Grant where
  holder : Requester
  pairs : Nat
  writes : Bool
  periods : Nat
  deriving DecidableEq, Repr

/-- The clip memory arbiter (R55, R56, R58): burst limits, running grant, and whom each class granted last. `cuts`
is the model's own: how many times a free value has been drawn for a burst cut short (log 22). -/
structure Arbiter where
  alertLimit : Nat
  deckLimit : Nat
  fallbackLimit : Nat
  grant : Option Grant
  lastAlert : Bool
  lastDeck : Option DeckId
  lastFallback : Bool
  lastPort : Option Port
  cuts : Nat
  deriving DecidableEq, Repr

/-! ## The decks (chapter 4) -/

/-- Deck states (R61). -/
inductive DeckState | idle | loading | cued | playing | held | suspended
  deriving DecidableEq, Repr

/-- Notify modes (R75). -/
inductive NotifyMode | onStop | onIdle
  deriving DecidableEq, Repr

/-- Lookahead outcomes (R62, R72). -/
inductive Lookahead | notMade | found | none | exhausted
  deriving DecidableEq, Repr

/-- Pending ends (R62). -/
inductive PendingEnd | none | stop | skip
  deriving DecidableEq, Repr

/-- Cue fault reasons (R63). -/
inductive CueFault | notReady | badClip | outOfRange | badAddress
  deriving DecidableEq, Repr

/-- A cue copy (R62, R64). `fetched` counts the pairs the reader has fetched; `played` those the mixer has taken. Fades
and segue are in program sample events. -/
structure Cue where
  address : Nat
  ends : Bool
  holds : Bool
  notifies : Bool
  segues : Bool
  clip : Fin 128
  first : Nat
  pages : Nat
  start : Nat
  length : Nat
  gain : Nat
  fadeIn : Nat
  fadeOut : Nat
  segue : Nat
  played : Nat
  fetched : Nat
  fadeDone : Bool
  segueDone : Bool
  deriving DecidableEq, Repr

/-- Why a deck reads a cue record: DECK_LOAD (R69), the lookahead (R72), the lookahead a completed skip makes of the cue
at an address (R78), the reread at that cue's end (R73), or DECK_RESUME (R79). -/
inductive ReadContext
  | load
  | lookahead
  | skip (address : Nat) (ends : Bool)
  | reread (address : Nat)
  | resume
  deriving DecidableEq, Repr

/-- A record read whose lock request waits behind a page search: the deck is held until it is answered (R64). -/
structure Reading where
  address : Nat
  words : List Word
  context : ReadContext
  deriving DecidableEq, Repr

/-- What reaches a deck while a record read holds it, in order (R64, R84). -/
inductive DeckMessage
  | state (n : StateNotice)
  | silent
  | segue
  | command
  deriving DecidableEq, Repr

/-- What waits for a deck held by a record read, with the played count that the mixer's takes had reached when it came: the
deck takes those takes before it (R84). -/
structure HeldMessage where
  played : Nat
  message : DeckMessage
  deriving DecidableEq, Repr

/-- A deck record (R62), with the record read that holds the deck and what waits behind it (R64). `skipReply` is the fade of
a DECK_SKIP that has acted and is answered once the read it began is (R84). -/
structure DeckRec where
  state : DeckState
  playPending : Bool
  notify : NotifyMode
  current : Option Cue
  next : Option Cue
  lookahead : Lookahead
  pendingEnd : PendingEnd
  pendingFade : Nat
  heldSilent : Bool
  faultStreak : Nat
  resumeAddress : Option Nat
  lastFault : Option (Nat × CueFault)
  buffer : List Pair
  reading : Option Reading
  inbox : List HeldMessage
  skipReply : Option Nat
  deriving DecidableEq, Repr

/-! ## Control ports and mailboxes (chapter 9) -/

/-- A port's clip cursor (R44). -/
structure Cursor where
  clip : Fin 128
  offset : Nat
  deriving DecidableEq, Repr

/-- A complete pair in a port's write buffer, bound to a clip and offset (R45). `live` falls when that clip becomes FREE,
so that a later clip of the same number does not receive it (R46, R48). -/
structure BoundPair where
  clip : Fin 128
  offset : Nat
  pair : Pair
  live : Bool
  deriving DecidableEq, Repr

/-- An access WAIT holds off (R178): a read of location 2, or the write of the word that completes a pair, held with the
pair it completes. -/
inductive HeldAccess
  | read
  | write (v : Pair)
  deriving DecidableEq, Repr

/-- A command in execution: the value taken, the copy of parameter words 1 to 24 (R181), and how many of the pairs that
stood in the port's write buffer at the take have not left it yet, for which a CLIP_SEAL waits (R49, R184). -/
structure Running where
  value : Word
  params : List Word
  pairsLeft : Nat
  deriving DecidableEq, Repr

/-- A CLIP_SEAL that has passed its checks and waits for the pairs counted at its take: the clip and the length after
clamping (R49). -/
structure Seal where
  clip : Fin 128
  length : Nat
  deriving DecidableEq, Repr

/-- A control port (chapter 9): the XM pointer and read-ahead, the clip datapath (chapter 3), the access WAIT holds, the
word the latest read returned, and the mailbox's command in execution (BUSY exactly while there is one, R181). The
command, result, event and mask words themselves stand in the port's page of exchange memory. -/
structure PortState where
  pointer : BitVec 14
  readAhead : List (Nat × Word)
  cursor : Option Cursor
  wordsRead : Nat
  partialPair : List Word
  writeBuffer : List BoundPair
  clipAhead : List Word
  fetching : Bool
  fetchOffset : Nat
  wait : Option HeldAccess
  readData : Word
  running : Option Running
  sealing : Option Seal
  deriving DecidableEq, Repr

/-! ## Highway and line controller (chapter 5) -/

/-- The slot map (R91). -/
structure SlotMap where
  mic : Option (Fin 16)
  screenerRx : Option (Fin 16)
  screenerTx : Option (Fin 16)
  pgmLeft : Option (Fin 16)
  pgmRight : Option (Fin 16)
  lineRx : PerLine (Option (Fin 16))
  lineTx : PerLine (Option (Fin 16))
  rxEnable : BitVec 16
  txEnable : BitVec 16
  deriving DecidableEq, Repr

/-- The highway interface: the slot map, the kept receive samples (R23) and the latest transmit frame, slot by slot
(R90; `none` is high impedance). -/
structure Highway where
  map : SlotMap
  kept : Vector Sample 16
  transmitted : Vector (Option (BitVec 32)) 16
  deriving DecidableEq, Repr

/-- Line states (R93). -/
inductive LineState | idle | ringing | screen | waiting | onAir | releasing
  deriving DecidableEq, Repr

/-- A line record with its five timers (R93, R94). -/
structure LineRec where
  state : LineState
  seize : Bool
  loopSeen : Bool
  gain : Nat
  fade : Nat
  lastRing : Bool
  lastLoop : Bool
  ringQualify : Timer
  ringGap : Timer
  answerGrace : Timer
  loopLoss : Timer
  releaseGuard : Timer
  deriving DecidableEq, Repr

/-- The line controller (R93, R100, R101): the line records, the caller queue head first, the screener binding, and the
lines whose sources take a seat, as the air map's answers and notices tell (the seat count is how many there are). -/
structure LineControl where
  recs : PerLine LineRec
  queue : List Line
  screener : Option Line
  seats : PerLine Bool
  deriving DecidableEq, Repr

/-! ## The alert engine (chapter 6) -/

/-- Class modes (R111). -/
inductive ClassMode | airAuto | airOnRelease | logOnly
  deriving DecidableEq, Repr

/-- A class entry of the policy: mode and forward delay in seconds (R111). -/
structure ClassPolicy where
  mode : ClassMode
  delay : Nat
  deriving DecidableEq, Repr

/-- The settings of a tone generator: prescale exponent e, reload r, amplitude a (R111). -/
structure ToneSettings where
  exponent : Nat
  reload : Nat
  amplitude : Nat
  deriving DecidableEq, Repr

/-- A tone generator as TONE runs it: the settings it took, its prescale count, its counter, and whether its output is +a
(R127). A counter of 256 has passed 255 and its overflow has not acted yet. -/
structure ToneState where
  settings : ToneSettings
  prescale : Nat
  counter : Nat
  positive : Bool
  deriving DecidableEq, Repr

/-- States of a queued alert record (R113). -/
inductive AlertState | waitingRelease | ready | airing
  deriving DecidableEq, Repr

/-- An alert record (R113). `forwardDelay` is the length in seconds its forward timer started with, 0 if it has none. -/
structure AlertRec where
  id : Nat
  priority : Nat
  cls : AlertClass
  clip : Fin 128
  first : Nat
  pages : Nat
  sealed : Nat
  tone : Nat
  expiry : Nat
  state : AlertState
  forwarded : Bool
  timePosted : Nat
  forwardDelay : Nat
  forwardTimer : Timer
  expiryTimer : Timer
  deriving DecidableEq, Repr

/-- An entry of the outcome history (R134). -/
structure HistoryEntry where
  id : Nat
  cls : AlertClass
  outcome : AlertOutcome
  forwarded : Bool
  truncated : Bool
  deriving DecidableEq, Repr

/-- The alert reader (R132): the first page of the clip it is bound to, how many pairs it fetched, and its buffer. -/
structure AlertReader where
  bound : Option Nat
  fetched : Nat
  buffer : List Pair
  deriving DecidableEq, Repr

/-- The alert engine (chapter 6). `phaseEvents` counts the program sample events of the present phase and `phaseLength`
is its set length (R124). `messageLength`, `pairsTaken` and `truncated` are the airing's (R129). -/
structure AlertEngine where
  policy : PerClass ClassPolicy
  preemptFade : Nat
  restoreFade : Nat
  alertGain : Nat
  maxMessage : Nat
  tone1 : ToneSettings
  tone2 : ToneSettings
  queue : List AlertRec
  history : List HistoryEntry
  phase : Phase
  phaseEvents : Nat
  phaseLength : Nat
  gen1 : ToneState
  gen2 : ToneState
  messageLength : Nat
  pairsTaken : Nat
  truncated : Bool
  reader : AlertReader
  milliseconds : Nat
  deriving DecidableEq, Repr

/-! ## Dead-air monitor and fallback reader (chapter 7) -/

/-- The fallback binding: the clip and the place its lock gave (R138). -/
structure FallbackBinding where
  clip : Fin 128
  first : Nat
  pages : Nat
  sealed : Nat
  deriving DecidableEq, Repr

/-- The three window peaks of R137, also the shape of the published meters. -/
structure Peaks where
  left : Nat
  right : Nat
  primary : Nat
  deriving DecidableEq, Repr

/-- What reaches the monitor while an arming FALLBACK_SET waits for its lock, in order (R147): a window that has ended, with
its peaks and whether it ended in STANDBY (R140), or a state notice of FALLBACK. -/
inductive MonitorMessage
  | window (peaks : Peaks) (standby : Bool)
  | notice (n : StateNotice)
  deriving DecidableEq, Repr

/-- The dead-air monitor (R138) with its window (R137), meters (R148) and fallback reader (R145; its positions are none
while it is not bound). While `arming` is set an arming FALLBACK_SET waits for its lock and holds the monitor, and what
reaches it waits in `inbox` (R147). -/
structure DeadAir where
  state : MonitorState
  silence : Nat
  reported : Bool
  recoveryCount : Nat
  threshold : Nat
  limit : Nat
  recovery : Nat
  fade : Nat
  binding : Option FallbackBinding
  gain : Nat
  buffer : List Pair
  fetchPosition : Nat
  playPosition : Nat
  peaks : Peaks
  windowEvents : Nat
  windows : Nat
  meters : Peaks
  arming : Bool
  inbox : List MonitorMessage
  deriving DecidableEq, Repr

/-! ## The transmitter link (chapter 8) -/

/-- Kinds of frame the part sends (R155). -/
inductive FrameKind | program | alertNotice | studioStatus
  deriving DecidableEq, Repr

/-- A formed frame (R153, R155). -/
structure Frame where
  kind : FrameKind
  priority : Nat
  sequence : BitVec 16
  payload : List Byte
  deriving DecidableEq, Repr

/-- The frame on the wire with the rate latched for it (R164), the bytes sent for it, check included (R153, R154), and the
bits it occupies the line for, gap included (R153). -/
structure Sending where
  frame : Frame
  fast : Bool
  wire : List Byte
  bits : Nat
  deriving DecidableEq, Repr

/-- A pause in force: threshold and timer (R150, R166). -/
structure Pause where
  threshold : Nat
  timer : Timer
  deriving DecidableEq, Repr

/-- The studio values (R159). -/
structure StudioValues where
  phase : Phase
  monitor : MonitorState
  micOpen : Bool
  linesOnAir : PerLine Bool
  deriving DecidableEq, Repr

/-- The site status (R150, R169). -/
structure SiteStatus where
  received : Bool
  carrier : Bool
  alarms : BitVec 4
  level : Nat
  lastSequence : BitVec 16
  deriving DecidableEq, Repr

/-- The receiver: stopped, hunting for a start pattern, or reading a frame (R168). -/
inductive Receiver | stopped | hunting | reading
  deriving DecidableEq, Repr

/-- The link block (R150). `departed` is set from the engine's departure from STANDBY until the framer takes the phase
STANDBY again (R157, R162). `rxBits` are the last 16 bits the receiver read (R168). -/
structure Link where
  enabled : Bool
  fast : Bool
  lossTimeout : Nat
  state : LinkState
  lossTimer : Timer
  pause : Option Pause
  assembly : List Pair
  programQueue : List Frame
  priorityQueue : List Frame
  sending : Option Sending
  sequence : BitVec 16
  studio : StudioValues
  site : SiteStatus
  receiver : Receiver
  rxBits : Word
  departed : Bool
  deriving DecidableEq, Repr

/-! ## Lamps and counters (chapter 10) -/

/-- Display modes (R192). -/
inductive LampMode | off | steady | flash
  deriving DecidableEq, Repr

/-- A lamp (R192): mode, flash half, flash timer, duty, and the steps of the present PWM cycle its output is on for
(R195). -/
structure LampRec where
  mode : LampMode
  half : Bool
  timer : Timer
  duty : Nat
  onSteps : Nat
  deriving DecidableEq, Repr

/-- The inputs the lamp driver keeps, each as last reported (R192). -/
structure LampInputs where
  mic : SourceState
  lines : PerLine Bool
  phase : Phase
  waiting : Bool
  link : LinkState
  paused : Bool
  deriving DecidableEq, Repr

/-- The lamp driver (R192). -/
structure LampDriver where
  lamps : PerLamp LampRec
  inputs : LampInputs
  deriving DecidableEq, Repr

/-! ## Clock, publication, free values, and the whole -/

/-- Whether RESET_N is asserted, start-up runs, or the part runs (R189). -/
inductive Power | reset | startUp | running
  deriving DecidableEq, Repr

/-- Reset and time: the program sample events since the release (during start-up), those of the present millisecond,
whether a completed millisecond's rewrite is still due (R14), and whether the published records have begun (R189). -/
structure Clock where
  power : Power
  startUpEvents : Nat
  msEvents : Nat
  rewriteDue : Bool
  begun : Bool
  deriving DecidableEq, Repr

/-- The records of the status region (chapter 11). -/
inductive RecordId
  | airMap | storeSummary
  | clip (c : Fin 128)
  | deck (d : DeckId)
  | line (k : Line)
  | callerQueue | lineSummary
  | alertEngine | alertQueue | alertHistory
  | meters | deadAir | link | siteStatus | lamps | counters
  deriving DecidableEq, Repr

/-- FREE VALUES (the model's own, not the reference's): the words the part publishes or reports for a quantity that is
absent and for which the reference states no word (log 4). No step writes them; nothing constrains them. -/
structure Unstated where
  absentSaved : Word
  absentPlayed : Long
  absentLength : Long
  absentFade : Word
  absentMessage : Long
  absentTaken : Long
  absentTruncated : Word
  absentClip : Word
  absentPosition : Long
  absentThreshold : Word
  absentPauseLeft : Word
  absentHead : Word
  absentTail : Word
  deriving DecidableEq, Repr

/-- The whole part. `pending` is the queue of commands that wait, first in, first out. `airAnswer` is the air map's answer to
the latest RAMP or CUT row (R12). `messages` and `forced` are the model's own and empty between steps: notices not yet
delivered, and the rewrites this step asks for, one entry for each. -/
structure State where
  pending : List Instr
  clock : Clock
  xm : Mem 16
  sdram : Mem 48
  ports : PerPort PortState
  air : AirMap
  mixer : MixFrame
  clips : ClipStore
  arbiter : Arbiter
  decks : PerDeck DeckRec
  highway : Highway
  lines : LineControl
  alert : AlertEngine
  deadAir : DeadAir
  link : Link
  lamps : LampDriver
  counters : Vector Nat 29
  airAnswer : Option Answer
  messages : List Message
  forced : List RecordId
  unstated : Unstated
  deriving DecidableEq, Repr

/-- The part raises no fault that stops it: every command of the reference leaves a next state, so this type has no
constructor (log 5). -/
inductive Fault
  deriving DecidableEq, Repr

/-- Why a command has no meaning. -/
inductive Refusal
  /-- Raised only by an arm of `exec` whose row has no meaning yet; no arm does so now. Safe. -/
  | notModelled (mnemonic : String)
  deriving DecidableEq, Repr

/-! ## The values after RESET_N -/

/-- The same value for every port. -/
def PerPort.all {α : Type} (x : α) : PerPort α := ⟨x, x, x⟩
/-- The same value for both decks. -/
def PerDeck.all {α : Type} (x : α) : PerDeck α := ⟨x, x⟩
/-- The same value for every line. -/
def PerLine.all {α : Type} (x : α) : PerLine α := ⟨x, x, x, x, x, x, x, x⟩
/-- The same value for every source. -/
def PerSource.all {α : Type} (x : α) : PerSource α := ⟨.all x, x, .all x, x, x⟩
/-- The same value for every lamp. -/
def PerLamp.all {α : Type} (x : α) : PerLamp α := ⟨x, x, x, x⟩

/-- A ramp at rest at 0 (R3). -/
def Ramp.reset : Ramp := ⟨0, 0, 0, 0, false⟩
/-- R3. The start, length and position of a duck ramp before the first one are the model's (log 2). -/
def AirMap.reset : AirMap where
  sources := .all ⟨.off, 0, .reset, none⟩
  hold := false
  duck := 32768
  duckRamp := ⟨0, 32768, 0, 0, false⟩
  duckDepth := 8192
  duckTime := 200
  micGain := 32768
  micFade := 50

/-- R21. -/
def MixFrame.reset : MixFrame where
  inputs := .all (0, 0)
  gains := .all 0
  sumLeft := 0
  sumRight := 0
  fallbackLeft := 0
  fallbackRight := 0
  program := ⟨0, 0⟩
  primary := ⟨0, 0⟩
  lineOut := .all 0
  screenerOut := 0

/-- The FREE entry (R39). -/
def ClipEntry.free : ClipEntry := ⟨.free, none, 0, 0, 0, 0, 0⟩
/-- R39, R40, R60. The page count before the straps are sampled is the model's (log 2). -/
def ClipStore.reset : ClipStore where
  totalPages := 4096
  table := Vector.replicate 128 .free
  pages := []
  search := none
  waiting := []
  lockAnswer := none
/-- R60. -/
def Arbiter.reset : Arbiter := ⟨64, 64, 64, none, false, none, false, none, 0⟩
/-- R62. -/
def DeckRec.reset : DeckRec where
  state := .idle
  playPending := false
  notify := .onStop
  current := none
  next := none
  lookahead := .notMade
  pendingEnd := .none
  pendingFade := 0
  heldSilent := false
  faultStreak := 0
  resumeAddress := none
  lastFault := none
  buffer := []
  reading := none
  inbox := []
  skipReply := none
/-- R191. The word the latest read returned is 0 before any read (log 2). -/
def PortState.reset : PortState where
  pointer := 0
  readAhead := []
  cursor := none
  wordsRead := 0
  partialPair := []
  writeBuffer := []
  clipAhead := []
  fetching := false
  fetchOffset := 0
  wait := none
  readData := 0
  running := none
  sealing := none
/-- R91. -/
def SlotMap.reset : SlotMap := ⟨none, none, none, none, none, .all none, .all none, 0, 0⟩
/-- R91, R23, R110. -/
def Highway.reset : Highway := ⟨.reset, Vector.replicate 16 0, Vector.replicate 16 none⟩
/-- R93. -/
def LineRec.reset : LineRec := ⟨.idle, false, false, 32768, 20, false, false, none, none, none, none, none⟩
/-- R93, R100, R110. -/
def LineControl.reset : LineControl := ⟨.all .reset, [], none, .all false⟩
/-- R111: T1 after RESET_N. -/
def ToneSettings.reset1 : ToneSettings := ⟨0, 232, 2097152⟩
/-- R111: T2 after RESET_N. -/
def ToneSettings.reset2 : ToneSettings := ⟨0, 208, 2097152⟩
/-- R111, R136. The generators' running state before the first TONE is the model's (log 2). -/
def AlertEngine.reset : AlertEngine where
  policy := ⟨⟨.logOnly, 0⟩, ⟨.airOnRelease, 0⟩, ⟨.airOnRelease, 60⟩, ⟨.airAuto, 0⟩⟩
  preemptFade := 100
  restoreFade := 500
  alertGain := 32768
  maxMessage := 120
  tone1 := .reset1
  tone2 := .reset2
  queue := []
  history := []
  phase := .standby
  phaseEvents := 0
  phaseLength := 0
  gen1 := ⟨.reset1, 0, 232, true⟩
  gen2 := ⟨.reset2, 0, 208, true⟩
  messageLength := 0
  pairsTaken := 0
  truncated := false
  reader := ⟨none, 0, []⟩
  milliseconds := 0
/-- R138, R149. -/
def DeadAir.reset : DeadAir where
  state := .disarmed
  silence := 0
  reported := false
  recoveryCount := 0
  threshold := 8389
  limit := 150
  recovery := 2
  fade := 500
  binding := none
  gain := 32768
  buffer := []
  fetchPosition := 0
  playPosition := 0
  peaks := ⟨0, 0, 0⟩
  windowEvents := 0
  windows := 0
  meters := ⟨0, 0, 0⟩
  arming := false
  inbox := []
/-- R150, R173. -/
def Link.reset : Link where
  enabled := false
  fast := false
  lossTimeout := 500
  state := .down
  lossTimer := none
  pause := none
  assembly := []
  programQueue := []
  priorityQueue := []
  sending := none
  sequence := 0
  studio := ⟨.standby, .disarmed, false, .all false⟩
  site := ⟨false, false, 0, 0, 0⟩
  receiver := .stopped
  rxBits := 0xFFFF
  departed := false
/-- R192. -/
def LampDriver.reset : LampDriver where
  lamps := .all ⟨.off, false, none, 192, 0⟩
  inputs := ⟨.off, .all false, .standby, false, .down, false⟩
/-- The free values in the reset state: 0 (DESIGN CHOICE, log 4; no statement rests on it). -/
def Unstated.reset : Unstated := ⟨0, 0, 0, 0, 0, 0, 0, 0, 0, 0, 0, 0, 0⟩

/-- The part while RESET_N is asserted, every piece of state at the value its chapter gives after RESET_N (R189, R191).
Both memories list nothing: no content is stated for power-up (log 3). -/
def State.reset : State where
  pending := []
  clock := ⟨.reset, 0, 0, false, false⟩
  xm := []
  sdram := []
  ports := .all .reset
  air := .reset
  mixer := .reset
  clips := .reset
  arbiter := .reset
  decks := .all .reset
  highway := .reset
  lines := .reset
  alert := .reset
  deadAir := .reset
  link := .reset
  lamps := .reset
  counters := Vector.replicate 29 0
  airAnswer := none
  messages := []
  forced := []
  unstated := .reset

end Sys2Proof.Machine
end

