-- ==== Sys2Proof/Machine/Tables.lean ====
section
/-!
DEFINITION. Machine/Tables.lean: reading and writing the tables indexed by the reference's names, and the fixed orders in
which the part's names are listed.
-/
namespace Sys2Proof

/-- The eight lines in order. -/
def allLines : List Line := [.l1, .l2, .l3, .l4, .l5, .l6, .l7, .l8]

/-- The thirteen sources in the order of R1. -/
def allSources : List Source :=
  [.deck .d1, .deck .d2, .mic] ++ allLines.map .line ++ [.alert, .fallback]

/-- A line's number, 1 to 8 (chapter 11). -/
def Line.number : Line → Nat
  | .l1 => 1 | .l2 => 2 | .l3 => 3 | .l4 => 4 | .l5 => 5 | .l6 => 6 | .l7 => 7 | .l8 => 8

/-- The line of a number, if it is 1 to 8. -/
def lineOf (n : Nat) : Option Line := allLines.find? fun k => k.number = n

/-- A deck's number (R69). -/
def DeckId.number : DeckId → Nat
  | .d1 => 1 | .d2 => 2

/-- The deck of a number, if it is 1 or 2. -/
def deckOf (n : Nat) : Option DeckId :=
  if n = 1 then some .d1 else if n = 2 then some .d2 else none

/-- The other deck (R80). -/
def DeckId.other : DeckId → DeckId
  | .d1 => .d2 | .d2 => .d1

/-- A counter's place in the order of the table of chapter 10. -/
def Counter.index : Counter → Fin 29
  | .clipEvents => 0
  | .starve .d1 => 1
  | .starve .d2 => 2
  | .segueMissed => 3
  | .cueFault => 4
  | .alertStarve => 5
  | .alertsAired => 6
  | .alertsExpired => 7
  | .alertsDisplaced => 8
  | .fallbackStarve => 9
  | .callsAnswered => 10
  | .missedCalls => 11
  | .lineDrops => 12
  | .deadAirEvents => 13
  | .programDropped => 14
  | .noticeDropped => 15
  | .rxBadCheck => 16
  | .rxBadFrame => 17
  | .rxPause => 18
  | .linkLosses => 19
  | .mailboxOverruns .a => 20
  | .mailboxOverruns .b => 21
  | .mailboxOverruns .c => 22
  | .accessFaults .a => 23
  | .accessFaults .b => 24
  | .accessFaults .c => 25
  | .clipWriteFaults .a => 26
  | .clipWriteFaults .b => 27
  | .clipWriteFaults .c => 28

end Sys2Proof

namespace Sys2Proof.Machine

/-- The entry of a port. -/
def PerPort.get {α : Type} (t : PerPort α) : Port → α
  | .a => t.a
  | .b => t.b
  | .c => t.c

/-- The table with the entry at a name replaced. -/
def PerPort.set {α : Type} (t : PerPort α) (i : Port) (x : α) : PerPort α :=
  match i with
  | .a => { t with a := x }
  | .b => { t with b := x }
  | .c => { t with c := x }

/-- The table with the entry at a name changed. -/
def PerPort.modify {α : Type} (t : PerPort α) (i : Port) (f : α → α) : PerPort α :=
  t.set i (f (t.get i))

/-- The entry of a deck. -/
def PerDeck.get {α : Type} (t : PerDeck α) : DeckId → α
  | .d1 => t.d1
  | .d2 => t.d2

/-- The table with the entry at a name replaced. -/
def PerDeck.set {α : Type} (t : PerDeck α) (i : DeckId) (x : α) : PerDeck α :=
  match i with
  | .d1 => { t with d1 := x }
  | .d2 => { t with d2 := x }

/-- The table with the entry at a name changed. -/
def PerDeck.modify {α : Type} (t : PerDeck α) (i : DeckId) (f : α → α) : PerDeck α :=
  t.set i (f (t.get i))

/-- The entry of a line. -/
def PerLine.get {α : Type} (t : PerLine α) : Line → α
  | .l1 => t.l1
  | .l2 => t.l2
  | .l3 => t.l3
  | .l4 => t.l4
  | .l5 => t.l5
  | .l6 => t.l6
  | .l7 => t.l7
  | .l8 => t.l8

/-- The table with the entry at a name replaced. -/
def PerLine.set {α : Type} (t : PerLine α) (i : Line) (x : α) : PerLine α :=
  match i with
  | .l1 => { t with l1 := x }
  | .l2 => { t with l2 := x }
  | .l3 => { t with l3 := x }
  | .l4 => { t with l4 := x }
  | .l5 => { t with l5 := x }
  | .l6 => { t with l6 := x }
  | .l7 => { t with l7 := x }
  | .l8 => { t with l8 := x }

/-- The table with the entry at a name changed. -/
def PerLine.modify {α : Type} (t : PerLine α) (i : Line) (f : α → α) : PerLine α :=
  t.set i (f (t.get i))

/-- The entry of a lamp. -/
def PerLamp.get {α : Type} (t : PerLamp α) : Lamp → α
  | .onAir => t.onAir
  | .caller => t.caller
  | .alert => t.alert
  | .link => t.link

/-- The table with the entry at a name replaced. -/
def PerLamp.set {α : Type} (t : PerLamp α) (i : Lamp) (x : α) : PerLamp α :=
  match i with
  | .onAir => { t with onAir := x }
  | .caller => { t with caller := x }
  | .alert => { t with alert := x }
  | .link => { t with link := x }

/-- The table with the entry at a name changed. -/
def PerLamp.modify {α : Type} (t : PerLamp α) (i : Lamp) (f : α → α) : PerLamp α :=
  t.set i (f (t.get i))

/-- The entry of an alert class. -/
def PerClass.get {α : Type} (t : PerClass α) : AlertClass → α
  | .test => t.test
  | .statement => t.statement
  | .watch => t.watch
  | .immediate => t.immediate

/-- The table with the entry at a name replaced. -/
def PerClass.set {α : Type} (t : PerClass α) (i : AlertClass) (x : α) : PerClass α :=
  match i with
  | .test => { t with test := x }
  | .statement => { t with statement := x }
  | .watch => { t with watch := x }
  | .immediate => { t with immediate := x }

/-- The table with the entry at a name changed. -/
def PerClass.modify {α : Type} (t : PerClass α) (i : AlertClass) (f : α → α) : PerClass α :=
  t.set i (f (t.get i))

/-- Every entry changed, each with its name in hand. -/
def PerPort.mapWith {α β : Type} (f : Port → α → β) (t : PerPort α) : PerPort β :=
  ⟨f .a t.a, f .b t.b, f .c t.c⟩

/-- Every entry changed, each with its name in hand. -/
def PerDeck.mapWith {α β : Type} (f : DeckId → α → β) (t : PerDeck α) : PerDeck β :=
  ⟨f .d1 t.d1, f .d2 t.d2⟩

/-- Every entry changed, each with its name in hand. -/
def PerLine.mapWith {α β : Type} (f : Line → α → β) (t : PerLine α) : PerLine β :=
  ⟨f .l1 t.l1, f .l2 t.l2, f .l3 t.l3, f .l4 t.l4, f .l5 t.l5, f .l6 t.l6, f .l7 t.l7, f .l8 t.l8⟩

/-- Every entry changed, each with its name in hand. -/
def PerLamp.mapWith {α β : Type} (f : Lamp → α → β) (t : PerLamp α) : PerLamp β :=
  ⟨f .onAir t.onAir, f .caller t.caller, f .alert t.alert, f .link t.link⟩

/-- The entry of a source. -/
def PerSource.get {α : Type} (t : PerSource α) : Source → α
  | .deck d => t.decks.get d
  | .mic => t.mic
  | .line k => t.lines.get k
  | .alert => t.alert
  | .fallback => t.fallback

/-- The table with the entry of a source replaced. -/
def PerSource.set {α : Type} (t : PerSource α) (i : Source) (x : α) : PerSource α :=
  match i with
  | .deck d => { t with decks := t.decks.set d x }
  | .mic => { t with mic := x }
  | .line k => { t with lines := t.lines.set k x }
  | .alert => { t with alert := x }
  | .fallback => { t with fallback := x }

/-- Every entry changed, each with its source in hand. -/
def PerSource.mapWith {α β : Type} (f : Source → α → β) (t : PerSource α) : PerSource β where
  decks := t.decks.mapWith fun d => f (.deck d)
  mic := f .mic t.mic
  lines := t.lines.mapWith fun k => f (.line k)
  alert := f .alert t.alert
  fallback := f .fallback t.fallback

end Sys2Proof.Machine
end

