-- ==== Sys2Proof/Machine/Flags.lean ====
section
/-!
DEFINITION. Machine/Flags.lean: the part's flag words and codes: event bits, the codes of enumerated values
(chapter 11), reason codes, and the command words of a mailbox.
-/
namespace Sys2Proof

/-- A source that is on the air by its state: RISING or ON (R15, R159, R193). -/
def SourceState.isOpen : SourceState → Bool
  | .rising | .on => true
  | _ => false

end Sys2Proof

namespace Sys2Proof.Machine

/-- The events, in the order of their bits (chapter 11). -/
inductive Event
  | cueDone | deckStopped | segueMissed | cueFault | clipFreed | lineRing | lineDropped | missedCall
  | alertWaiting | alertOnAir | alertOutcome | deadAir | airRestored | linkChange | mailboxOverrun | accessFault
  deriving DecidableEq, Repr

/-- An event's bit in the event word and mask (chapter 11). -/
def Event.bit : Event → Nat
  | .cueDone => 0 | .deckStopped => 1 | .segueMissed => 2 | .cueFault => 3
  | .clipFreed => 4 | .lineRing => 5 | .lineDropped => 6 | .missedCall => 7
  | .alertWaiting => 8 | .alertOnAir => 9 | .alertOutcome => 10 | .deadAir => 11
  | .airRestored => 12 | .linkChange => 13 | .mailboxOverrun => 14 | .accessFault => 15

/-- The word with an event's bit alone. -/
def Event.mask (e : Event) : Word := (1 : Word) <<< e.bit

/-- A flag as a number: clear 0, set 1 (chapter 11). -/
def flag (b : Bool) : Nat := if b then 1 else 0

/-- The codes of chapter 11, "Codes of enumerated values". -/
def sourceCode : SourceState → Nat
  | .off => 0 | .rising => 1 | .on => 2 | .falling => 3 | .held => 4
def clipCode : ClipState → Nat
  | .free => 0 | .loading => 1 | .ready => 2 | .retiring => 3
def ownerCode : Option Port → Nat
  | none => 0 | some .a => 1 | some .b => 2 | some .c => 3
def deckCode : DeckState → Nat
  | .idle => 0 | .loading => 1 | .cued => 2 | .playing => 3 | .held => 4 | .suspended => 5
def pendingCode : PendingEnd → Nat
  | .none => 0 | .stop => 1 | .skip => 2
def notifyCode : NotifyMode → Nat
  | .onStop => 0 | .onIdle => 1
def cueFaultCode : CueFault → Nat
  | .notReady => 1 | .badClip => 2 | .outOfRange => 3 | .badAddress => 4
def lineCode : LineState → Nat
  | .idle => 0 | .ringing => 1 | .screen => 2 | .waiting => 3 | .onAir => 4 | .releasing => 5
def classCode : AlertClass → Nat
  | .test => 0 | .statement => 1 | .watch => 2 | .immediate => 3
def classModeCode : ClassMode → Nat
  | .airAuto => 0 | .airOnRelease => 1 | .logOnly => 2
def alertStateCode : AlertState → Nat
  | .waitingRelease => 1 | .ready => 2 | .airing => 3
def phaseCode : Phase → Nat
  | .standby => 0 | .preempt => 1 | .tone => 2 | .message => 3 | .restore => 4
def outcomeCode : AlertOutcome → Nat
  | .none => 0 | .logged => 1 | .aired => 2 | .cancelled => 3 | .expired => 4 | .displaced => 5 | .declined => 6
  | .queued => 7
def monitorCode : MonitorState → Nat
  | .disarmed => 0 | .watching => 1 | .engaged => 2
def linkCode : LinkState → Nat
  | .down => 0 | .up => 1 | .lost => 2
def kindCode : FrameKind → Nat
  | .program => 0x01 | .alertNotice => 0x02 | .studioStatus => 0x03
def lampModeCode : LampMode → Nat
  | .off => 0 | .steady => 1 | .flash => 2
def slotCode : Option (Fin 16) → Nat
  | none => 0x00FF | some n => n.val
def addressCode : Option Nat → Nat
  | none => Config.noAddress | some a => a

/-- Cue status values (R63). -/
inductive CueStatus | pending | queued | playing | played | cut | fault
  deriving DecidableEq, Repr

def cueStatusCode : CueStatus → Nat
  | .pending => 0 | .queued => 1 | .playing => 2 | .played => 3 | .cut => 4 | .fault => 5

/-- The reasons a command is refused (chapter 9, Reason codes). -/
inductive Reason
  | unknown | notPermitted | badParam | badState | noSpace | notOwner | duplicate | notFound | airFull | slotTaken
  | screenerBusy | tooLate
  deriving DecidableEq, Repr

/-- Reason codes of word 49 (chapter 11). -/
def Reason.code : Reason → Nat
  | .unknown => 1 | .notPermitted => 2 | .badParam => 3 | .badState => 4 | .noSpace => 5 | .notOwner => 7
  | .duplicate => 8 | .notFound => 9 | .airFull => 10 | .slotTaken => 11 | .screenerBusy => 12 | .tooLate => 13

/-- The command word of each mailbox state (R181). -/
def busyWord : Word := 0x8000
def doneWord : Word := 0x8001
def refusedWord : Word := 0x8002
def readyWord : Word := 0x8003

end Sys2Proof.Machine
end

