-- ==== Sys2Proof/Machine/Ops.lean ====
section
/-!
DEFINITION. Machine/Ops.lean: the named operations every block shares: memories, words, samples, timers, exchange
memory with the read-ahead it refreshes, events, counters, and the part's queues of notices.
-/
namespace Sys2Proof

/-! ## Memories -/

/-- What an address reads as: its entry, or 0 if it is not listed (log 3). -/
def Mem.read {w : Nat} : Mem w → Nat → BitVec w
  | [], _ => 0
  | (k, v) :: t, a => if a = k then v else Mem.read t a

/-- The entries of consecutive words from an address on; a word of 0 has none. -/
def Mem.cells {w : Nat} : Nat → List (BitVec w) → Mem w
  | _, [] => []
  | a, v :: t => if v = 0 then Mem.cells (a + 1) t else (a, v) :: Mem.cells (a + 1) t

/-- Consecutive words written from an address on, in one pass. -/
def Mem.writeBlock {w : Nat} (m : Mem w) (a : Nat) (ws : List (BitVec w)) : Mem w :=
  m.filter (fun e => e.1 < a) ++ Mem.cells a ws ++ m.filter (fun e => a + ws.length ≤ e.1)

/-- One word written. -/
def Mem.write {w : Nat} (m : Mem w) (a : Nat) (v : BitVec w) : Mem w := m.writeBlock a [v]

/-- Consecutive words read from an address on. -/
def Mem.readBlock {w : Nat} (m : Mem w) (a n : Nat) : List (BitVec w) :=
  (List.range n).map fun i => m.read (a + i)

/-- The canonical form: addresses strictly rising, no entry 0. -/
def Mem.wf {w : Nat} : Mem w → Bool
  | [] => true
  | (k, v) :: t => v != 0 && t.all (fun e => decide (k < e.1)) && Mem.wf t

end Sys2Proof

namespace Sys2Proof.Machine

/-! ## Words, samples, clamps -/

/-- A number as one word. -/
def word (n : Nat) : Word := BitVec.ofNat 16 n
/-- A number as two words, high word first (chapter 11). -/
def words2 (n : Nat) : List Nat := [n / 65536 % 65536, n % 65536]
/-- Two words joined, high word first (R200). -/
def joinWords (hi lo : Word) : Nat := hi.toNat * 65536 + lo.toNat
/-- Clamping a number into a range (chapter 0, Numbers in parameters). -/
def clamp (lo hi n : Nat) : Nat := min hi (max lo n)

/-- Clamping into the 24-bit range (chapter 0, Samples). -/
def sat24 (x : Int) : Int := max (-8388608) (min 8388607 x)
/-- A number of the 24-bit range as a sample. -/
def sample (x : Int) : Sample := BitVec.ofInt 24 x
/-- The magnitude of a sample; that of -8,388,608 is 8,388,608 (R35). -/
def magnitude (x : Sample) : Nat := x.toInt.natAbs

/-- The four words of a pair on port location 2 (R38, chapter 11). -/
def pairWords (p : Pair) : List Word :=
  [p.left.extractLsb' 8 16, p.left.extractLsb' 0 8 ++ (0 : Byte),
   p.right.extractLsb' 8 16, p.right.extractLsb' 0 8 ++ (0 : Byte)]

/-- The pair four words make; the low bytes of the second and fourth are ignored (R38). -/
def pairOf (w1 w2 w3 w4 : Word) : Pair :=
  ⟨w1 ++ w2.extractLsb' 8 8, w3 ++ w4.extractLsb' 8 8⟩

/-- A pair as the clip store holds it. -/
def packPair (p : Pair) : BitVec 48 := p.left ++ p.right
/-- The pair a clip store entry holds. -/
def unpackPair (v : BitVec 48) : Pair := ⟨v.extractLsb' 24 24, v.extractLsb' 0 24⟩

/-- A 24-bit sample in three bytes, high byte first (chapter 11, Link frames). -/
def sampleBytes (x : Sample) : List Byte :=
  [x.extractLsb' 16 8, x.extractLsb' 8 8, x.extractLsb' 0 8]

/-! ## Timers -/

/-- A timer of n ms, started now (chapter 0, Time; log 8). -/
def startTimer (ms : Nat) : Timer := some (ms * Config.eventsPerMs)
/-- A timer that is started while it runs goes on from its first start (R94). -/
def startIfStopped (t : Timer) (ms : Nat) : Timer := if t.isSome then t else startTimer ms
/-- One program sample event passes. -/
def tick (t : Timer) : Timer := t.map (· - 1)
/-- The timer has run out and its rule has not acted yet. -/
def ranOut (t : Timer) : Bool := t == some 0

/-! ## Exchange memory -/

/-- First word of a port's region, which begins with its mailbox page (R174). -/
def base : Port → Nat
  | .a => 0 | .b => 4096 | .c => 8192

/-- Whether a port may write a word of exchange memory: it lies in the port's own region (R177). -/
def ownsWord (p : Port) (a : Nat) : Bool := base p ≤ a && a < base p + 4096

/-- Exchange memory changed by the part or a port; every port's read-ahead is refreshed with it (R176). -/
def State.onXm (s : State) (f : Mem 16 → Mem 16) : State :=
  let m := f s.xm
  { s with
    xm := m
    ports := s.ports.mapWith fun _ p => { p with readAhead := p.readAhead.map fun e => (e.1, m.read e.1) } }

/-- One word of exchange memory written. -/
def State.xmWrite (s : State) (a : Nat) (v : Word) : State := s.onXm fun m => m.write a v
/-- Consecutive words of exchange memory written. -/
def State.xmWriteBlock (s : State) (a : Nat) (ws : List Word) : State := s.onXm fun m => m.writeBlock a ws
/-- A word of a port's mailbox page. -/
def State.pageWord (s : State) (p : Port) (n : Nat) : Word := s.xm.read (base p + n)

/-! ## What a change of a record is seen by (log 9) -/

/-- The AIRING record (R114). -/
def AlertEngine.airing (e : AlertEngine) : Option AlertRec := e.queue.find? fun r => r.state == .airing
/-- The seat count (R93). -/
def LineControl.seatCount (c : LineControl) : Nat := (allLines.filter fun k => c.seats.get k).length

/-- A deck's record (R86): state, current cue, next cue, pending end with its fade. -/
def deckKey (r : DeckRec) : List Nat :=
  [deckCode r.state, pendingCode r.pendingEnd, if r.pendingEnd = .none then 0 else r.pendingFade,
   addressCode (r.current.map Cue.address), addressCode (r.next.map Cue.address)]

/-- A line's record (R109): state, seize, loop seen, gain, fade. -/
def lineKey (r : LineRec) : List Nat := [lineCode r.state, flag r.seize, flag r.loopSeen, r.gain, r.fade]
/-- The line summary, but for the slot map (R109): screener binding, seat count. -/
def callersKey (c : LineControl) : List Nat := [(c.screener.map Line.number).getD 0, c.seatCount]

/-- The policy as the alert engine record holds it (R135). -/
def policyWords (e : AlertEngine) : List Nat :=
  ([AlertClass.test, .statement, .watch, .immediate].flatMap fun c =>
    [classModeCode (e.policy.get c).mode, (e.policy.get c).delay])
  ++ [e.preemptFade, e.restoreFade, e.alertGain, e.maxMessage]
  ++ ([e.tone1, e.tone2].flatMap fun t => [t.exponent, t.reload] ++ words2 t.amplitude)
/-- The alert engine record (R135): phase, AIRING record, policy. -/
def engineKey (e : AlertEngine) : List Nat :=
  [phaseCode e.phase, (e.airing.map AlertRec.id).getD 0] ++ policyWords e

/-- An entry of the alert queue record (R135). -/
def alertEntry (r : AlertRec) : List Nat :=
  [r.id, r.priority, classCode r.cls, r.clip.val, alertStateCode r.state, flag r.forwarded] ++ words2 r.timePosted
  ++ [r.expiry, r.forwardDelay]
/-- The alert queue record (R135): the queue, and each record's state and forwarded flag. -/
def alertQueueKey (e : AlertEngine) : List Nat := e.queue.flatMap alertEntry

/-- The dead-air record (R148): state, counts, settings, binding. -/
def deadAirKey (d : DeadAir) : List Nat :=
  [monitorCode d.state, d.silence, flag d.reported, d.recoveryCount] ++ words2 d.threshold
  ++ [d.limit, d.recovery, d.fade, flag d.binding.isSome, (d.binding.map fun b => b.clip.val).getD 0, d.gain]

/-- An entry of the priority queue as the link record holds it (chapter 11). -/
def frameEntry (f : Frame) : List Nat := [kindCode f.kind, f.priority, f.sequence.toNat]
/-- The link record (R172): settings, link state, pause, priority queue. -/
def linkKey (l : Link) : List Nat :=
  [flag l.enabled, flag l.fast, l.lossTimeout, linkCode l.state, flag l.pause.isSome,
   (l.pause.map Pause.threshold).getD 0, l.priorityQueue.length] ++ l.priorityQueue.flatMap frameEntry

/-- The lamp record (R196): each lamp's display mode and duty. -/
def lampWords (d : LampDriver) : List Nat :=
  [Lamp.onAir, .caller, .alert, .link].flatMap fun l => [lampModeCode (d.lamps.get l).mode, (d.lamps.get l).duty]

/-! ## Rewrites a step makes -/

/-- The clip store's records may be published before the first millisecond after start-up (R41; log 18). -/
def RecordId.early : RecordId → Bool
  | .storeSummary | .clip _ => true
  | _ => false

/-- Records this step rewrites; one named twice is rewritten twice (R188). Before the first millisecond after start-up only
the clip store's records are written (log 18). -/
def State.force (s : State) (rs : List RecordId) : State :=
  { s with forced := s.forced ++ rs.filter fun r => s.clock.begun || r.early }

/-- A record rewritten because an update changed what its owner's rule names (log 9). -/
def State.rewriteIf (s : State) (r : RecordId) (before after : List Nat) : State :=
  s.force (if after = before then [] else [r])

/-! ## Updates of one part of the state -/

/-- A port's state changed. -/
def State.onPort (s : State) (p : Port) (f : PortState → PortState) : State :=
  { s with ports := s.ports.modify p f }
/-- A deck record changed; its published record is rewritten (R86). -/
def State.onDeck (s : State) (d : DeckId) (f : DeckRec → DeckRec) : State :=
  ({ s with decks := s.decks.modify d f } : State).rewriteIf (.deck d) (deckKey (s.decks.get d)) (deckKey (f (s.decks.get d)))
/-- A line record changed; its published record is rewritten (R109). -/
def State.onLine (s : State) (k : Line) (f : LineRec → LineRec) : State :=
  ({ s with lines := { s.lines with recs := s.lines.recs.modify k f } } : State).rewriteIf (.line k)
    (lineKey (s.lines.recs.get k)) (lineKey (f (s.lines.recs.get k)))
/-- The link block changed; the link record is rewritten (R172). -/
def State.onLink (s : State) (f : Link → Link) : State :=
  ({ s with link := f s.link } : State).rewriteIf .link (linkKey s.link) (linkKey (f s.link))
/-- The alert engine changed; its engine and queue records are rewritten, each for what it shows (R135). -/
def State.onAlert (s : State) (f : AlertEngine → AlertEngine) : State :=
  (({ s with alert := f s.alert } : State).rewriteIf .alertEngine (engineKey s.alert) (engineKey (f s.alert))).rewriteIf
    .alertQueue (alertQueueKey s.alert) (alertQueueKey (f s.alert))
/-- The dead-air monitor changed; its record is rewritten (R148). -/
def State.onDeadAir (s : State) (f : DeadAir → DeadAir) : State :=
  ({ s with deadAir := f s.deadAir } : State).rewriteIf .deadAir (deadAirKey s.deadAir) (deadAirKey (f s.deadAir))
/-- The lamp driver changed; the lamp record is rewritten (R196). -/
def State.onLamps (s : State) (f : LampDriver → LampDriver) : State :=
  ({ s with lamps := f s.lamps } : State).rewriteIf .lamps (lampWords s.lamps) (lampWords (f s.lamps))
/-- The clip store manager changed. -/
def State.onClips (s : State) (f : ClipStore → ClipStore) : State := { s with clips := f s.clips }
/-- The arbiter changed. -/
def State.onArbiter (s : State) (f : Arbiter → Arbiter) : State := { s with arbiter := f s.arbiter }
/-- A notice or signal sent, to be delivered before the step ends (R12). -/
def State.tell (s : State) (ms : List Message) : State := { s with messages := s.messages ++ ms }

/-! ## Events and counters -/

/-- An event raised in one port's event word, page word 51 (R186). -/
def State.raise (s : State) (p : Port) (e : Event) : State :=
  s.onXm fun m => m.write (base p + 51) (m.read (base p + 51) ||| e.mask)
/-- An event raised in all three event words (R186). -/
def State.raiseAll (s : State) (e : Event) : State := ((s.raise .a e).raise .b e).raise .c e

/-- One increment taken by the counter block; a counter at its largest value holds there (R197). -/
def State.count (s : State) (c : Counter) : State :=
  { s with counters := s.counters.set c.index (min Config.counterMax (s.counters[c.index] + 1)) }

/-- The ATN output of a port: asserted while a bit is set both in its event word and in its mask (R187), released while
RESET_N is asserted (R189). -/
def State.atn (s : State) (p : Port) : Bool :=
  s.clock.power != .reset && s.pageWord p 51 &&& s.pageWord p 52 != 0

/-- The WAIT output of a port (R178). -/
def State.waitOutput (s : State) (p : Port) : Bool := (s.ports.get p).wait.isSome

/-- The mailbox of a port is busy: it holds a command, or start-up runs (R179, R181). -/
def State.mailboxBusy (s : State) (p : Port) : Bool :=
  (s.ports.get p).running.isSome || s.clock.power == .startUp

/-- What a read of location 0 returns: the XM pointer (R175). -/
def State.location0 (s : State) (p : Port) : Word := (s.ports.get p).pointer.setWidth 16

/-- What a read of location 3 returns: mailbox busy, write buffer pairs, partial pair, cursor valid (R179, chapter 11). -/
def State.location3 (s : State) (p : Port) : Word :=
  let q := s.ports.get p
  word (flag (s.mailboxBusy p) + 2 * q.writeBuffer.length + 32 * flag (!q.partialPair.isEmpty)
    + 64 * flag q.cursor.isSome)

/-! ## Steps while RESET_N is asserted -/

/-- A step of a released part; while RESET_N is asserted the part is held and takes nothing (R189). -/
def State.released (s : State) (f : State → State) : State :=
  if s.clock.power = .reset then s else f s

end Sys2Proof.Machine
end

