-- ==== Sys2Proof/Machine/AirMap.lean ====
section
/-!
DEFINITION. Machine/AirMap.lean: the ramp law, the requests on the air map, the duck factor (chapter 1, R1 to R20), and
the meanings of RAMP_END, DUCK_RAMP_END and the microphone settings' effects. Every operation tells the owners by
messages, which the step delivers before it ends.
-/
namespace Sys2Proof.Machine

/-! ## The ramp law (R4) -/

/-- A ramp taken at a level: k = 0, and a length of 0 runs as a length of 1 (R4). -/
def Ramp.begin (level target length : Nat) : Ramp := ⟨level, target, max 1 length, 0, true⟩

/-- G0 + trunc((T - G0) × k / S) (R4). -/
def Ramp.levelAt (r : Ramp) (k : Nat) : Nat :=
  ((r.start : Int) + Int.tdiv (((r.target : Int) - r.start) * k) r.length).toNat

/-- The ramp in flight has steps to make. -/
def Ramp.stepping (r : Ramp) : Bool := r.running && decide (r.position < r.length)
/-- The ramp in flight has reached k = S and has not ended yet. -/
def Ramp.atEnd (r : Ramp) : Bool := r.running && decide (r.length ≤ r.position)

/-- A level and its ramp after one program sample event (R4). -/
def rampStep (level : Nat) (r : Ramp) : Nat × Ramp :=
  if r.stepping then (r.levelAt (r.position + 1), { r with position := r.position + 1 }) else (level, r)

/-- A source record after its step of a program sample event (R4). -/
def SourceRec.step (r : SourceRec) : SourceRec :=
  { r with level := (rampStep r.level r.ramp).1, ramp := (rampStep r.level r.ramp).2 }

/-- The state a source takes as its ramp ends (R5). -/
def SourceRec.settledState (r : SourceRec) : SourceState :=
  match r.state with
  | .rising | .falling => if r.ramp.target = 0 then .off else .on
  | st => st

/-- The state of a source at a program sample event whose step has ended its ramp: the settled state is taken at that
event (R5). The mixer reads it there; every act after the event finds the record itself settled (`State.landed`). -/
def SourceRec.now (r : SourceRec) : SourceState := if r.ramp.atEnd then r.settledState else r.state

/-! ## The duck factor (R15) -/

/-- The duck target MIC's state calls for (R15). -/
def AirMap.duckTarget (a : AirMap) : Nat :=
  if a.sources.mic.state.isOpen then a.duckDepth else Config.unity

/-- K given a ramp from its present value to the target, over the duck time (R15). -/
def AirMap.retarget (a : AirMap) : AirMap :=
  { a with duckRamp := Ramp.begin a.duck a.duckTarget (a.duckTime * Config.eventsPerMs) }

/-! ## Requests -/

/-- A source record replaced; a change of MIC's state may change the duck target (R15). -/
def AirMap.put (a : AirMap) (src : Source) (r : SourceRec) : AirMap :=
  let a' := { a with sources := a.sources.set src r }
  if a'.duckTarget = a.duckTarget then a' else a'.retarget

/-- The state notice of a changed record, with the new state and L (R12). -/
def stateNotice (src : Source) (old new : SourceRec) : List Message :=
  if old.state = new.state then [] else [.state src ⟨new.state, new.level⟩]

/-- The record a RAMP leaves on a source that is not held: the table of R7. DESIGN CHOICE (log 51): a RISING source still at
L = 0 that takes a RAMP to 0 is OFF by this table, and a HOLD that follows leaves it OFF (R10), where R13's words would have
it HELD. -/
def SourceRec.rampTo (r : SourceRec) (target length : Nat) : SourceRec :=
  if r.level < target then { r with state := .rising, ramp := .begin r.level target length, saved := none }
  else if target < r.level then { r with state := .falling, ramp := .begin r.level target length, saved := none }
  else
    { r with state := if target = 0 then .off else .on, saved := none
             ramp := { r.ramp with target := target, running := false } }

/-- The answer to a RAMP on a source that is not held (R7). -/
def SourceRec.rampAnswer (r : SourceRec) (target : Nat) : Answer :=
  if r.level = target then .settled else .started

/-- RAMP(source, T, S): R7 while hold is not in force or for ALERT, R8 under hold. -/
def State.airRamp (s : State) (src : Source) (target length : Nat) : State × Answer :=
  let T := min target Config.unity
  let S := min length Config.maxRamp
  let r := s.air.sources.get src
  let plain := fun (_ : Unit) =>
    let r' := r.rampTo T S
    (({ s with air := s.air.put src r' } : State).tell (stateNotice src r r'), r.rampAnswer T)
  if src = .alert then plain ()
  else if r.state = .held then ({ s with air := s.air.put src { r with saved := some T } }, .deferred)
  else if s.air.hold = true ∧ r.state = .off then
    if T = 0 then (s, .settled)
    else
      let r' := { r with state := SourceState.held, level := 0, saved := some T
                         ramp := { r.ramp with target := 0, running := false } }
      (({ s with air := s.air.put src r' } : State).tell [.state src ⟨.held, 0⟩, .silent src], .deferred)
  else plain ()

/-- CUT(source), answered CUT_DONE (R9). -/
def State.airCut (s : State) (src : Source) : State × Answer :=
  let r := s.air.sources.get src
  let r' : SourceRec := { state := .off, level := 0, saved := none
                          ramp := { r.ramp with target := 0, running := false } }
  (({ s with air := s.air.put src r' } : State).tell (stateNotice src r r'), .cutDone)

/-- The end of a source's ramp, if it has reached k = S (R5): the settled state, the state notice or the silent notice
(R12). -/
def State.endRamp (s : State) (src : Source) : State :=
  let r := s.air.sources.get src
  if r.ramp.atEnd then
    let r' := { r with state := r.settledState, ramp := { r.ramp with running := false } }
    ({ s with air := s.air.put src r' } : State).tell
      (stateNotice src r r' ++ if r.state = .held then [.silent src] else [])
  else s

/-- The target HOLD saves for a source (R10). -/
def SourceRec.savedByHold (r : SourceRec) : Option Nat :=
  match r.state with
  | .rising | .falling => some r.ramp.target
  | .on => some r.level
  | .held => r.saved
  | .off => none

/-- The record HOLD(S) leaves (R10): HELD, saved target kept, hold ramp to 0 if L is above 0. -/
def SourceRec.held (r : SourceRec) (length : Nat) : SourceRec :=
  { r with state := .held, saved := r.savedByHold
           ramp := if r.level = 0 then { r.ramp with target := 0, running := false }
                   else .begin r.level 0 length }

/-- HOLD of one source: every source but ALERT that is not OFF (R10). A source that becomes HELD at L = 0 is silent at once
(R12). DESIGN CHOICE (log 37): a HOLD that finds a source HELD already sends its owner no second silent notice. -/
def State.holdSource (S : Nat) (s : State) (src : Source) : State :=
  let r := s.air.sources.get src
  if src = .alert ∨ r.state = .off then s
  else
    let r' := r.held S
    ({ s with air := s.air.put src r' } : State).tell
      (stateNotice src r r' ++ if r.level = 0 ∧ r.state ≠ .held then [.silent src] else [])

/-- HOLD(S): the hold flag, then every source (R10). DESIGN CHOICE (log 46): the sources are taken in the table order of R1,
and so are their notices and the STUDIO_STATUS frames that MIC and the lines cause. -/
def State.airHold (s : State) (length : Nat) : State :=
  allSources.foldl (State.holdSource (min length Config.maxRamp))
    { s with air := { s.air with hold := true } }

/-- RESTORE of one source: a ramp from its present L to Ts by the cases of R7, if it is HELD (R11). -/
def State.restoreSource (S : Nat) (s : State) (src : Source) : State :=
  let r := s.air.sources.get src
  if r.state = .held then
    let r' := r.rampTo (r.saved.getD 0) S
    ({ s with air := s.air.put src r' } : State).tell (stateNotice src r r')
  else s

/-- RESTORE(S): the hold flag cleared, then every HELD source released (R11), in the order HOLD takes them (DESIGN CHOICE,
log 46). -/
def State.airRestore (s : State) (length : Nat) : State :=
  allSources.foldl (State.restoreSource (min length Config.maxRamp))
    { s with air := { s.air with hold := false } }

/-- The end of the duck ramp, if it has reached its length: K rests at its target (R15). -/
def State.endDuck (s : State) : State :=
  if s.air.duckRamp.atEnd then
    { s with air := { s.air with duck := s.air.duckRamp.target
                                 duckRamp := { s.air.duckRamp with running := false } } }
  else s

/-- The ramp steps and the duck step of a program sample event (R4, R15). -/
def AirMap.step (a : AirMap) : AirMap :=
  { a with sources := a.sources.mapWith fun _ r => r.step
           duck := (rampStep a.duck a.duckRamp).1
           duckRamp := (rampStep a.duck a.duckRamp).2 }

/-! ## The microphone and ducking commands (R16 to R19) -/

/-- MIC as the owner sees it: the state a RAMP would meet. -/
def State.micState (s : State) : SourceState := s.air.sources.mic.state

/-- MIC_OPEN's effect on MIC, for a MIC with a receive slot (R17). -/
def State.openMic (s : State) : State :=
  match s.micState with
  | .rising | .on => s
  | _ => (s.airRamp .mic s.air.micGain (s.air.micFade * Config.eventsPerMs)).1

/-- MIC_CLOSE's effect (R18). -/
def State.closeMic (s : State) : State :=
  match s.micState with
  | .rising | .on | .held => (s.airRamp .mic 0 (s.air.micFade * Config.eventsPerMs)).1
  | .falling | .off => s

/-- MIC_GAIN's effect (R19): the settings stored, and the new gain given to an open or restorable microphone. -/
def State.setMicGain (s : State) (gain fade : Nat) : State :=
  let s := { s with air := { s.air with micGain := gain, micFade := fade } }
  let r := s.air.sources.mic
  match r.state with
  | .rising | .on => (s.airRamp .mic gain (fade * Config.eventsPerMs)).1
  | .held => if 0 < r.saved.getD 0 then (s.airRamp .mic gain (fade * Config.eventsPerMs)).1 else s
  | .falling | .off => s

/-- DUCK_SET's effect (R16): K is retargeted only while MIC is open and D differs from the running target. -/
def State.setDuck (s : State) (depth time : Nat) : State :=
  let a : AirMap := { s.air with duckDepth := depth, duckTime := time }
  if s.micState.isOpen = true ∧ depth ≠ s.air.duckRamp.target then { s with air := a.retarget }
  else { s with air := a }

end Sys2Proof.Machine
end

