-- ==== Sys2Proof/Machine/ClipStore.lean ====
section
/-!
DEFINITION. Machine/ClipStore.lean: the clip store manager (chapter 3, R37 to R54): page map, allocation, cursors,
sealing, freeing and locks. Commands answer by a `Reply`; the mailbox handler writes it into the page.
-/
namespace Sys2Proof.Machine

/-- What an owning block answers a command: results in the order of its rule, a reason for refusal, or nothing yet: the
command completes later (R183, R184). -/
inductive Reply
  | done (results : List Nat)
  | refused (r : Reason)
  | later
  deriving DecidableEq, Repr

/-! ## Pages (R37, R40, R42) -/

/-- The page count the size straps name (R37). -/
def pagesOf (sz1 sz0 : Bool) : Nat :=
  match sz1, sz0 with
  | false, true => 8192
  | true, false => 16384
  | _, _ => 4096

/-- First byte of pair n of a clip whose first page is f (R37). -/
def pairAddress (f n : Nat) : Nat :=
  (f + n / Config.pagePairs) * Config.pageBytes + n % Config.pagePairs * 8

/-- The clip that owns a page, or none if it is free (R40). -/
def pageOwner (m : List PageRun) (p : Nat) : Option (Fin 128) :=
  (m.find? fun r => decide (r.first ≤ p ∧ p < r.first + r.count)).map PageRun.clip

/-- First fit: the lowest page at or above `from` from which `want` pages are free (R42). -/
def firstFit (want total : Nat) : Nat → List PageRun → Option Nat
  | lo, [] => if lo + want ≤ total then some lo else none
  | lo, r :: t => if lo + want ≤ min r.first total then some lo else firstFit want total (r.first + r.count) t

/-- A run put into the page map, first pages rising. -/
def insertRun (r : PageRun) : List PageRun → List PageRun
  | [] => [r]
  | x :: t => if r.first < x.first then r :: x :: t else x :: insertRun r t

/-- The number of free pages (R39). -/
def ClipStore.freePages (c : ClipStore) : Nat := c.totalPages - (c.pages.map PageRun.count).sum

/-- The longest run of free pages from a page on. -/
def longestGap (total : Nat) : Nat → List PageRun → Nat
  | lo, [] => total - lo
  | lo, r :: t => max (r.first - lo) (longestGap total (r.first + r.count) t)

/-- The length of the longest run of free pages (R39). -/
def ClipStore.longestFree (c : ClipStore) : Nat := longestGap c.totalPages 0 c.pages

/-- The store capacity in pairs (R37). -/
def ClipStore.capacity (c : ClipStore) : Nat := c.totalPages * Config.pagePairs

/-- The lowest-numbered FREE entry of the clip table (R42). -/
def ClipStore.lowestFree (c : ClipStore) : Option (Fin 128) :=
  (List.finRange 128).find? fun i => c.table[i].state == .free

/-- Pages for a number of pairs: ceil(pairs / 8192) (R42). -/
def pagesFor (pairs : Nat) : Nat := (pairs + Config.pagePairs - 1) / Config.pagePairs

/-- A clip table entry. -/
def State.clip (s : State) (c : Fin 128) : ClipEntry := s.clips.table[c]
/-- A clip table entry changed; its record is rewritten if a field of it is (R41). -/
def State.onClip (s : State) (c : Fin 128) (f : ClipEntry → ClipEntry) : State :=
  (s.onClips fun k => { k with table := k.table.set c (f k.table[c]) }).force
    (if f (s.clip c) = s.clip c then [] else [.clip c])

/-- The values of the store summary (R41). -/
def summaryWords (c : ClipStore) (b : Arbiter) : List Nat :=
  [c.totalPages, c.freePages, c.longestFree, b.alertLimit, b.deckLimit, b.fallbackLimit]

/-- The store summary is rewritten if one of its values differs from what it was (R41). -/
def State.summarize (before after : State) : State :=
  after.force
    (if summaryWords after.clips after.arbiter = summaryWords before.clips before.arbiter then [] else [.storeSummary])

/-- The page map changed; the store summary follows (R41). -/
def State.onPages (s : State) (f : List PageRun → List PageRun) : State :=
  s.summarize (s.onClips fun c => { c with pages := f c.pages })

/-- A clip number parameter, if it is 0 to 127. -/
def clipOf (n : Nat) : Option (Fin 128) := if h : n < 128 then some ⟨n, h⟩ else none

/-! ## Requests that wait behind a page search (R43) -/

/-- A request on the clip table waits while a search runs, and behind the requests that already wait. -/
def State.mustWait (s : State) : Bool := s.clips.search.isSome || !s.clips.waiting.isEmpty

/-- A request put behind the others. -/
def State.enqueue (s : State) (r : ClipRequest) : State :=
  s.onClips fun c => { c with waiting := c.waiting ++ [r] }

/-! ## Allocation (R42, R43) -/

/-- CLIP_ALLOC as the manager takes it: the page search begins. -/
def State.beginSearch (s : State) (p : Port) (pairs : Nat) : State :=
  s.onClips fun c => { c with search := some ⟨p, clamp 1 c.capacity pairs, 0⟩ }

/-- The end of the page search: the first fitting run and the lowest FREE entry, or NO_SPACE (R42). -/
def State.endSearch (s : State) (q : Search) : State × Reply :=
  let s := s.onClips fun c => { c with search := none }
  let want := pagesFor q.pairs
  match firstFit want s.clips.totalPages 0 s.clips.pages, s.clips.lowestFree with
  | some f, some i =>
    let cap := want * Config.pagePairs
    ((s.onPages (insertRun ⟨f, want, i⟩)).onClip i fun _ => ⟨.loading, some q.port, f, want, cap, 0, 0⟩,
     .done ([i.val, f, want] ++ words2 cap ++ words2 q.pairs))
  | _, _ => (s, .refused .noSpace)

/-! ## Pairs leaving a write buffer (R46) -/

/-- A clip write fault: CLIP_WRITE_FAULTS and ACCESS_FAULT of the port (R45, R46). -/
def State.clipWriteFault (s : State) (p : Port) : State := (s.count (.clipWriteFaults p)).raise p .accessFault

/-- A pair of a write buffer is discarded as it leaves: its clip has left LOADING since it entered (R46). -/
def State.voidPair (s : State) (b : BoundPair) : Bool := !(b.live && (s.clip b.clip).state == .loading)

/-- The oldest pair of a port's write buffer leaves it: written if its clip has stayed LOADING since it entered, else
discarded and counted (R46). A seal that counted the pair waits for one less (R49). -/
def State.drainPair (s : State) (p : Port) : State :=
  match (s.ports.get p).writeBuffer with
  | [] => s
  | b :: t =>
    let s' := s.onPort p fun q =>
      { q with writeBuffer := t, running := q.running.map fun z => { z with pairsLeft := z.pairsLeft - 1 } }
    if s.voidPair b then s'.clipWriteFault p
    else { s' with sdram := s'.sdram.write (pairAddress (s.clip b.clip).first b.offset) (packPair b.pair) }

/-- Up to n pairs leave a port's write buffer, oldest first (R46). -/
def State.writeBurst (s : State) (p : Port) (n : Nat) : State := (List.range n).foldl (fun s _ => s.drainPair p) s

/-! ## Cursors (R44, R48) -/

/-- The port's clip read-ahead discarded, and its read fetches stopped (R44, R47). -/
def PortState.discardAhead (q : PortState) : PortState :=
  { q with clipAhead := [], fetching := false, wordsRead := 0 }

/-- The pairs of a running burst of n that have moved so far: a free value below n, since the burst is not done (R57, R59;
log 22). -/
def State.pairsMoved (s : State) (n : Nat) : Nat := Config.pairsMoved s.arbiter.cuts % max 1 n

/-- The first k pairs of the running grant have moved. -/
def Arbiter.moved (a : Arbiter) (k : Nat) : Arbiter :=
  { a with grant := a.grant.map fun g => { g with pairs := g.pairs - k }, cuts := a.cuts + 1 }

/-- The state in which a port's running write grant has moved what it has moved so far, if it moves a pair such as `f` says:
those pairs stand in the SDRAM, whatever becomes of the others (R46, R57). -/
def State.writtenSoFar (s : State) (f : BoundPair → Bool) : State :=
  match s.arbiter.grant with
  | some ⟨.port p, n, true, _⟩ =>
    let burst := (s.ports.get p).writeBuffer.take n
    let k := s.pairsMoved burst.length
    if burst.any f then (s.writeBurst p k).onArbiter fun a => a.moved k else s
  | _ => s

/-- A pair is bound to a clip and would be written (R46). -/
def State.writesTo (s : State) (i : Fin 128) (b : BoundPair) : Bool := b.clip == i && !s.voidPair b

/-- A running grant of a requester ends at once (R57). Where pairs that it has moved stand afterwards, they are moved first
(`State.writtenSoFar`, `State.cutDeck`); every other end comes with the act that empties the requester's buffer. -/
def State.endGrantOf (s : State) (w : Requester) (writes : Bool) : State :=
  s.onArbiter fun a => match a.grant with
    | some g => if g.holder = w ∧ g.writes = writes then { a with grant := none } else a
    | none => a

/-- A port's write grant whose pairs are discarded ends at once, the pairs gone from its buffer (R46, R57). -/
def State.endDeadWrite (s : State) (p : Port) : State :=
  match s.arbiter.grant with
  | some g =>
    if g.holder = .port p ∧ g.writes = true ∧ ((s.ports.get p).writeBuffer.take g.pairs).all s.voidPair = true then
      (s.writeBurst p g.pairs).endGrantOf (.port p) true
    else s
  | none => s

/-- The three ports' write grants looked at after a clip has left LOADING (R57). -/
def State.endDeadWrites (s : State) : State := ((s.endDeadWrite .a).endDeadWrite .b).endDeadWrite .c

/-- The cursor set: the partial pair and the read-ahead go (R44). DESIGN CHOICE (log 43): a read that WAIT holds meanwhile,
where the command waited behind a page search, starts fetching again at the new cursor. -/
def PortState.pointTo (q : PortState) (c : Cursor) : PortState :=
  let q := { q.discardAhead with cursor := some c, partialPair := [] }
  if q.wait = some .read then { q with fetching := true, fetchOffset := c.offset } else q

/-- CLIP_CURSOR as the manager takes it (R44). -/
def State.setCursor (s : State) (p : Port) (clip offset : Nat) : State × Reply :=
  match clipOf clip with
  | none => (s, .refused .badParam)
  | some i =>
    let e := s.clip i
    if e.state = .free then (s, .refused .notFound)
    else
      let off := min offset e.capacity
      ((s.onPort p fun q => q.pointTo ⟨i, off⟩).endGrantOf (.port p) false,
       .done ([clip] ++ words2 off ++ [clipCode e.state] ++ words2 e.capacity))

/-- What a clip's becoming FREE does to a port: a cursor that names it becomes none and its read-ahead and partial pair
go (R48); pairs in the write buffer bound to it are discarded as they come out (R46). -/
def PortState.loseClip (i : Fin 128) (q : PortState) : PortState :=
  let q := { q with writeBuffer := q.writeBuffer.map fun (b : BoundPair) => if b.clip = i then { b with live := false } else b }
  match q.cursor with
  | some c => if c.clip = i then { q.discardAhead with cursor := none, partialPair := [] } else q
  | none => q

/-- A port whose cursor is none holds no read grant (R57). -/
def State.endDeadReads (s : State) : State :=
  [Port.a, .b, .c].foldl
    (fun s p => if (s.ports.get p).cursor.isNone then s.endGrantOf (.port p) false else s) s

/-- A clip becomes FREE (R51): its pages return, its entry takes the FREE values, cursors that name it become none, and
CLIP_FREED is raised to its owner. A grant that reads or writes for the clip ends (R57). -/
def State.becomeFree (s : State) (i : Fin 128) : State :=
  let owner := (s.clip i).owner
  let s := (s.onPages fun m => m.filter fun r => r.clip ≠ i).onClip i fun _ => .free
  let s := ({ s with ports := s.ports.mapWith fun _ q => q.loseClip i } : State).endDeadReads.endDeadWrites
  match owner with
  | some p => s.raise p .clipFreed
  | none => s

/-! ## Sealing (R49) -/

/-- The pairs that a port's command in execution counted at its take and that have not left the write buffer (R49, R184;
log 39). -/
def State.pairsCounted (s : State) (p : Port) : Nat := ((s.ports.get p).running.map Running.pairsLeft).getD 0

/-- The manager takes the seal: the entry becomes READY with its sealed length and no lock (R49). Of the pairs for the clip
that a grant is writing then, those moved stand and the rest are discarded, which ends the grant (R46, R57). -/
def State.takeSeal (s : State) (p : Port) (q : Seal) : State × Reply :=
  let cap := (s.clip q.clip).capacity
  ((((s.writtenSoFar (s.writesTo q.clip)).onClip q.clip fun e => { e with state := .ready, sealed := q.length, locks := 0 }).onPort p
      fun r => { r with sealing := none }).endDeadWrites,
   .done ([q.clip.val] ++ words2 q.length ++ words2 cap))

/-- CLIP_SEAL as the manager takes it (R49): the checks in their order, then the wait for the pairs that were in the port's
write buffer at the mailbox's take (log 39); with none of them left the seal is taken at once. -/
def State.sealClip (s : State) (p : Port) (clip length : Nat) : State × Reply :=
  match clipOf clip with
  | none => (s, .refused .badParam)
  | some i =>
    let e := s.clip i
    if e.state = .free then (s, .refused .notFound)
    else if e.owner ≠ some p then (s, .refused .notOwner)
    else if e.state ≠ .loading then (s, .refused .badState)
    else
      let q : Seal := ⟨i, clamp 1 e.capacity length⟩
      if s.pairsCounted p = 0 then s.takeSeal p q
      else (s.onPort p fun r => { r with sealing := some q }, .later)

/-! ## Freeing and locks (R50, R52, R53) -/

/-- CLIP_FREE as the manager takes it (R50). Pairs that a grant has already written to the clip stand (R57). -/
def State.freeClip (s : State) (p : Port) (clip : Nat) : State × Reply :=
  match clipOf clip with
  | none => (s, .refused .badParam)
  | some i =>
    let e := s.clip i
    if e.state = .free then (s, .refused .notFound)
    else if e.owner ≠ some p then (s, .refused .notOwner)
    else if e.locks = 0 then ((s.writtenSoFar (s.writesTo i)).becomeFree i, .done [clipCode .free])
    else (s.onClip i fun e => { e with state := .retiring }, .done [clipCode .retiring, e.locks])

/-- A lock request as the manager takes it: granted on a READY clip, refused with the state otherwise (R52). -/
def State.lockNow (s : State) (i : Fin 128) : State × LockAnswer :=
  let e := s.clip i
  if e.state = .ready then
    (s.onClip i fun e => { e with locks := e.locks + 1 }, .granted e.first e.pages e.sealed)
  else (s, .refused e.state)

/-- An unlock as the manager takes it (R53): the count falls by one, and a RETIRING clip whose count reaches 0 becomes
FREE. A clip with no lock held is left as it is. -/
def State.unlockNow (s : State) (i : Fin 128) : State :=
  let e := s.clip i
  if e.locks = 0 then s
  else if e.locks = 1 ∧ e.state = .retiring then s.becomeFree i
  else s.onClip i fun e => { e with locks := e.locks - 1 }

/-- An unlock that reaches the manager: it waits behind a page search (R43). -/
def State.unlockClip (s : State) (i : Fin 128) : State :=
  if s.mustWait then s.enqueue (.unlock i) else s.unlockNow i

/-- LOCK_REQUEST: a taker's request reaches the manager, which keeps its answer for it (R52). -/
def State.requestLock (s : State) (i : Fin 128) : State :=
  if s.mustWait then s.enqueue (.lock i)
  else (s.lockNow i).1.onClips fun c => { c with lockAnswer := some (s.lockNow i).2 }

end Sys2Proof.Machine
end

