-- ==== Sys2Proof/Machine/ClipPort.lean ====
section
/-!
DEFINITION. Machine/ClipPort.lean: the clip data location of a port (R45 to R47, R178), the readers' fetches, and the clip
memory arbiter (R55 to R59).
-/
namespace Sys2Proof.Machine

/-! ## Writes through location 2 (R45) -/

/-- The condition on which a completed pair is accepted (R45): the cursor names a LOADING clip of this port, below its
capacity. -/
def State.mayPlace (s : State) (p : Port) : Option Cursor :=
  match (s.ports.get p).cursor with
  | none => none
  | some c =>
    let e := s.clip c.clip
    if e.state = .loading ∧ e.owner = some p ∧ c.offset < e.capacity then some c else none

/-- A completed pair checked, and placed or faulted (R45). -/
def State.placePair (s : State) (p : Port) (v : Pair) : State :=
  let s' := s.onPort p fun q => { q with partialPair := [] }
  match s.mayPlace p with
  | some c =>
    s'.onPort p fun q => { q with writeBuffer := q.writeBuffer ++ [⟨c.clip, c.offset, v, true⟩]
                                  cursor := some { c with offset := c.offset + 1 } }
  | none => s'.clipWriteFault p

/-- A word written through location 2: the read-ahead is discarded, the first three words of a pair are gathered, the
fourth completes it, or is held by WAIT while the write buffer is full (R45, R47, R178). -/
def State.clipWrite (s : State) (p : Port) (w : Word) : State :=
  let s := (s.onPort p PortState.discardAhead).endGrantOf (.port p) false
  let q := s.ports.get p
  match q.partialPair with
  | [w1, w2, w3] =>
    if q.writeBuffer.length < Config.writeBufferPairs then s.placePair p (pairOf w1 w2 w3 w)
    else s.onPort p fun q => { q with wait := some (.write (pairOf w1 w2 w3 w)) }
  | ws => s.onPort p fun q => { q with partialPair := ws ++ [w] }

/-- A held write is due: a place in the write buffer has freed (R178). -/
def PortState.writeDue (q : PortState) : Option Pair :=
  match q.wait with
  | some (.write v) => if q.writeBuffer.length < Config.writeBufferPairs then some v else none
  | _ => none

/-- HELD_WRITE_RELEASED: the held pair is checked, and placed or faulted, against the cursor as it then stands (R45, R178;
log 38: also where the clip was freed, or a CLIP_CURSOR that waited behind a page search was taken, while WAIT held it). -/
def State.releaseWrite (s : State) (p : Port) : State :=
  match (s.ports.get p).writeDue with
  | none => s
  | some v => (s.onPort p fun q => { q with wait := none }).placePair p v

/-! ## Reads through location 2 (R47) -/

/-- The capacity the port's cursor is held against (R44). -/
def State.cursorCapacity (s : State) (p : Port) : Nat :=
  match (s.ports.get p).cursor with
  | none => 0
  | some c => (s.clip c.clip).capacity

/-- The oldest word of the read-ahead taken; the fourth word of a pair moves the cursor (R47). -/
def PortState.takeWord (q : PortState) : PortState :=
  match q.clipAhead with
  | [] => q
  | w :: t =>
    { q with readData := w, clipAhead := t, wait := none
             wordsRead := if q.wordsRead = 3 then 0 else q.wordsRead + 1
             cursor := if q.wordsRead = 3 then q.cursor.map fun c => { c with offset := c.offset + 1 } else q.cursor }

/-- What a read of location 2 does once any partial pair is gone (R47): 0 with no cursor or at the capacity; else the
oldest word of the read-ahead, which starts fetching at the cursor if it is not fetching; WAIT if it is empty. -/
def State.readWord (s : State) (p : Port) : State :=
  match (s.ports.get p).cursor with
  | none => s.onPort p fun q => { q with readData := 0, wait := none }
  | some c =>
    if s.cursorCapacity p ≤ c.offset then s.onPort p fun q => { q with readData := 0, wait := none }
    else
      s.onPort p fun q =>
        let q := if q.fetching then q
                 else { q with fetching := true, fetchOffset := c.offset, clipAhead := [], wordsRead := 0 }
        if q.clipAhead.isEmpty then { q with wait := some .read } else q.takeWord

/-- A read of location 2: a partial pair is discarded uncounted, then the word is read (R45, R47). -/
def State.clipRead (s : State) (p : Port) : State :=
  (s.onPort p fun q => { q with partialPair := [] }).readWord p

/-- The port's cursor is none, or stands at the capacity: a read returns 0 at once (R47). -/
def State.readsZero (s : State) (p : Port) : Bool :=
  match (s.ports.get p).cursor with
  | none => true
  | some c => decide (s.cursorCapacity p ≤ c.offset)

/-- A held read is due: a word has arrived, or the cursor is none (R178) or set to the capacity meanwhile (R47; log 43). -/
def State.readDue (s : State) (p : Port) : Bool :=
  (s.ports.get p).wait == some .read && (!(s.ports.get p).clipAhead.isEmpty || s.readsZero p)

/-- HELD_READ_RELEASED: the held read completes (R178). -/
def State.releaseRead (s : State) (p : Port) : State := if s.readDue p then s.readWord p else s

/-! ## Fetches -/

/-- Pairs of a clip read from the SDRAM, from a pair on (R37). -/
def fetchPairs (m : Mem 48) (first start n : Nat) : List Pair :=
  (List.range n).map fun i => unpackPair (m.read (pairAddress first (start + i)))

/-- Pairs of a looped clip, from a pair on (R145). -/
def fetchLoop (m : Mem 48) (first sealed start n : Nat) : List Pair :=
  (List.range n).map fun i => unpackPair (m.read (pairAddress first ((start + i) % sealed)))

/-- Pairs the deck's reader has left to fetch (R66): of the current cue, or, once it is fetched, of the next cue. -/
def DeckRec.pairsLeft (r : DeckRec) : Nat :=
  match r.current with
  | none => 0
  | some c =>
    if c.fetched < c.length then c.length - c.fetched
    else match r.next with
      | some n => n.length - n.fetched
      | none => 0

/-- The deck's reader fetches up to n pairs in play order, as room and the present cue allow (R66). -/
def DeckRec.fetch (m : Mem 48) (r : DeckRec) (n : Nat) : DeckRec :=
  let n := min n (Config.bufferPairs - r.buffer.length)
  match r.current with
  | none => r
  | some c =>
    if c.fetched < c.length then
      let k := min n (c.length - c.fetched)
      { r with buffer := r.buffer ++ fetchPairs m c.first (c.start + c.fetched) k
               current := some { c with fetched := c.fetched + k } }
    else match r.next with
      | some x =>
        let k := min n (x.length - x.fetched)
        { r with buffer := r.buffer ++ fetchPairs m x.first (x.start + x.fetched) k
                 next := some { x with fetched := x.fetched + k } }
      | none => r

/-- Pairs the alert reader has left to fetch (R132). -/
def AlertEngine.pairsLeft (e : AlertEngine) : Nat :=
  match e.reader.bound with
  | none => 0
  | some _ => e.messageLength - e.reader.fetched

/-- The alert reader fetches up to n pairs (R132). -/
def AlertEngine.fetch (m : Mem 48) (e : AlertEngine) (n : Nat) : AlertEngine :=
  match e.reader.bound with
  | none => e
  | some f =>
    let k := min (min n (Config.bufferPairs - e.reader.buffer.length)) (e.messageLength - e.reader.fetched)
    { e with reader := { e.reader with buffer := e.reader.buffer ++ fetchPairs m f e.reader.fetched k
                                       fetched := e.reader.fetched + k } }

/-- The fallback reader fetches up to n pairs, looping the clip (R145). -/
def DeadAir.fetch (m : Mem 48) (d : DeadAir) (n : Nat) : DeadAir :=
  match d.binding with
  | none => d
  | some b =>
    let k := min n (Config.bufferPairs - d.buffer.length)
    { d with buffer := d.buffer ++ fetchLoop m b.first b.sealed d.fetchPosition k
             fetchPosition := (d.fetchPosition + k) % b.sealed }

/-- Pairs a port's read-ahead has room for and the clip still has (R47, R55). -/
def State.portRoom (s : State) (p : Port) : Nat :=
  let q := s.ports.get p
  match q.cursor with
  | none => 0
  | some c =>
    if q.fetching then
      min ((Config.clipAheadWords - q.clipAhead.length) / 4) ((s.clip c.clip).capacity - q.fetchOffset)
    else 0

/-- A port's read grant fetches up to n pairs into its read-ahead (R47). -/
def State.portFetch (s : State) (p : Port) (n : Nat) : State :=
  let q := s.ports.get p
  match q.cursor with
  | none => s
  | some c =>
    let k := min n (s.portRoom p)
    let ws := (fetchPairs s.sdram (s.clip c.clip).first q.fetchOffset k).flatMap pairWords
    s.onPort p fun q => { q with clipAhead := q.clipAhead ++ ws, fetchOffset := q.fetchOffset + k }

/-- A deck's running grant ends before its burst is done: the pairs already moved stand in the deck's buffer (R57). -/
def State.cutDeck (s : State) (d : DeckId) : State :=
  match s.arbiter.grant with
  | some g =>
    if g.holder = .deck d ∧ g.writes = false then
      (s.onDeck d fun r => r.fetch s.sdram (s.pairsMoved g.pairs)).onArbiter fun a =>
        { a with grant := none, cuts := a.cuts + 1 }
    else s
  | none => s

/-! ## The arbiter -/

/-- A requester's burst limit (R55); a port moves up to two pairs. -/
def Arbiter.limit (a : Arbiter) : Requester → Nat
  | .alert => a.alertLimit
  | .deck _ => a.deckLimit
  | .fallback => a.fallbackLimit
  | .port _ => 2

/-- Pairs a reader has left to fetch; the fallback reader loops, so it always has its burst limit's worth while it is
bound (R145). -/
def State.readerLeft (s : State) : Requester → Nat
  | .alert => s.alert.pairsLeft
  | .deck d => (s.decks.get d).pairsLeft
  | .fallback => if s.deadAir.binding.isSome then s.arbiter.fallbackLimit else 0
  | .port _ => 0

/-- Room in a reader's buffer. -/
def State.readerRoom (s : State) : Requester → Nat
  | .alert => Config.bufferPairs - s.alert.reader.buffer.length
  | .deck d => Config.bufferPairs - (s.decks.get d).buffer.length
  | .fallback => Config.bufferPairs - s.deadAir.buffer.length
  | .port _ => 0

/-- Whether a requester has a request waiting (R55). -/
def State.requests (s : State) (w : Requester) : Bool :=
  match w with
  | .port p => !(s.ports.get p).writeBuffer.isEmpty || decide (0 < s.portRoom p)
  | w => decide (0 < s.readerLeft w) && decide (min (s.arbiter.limit w) (s.readerLeft w) ≤ s.readerRoom w)

/-- The order in which a class is looked through: the member after the one granted last comes first (R56). -/
def Arbiter.deckOrder (a : Arbiter) : List DeckId :=
  match a.lastDeck with
  | some .d1 => [.d2, .d1]
  | _ => [.d1, .d2]
def Arbiter.portOrder (a : Arbiter) : List Port :=
  match a.lastPort with
  | some .a => [.b, .c, .a]
  | some .b => [.c, .a, .b]
  | _ => [.a, .b, .c]

/-- All requesters in the order of R56: highest class first, round robin within it. -/
def Arbiter.order (a : Arbiter) : List Requester :=
  [.alert] ++ a.deckOrder.map .deck ++ [.fallback] ++ a.portOrder.map .port

/-- The requester a free interface grants (R56). -/
def State.choice (s : State) : Option Requester := s.arbiter.order.find? s.requests

/-- The reference periods a burst takes: 32 before its first pair, then four a pair (R59). -/
def burstPeriods (pairs : Nat) : Nat := 32 + 4 * pairs

/-- Who was granted last in the holder's class (R56, R57). -/
def Arbiter.noteLast (a : Arbiter) : Requester → Arbiter
  | .alert => { a with lastAlert := true }
  | .deck d => { a with lastDeck := some d }
  | .fallback => { a with lastFallback := true }
  | .port p => { a with lastPort := some p }

/-- A grant given for a burst of n pairs. -/
def State.give (s : State) (w : Requester) (n : Nat) (writes : Bool) : State :=
  s.onArbiter fun a => { a.noteLast w with grant := some ⟨w, n, writes, burstPeriods n⟩ }

/-- The grant of the chosen requester, if one waits: a reader's burst is the lesser of its burst limit and the pairs left; a
port's is up to two pairs, written from its write buffer if it holds a pair and fetched otherwise (R55, R56). -/
def State.grantNext (s : State) : State :=
  match s.choice with
  | none => s.onArbiter fun a => { a with grant := none }
  | some (.port p) => s.give (.port p) 2 (!(s.ports.get p).writeBuffer.isEmpty)
  | some w => s.give w (min (s.arbiter.limit w) (s.readerLeft w)) false

/-- ARBITER_GRANT: the interface is free and a request waits (R56). -/
def State.arbitrate (s : State) : State :=
  if s.arbiter.grant.isNone ∧ s.choice.isSome then s.grantNext else s

/-- The pairs of a finished burst moved (R46, R57, R66, R132, R145): of a port's, up to two of those that stand in its write
buffer by then, or that its read-ahead has room for. -/
def State.moveBurst (s : State) (g : Grant) : State :=
  match g.holder with
  | .alert => s.onAlert fun e => e.fetch s.sdram g.pairs
  | .deck d => s.onDeck d fun r => r.fetch s.sdram g.pairs
  | .fallback => s.onDeadAir fun d => d.fetch s.sdram g.pairs
  | .port p =>
    if g.writes then s.writeBurst p g.pairs else s.portFetch p g.pairs

/-- BURST_END (R57): the burst's pairs are moved; the arbiter chooses again, counting the reader whose grant just ended;
if no request waits, a reader with room and pairs left continues with a further burst. -/
def State.burstDone (s : State) : State :=
  match s.arbiter.grant with
  | none => s
  | some g =>
    let s := (s.moveBurst g).onArbiter fun a => { a with grant := none }
    if s.choice.isSome then s.grantNext
    else
      let n := min (min (s.arbiter.limit g.holder) (s.readerRoom g.holder)) (s.readerLeft g.holder)
      if 0 < n then s.give g.holder n false else s

end Sys2Proof.Machine
end

