-- ==== Sys2Proof/Machine/Operands.lean ====
section
/-!
DEFINITION. Machine/Operands.lean: the operands of mailbox commands (R181, R200): command codes, permissions, parameter
words read from the copy, and the handler's answer (R183).
-/
namespace Sys2Proof.Machine

/-- The 34 commands (R182). -/
inductive Command
  | clipAlloc | clipCursor | clipSeal | clipFree | arbiterSet
  | deckLoad | deckPlay | deckStop | deckSkip | deckResume | deckNotify
  | fallbackSet | deadairSet | linkSet
  | micOpen | micClose | micGain | duckSet
  | highwayMap | lineAnswer | lineQueue | lineScreen | lineTake | lineBack | lineDrop | linePromote | lineGain
  | alertPost | alertCancel | alertPolicy | alertRelease | alertDecline
  | countersClear | lampSet
  deriving DecidableEq, Repr

/-- Command codes (chapter 11). -/
def Command.code : Command → Word
  | .clipAlloc => 0x0001 | .clipCursor => 0x0002 | .clipSeal => 0x0003 | .clipFree => 0x0004 | .arbiterSet => 0x0005
  | .deckLoad => 0x0010 | .deckPlay => 0x0011 | .deckStop => 0x0012 | .deckSkip => 0x0013 | .deckResume => 0x0014
  | .deckNotify => 0x0015 | .fallbackSet => 0x0020 | .deadairSet => 0x0021 | .linkSet => 0x0028
  | .micOpen => 0x0030 | .micClose => 0x0031 | .micGain => 0x0032 | .duckSet => 0x0033
  | .highwayMap => 0x0040 | .lineAnswer => 0x0041 | .lineQueue => 0x0042 | .lineScreen => 0x0043 | .lineTake => 0x0044
  | .lineBack => 0x0045 | .lineDrop => 0x0046 | .linePromote => 0x0047 | .lineGain => 0x0048
  | .alertPost => 0x0050 | .alertCancel => 0x0051 | .alertPolicy => 0x0052 | .alertRelease => 0x0053
  | .alertDecline => 0x0054 | .countersClear => 0x0060 | .lampSet => 0x0061

/-- All commands. -/
def allCommands : List Command :=
  [.clipAlloc, .clipCursor, .clipSeal, .clipFree, .arbiterSet, .deckLoad, .deckPlay, .deckStop, .deckSkip, .deckResume,
   .deckNotify, .fallbackSet, .deadairSet, .linkSet, .micOpen, .micClose, .micGain, .duckSet, .highwayMap, .lineAnswer,
   .lineQueue, .lineScreen, .lineTake, .lineBack, .lineDrop, .linePromote, .lineGain, .alertPost, .alertCancel,
   .alertPolicy, .alertRelease, .alertDecline, .countersClear, .lampSet]

/-- The command a value of the command word is the code of (R182). -/
def commandOf (v : Word) : Option Command := allCommands.find? fun c => c.code == v

/-- The permission table of R182. -/
def Command.permits : Command → Port → Bool
  | .clipAlloc, p | .clipSeal, p | .clipFree, p => p != .b
  | .clipCursor, _ => true
  | .micOpen, p | .micClose, p | .micGain, p | .duckSet, p | .highwayMap, p | .lineAnswer, p | .lineQueue, p
  | .lineScreen, p | .lineTake, p | .lineBack, p | .lineDrop, p | .linePromote, p | .lineGain, p
  | .alertRelease, p | .alertDecline, p => p == .b
  | .alertPost, p | .alertCancel, p | .alertPolicy, p => p == .c
  | .arbiterSet, p | .deckLoad, p | .deckPlay, p | .deckStop, p | .deckSkip, p | .deckResume, p | .deckNotify, p
  | .fallbackSet, p | .deadairSet, p | .linkSet, p | .countersClear, p | .lampSet, p => p == .a

/-- Parameter word n of a copy, from word 1 (R200). -/
def par (ws : List Word) (n : Nat) : Nat := (ws.getD (n - 1) 0).toNat
/-- A parameter of two words, high first, at word n (R200). -/
def par2 (ws : List Word) (n : Nat) : Nat := par ws n * 65536 + par ws (n + 1)
/-- The two words of a long parameter. -/
def longWords (v : Long) : List Word := [v.extractLsb' 16 16, v.extractLsb' 0 16]

/-- A flag or enable parameter: 0 or 1, compared as a whole word (R200). -/
def flagOf (n : Nat) : Option Bool := if n = 0 then some false else if n = 1 then some true else none
/-- A notify mode parameter (chapter 11). -/
def notifyOf (n : Nat) : Option NotifyMode := if n = 0 then some .onStop else if n = 1 then some .onIdle else none
/-- A class parameter (chapter 11). -/
def classOf (n : Nat) : Option AlertClass :=
  if n = 0 then some .test else if n = 1 then some .statement else if n = 2 then some .watch
  else if n = 3 then some .immediate else none
/-- A class mode parameter (chapter 11). -/
def classModeOf (n : Nat) : Option ClassMode :=
  if n = 0 then some .airAuto else if n = 1 then some .airOnRelease else if n = 2 then some .logOnly else none
/-- A generator parameter (chapter 11). -/
def generatorOf (n : Nat) : Option Generator := if n = 0 then some .t1 else if n = 1 then some .t2 else none
/-- A lamp parameter (chapter 11). -/
def lampOf (n : Nat) : Option Lamp :=
  if n = 0 then some .onAir else if n = 1 then some .caller else if n = 2 then some .alert
  else if n = 3 then some .link else none
/-- A slot parameter: 0 to 15 or none, 0x00FF; anything else is structural (R92, chapter 11). -/
def slotOf (n : Nat) : Option (Option (Fin 16)) :=
  if h : n < 16 then some (some ⟨n, h⟩) else if n = 0x00FF then some none else none

/-- The handler writes a command's answer into the page in one act, the command word last, and the mailbox holds no
command any more (R183, R201). -/
def State.answer (s : State) (p : Port) (r : Reply) : State :=
  let value := ((s.ports.get p).running.map Running.value).getD 0
  let write := fun (ws : List Word) (v : Word) =>
    (((s.xmWriteBlock (base p + 25) ws).xmWrite (base p) v).onPort p fun q => { q with running := none })
  match r with
  | .later => s
  | .done ws => write ((ws.map word ++ List.replicate 24 0).take 24 ++ [0, 0]) doneWord
  | .refused e => write (List.replicate 24 0 ++ [word e.code, value]) refusedWord

end Sys2Proof.Machine
end

