-- ==== Sys2Proof/Machine/Decks.lean ====
section
/-!
DEFINITION. Machine/Decks.lean: cue records, chain walks, priming, the cue's points, stopping, skipping, resuming, segues,
and what a deck does on notices (chapter 4, R61 to R87). A record read whose lock request waits behind a page search
holds the deck: what reaches it meanwhile waits in its inbox (R64).
-/
namespace Sys2Proof.Machine

/-! ## Cue records in exchange memory (R63, R64) -/

/-- The completion fields of a record written in one act: status, played, fault reason (R63, chapter 11). -/
def State.writeCompletion (s : State) (a : Nat) (st : CueStatus) (played : Nat) (f : Option CueFault) : State :=
  s.xmWriteBlock (a + 11) (([cueStatusCode st] ++ words2 played ++ [(f.map cueFaultCode).getD 0]).map word)

/-- A word of a record as a number. -/
def recWord (ws : List Word) (n : Nat) : Nat := (ws.getD n 0).toNat
/-- A two-word value of a record, high word first. -/
def recLong (ws : List Word) (n : Nat) : Nat := recWord ws n * 65536 + recWord ws (n + 1)
/-- A fade or segue field: clamped to 10,000 ms, in program sample events (R64). -/
def recFade (ws : List Word) (n : Nat) : Nat := min (recWord ws n) 10000 * Config.eventsPerMs

/-- The cue copy of a good record, with the place the lock's answer gave (R62, R64). -/
def cueOf (a : Nat) (ws : List Word) (i : Fin 128) (first pages sealed : Nat) : Cue :=
  let flags := ws.getD 1 0
  let start := recLong ws 3
  let rest := sealed - start
  let len := recLong ws 5
  { address := a, ends := flags.getLsbD 0, holds := flags.getLsbD 1, notifies := flags.getLsbD 2
    segues := flags.getLsbD 3, clip := i, first := first, pages := pages, start := start
    length := if len = 0 ∨ rest < len then rest else len
    gain := min (recWord ws 7) Config.unity
    fadeIn := recFade ws 8, fadeOut := recFade ws 9, segue := recFade ws 10
    played := 0, fetched := 0, fadeDone := false, segueDone := false }

/-- The fade-out point (R71). -/
def Cue.fadePoint (c : Cue) : Nat := c.length - c.fadeOut
/-- The segue point (R71). -/
def Cue.seguePoint (c : Cue) : Nat := c.length - c.segue

/-- A faulty record marked, raised and counted (R64); BAD_ADDRESS has no record to write into. -/
def State.markFault (s : State) (d : DeckId) (a : Nat) (f : CueFault) : State :=
  let s := if f = .badAddress then s else s.writeCompletion a .fault 0 (some f)
  ((s.raiseAll .cueFault).count .cueFault).onDeck d fun r => { r with lastFault := some (a, f) }

/-- The result of reading one record: good, faulty, or held until a lock is answered (R64). -/
inductive ReadResult
  | good (c : Cue)
  | faulty (f : CueFault)
  | waits
  deriving DecidableEq, Repr

/-- A record read from its lock request on (R64): NOT_READY, OUT_OF_RANGE with the lock released in the same act, or
good, with QUEUED written and the fault streak at 0. -/
def State.lockedRead (s : State) (d : DeckId) (a : Nat) (ws : List Word) (i : Fin 128) : State × ReadResult :=
  match s.lockNow i with
  | (s, .refused _) => (s.markFault d a .notReady, .faulty .notReady)
  | (s, .granted first pages sealed) =>
    if recLong ws 3 < sealed then
      ((s.writeCompletion a .queued 0 none).onDeck d fun r => { r with faultStreak := 0 },
       .good (cueOf a ws i first pages sealed))
    else ((s.unlockNow i).markFault d a .outOfRange, .faulty .outOfRange)

/-- A deck reads the record at an address in one act (R64). -/
def State.readRecord (s : State) (d : DeckId) (a : Nat) (ctx : ReadContext) : State × ReadResult :=
  if a < 64 ∨ 4080 < a then (s.markFault d a .badAddress, .faulty .badAddress)
  else
    let ws := s.xm.readBlock a 16
    match clipOf (recWord ws 2) with
    | none => (s.markFault d a .badClip, .faulty .badClip)
    | some i =>
      if s.mustWait then
        ((s.onDeck d fun r => { r with reading := some ⟨a, ws, ctx⟩ }).enqueue (.deckRead d), .waits)
      else s.lockedRead d a ws i

/-- The outcome of a walk (R65), or held by a lock request. -/
inductive WalkResult
  | found (c : Cue)
  | none
  | exhausted
  | waits
  deriving DecidableEq, Repr

/-- A walk from a link value (R65). The fault streak ends it after at most four faulty records; `fuel` only bounds the
recursion. -/
def State.walk : Nat → State → DeckId → Nat → ReadContext → State × WalkResult
  | 0, s, _, _, _ => (s, .exhausted)
  | fuel + 1, s, d, link, ctx =>
    if link = Config.noAddress then (s, .none)
    else
      match s.readRecord d link ctx with
      | (s, .good c) => (s, .found c)
      | (s, .waits) => (s, .waits)
      | (s, .faulty f) =>
        let s := s.onDeck d fun r => { r with faultStreak := r.faultStreak + 1 }
        if 4 ≤ (s.decks.get d).faultStreak then (s, .exhausted)
        else if f = .badAddress then (s, .none)
        else State.walk fuel s d (s.xm.read link).toNat ctx

/-- A walk from the link word of the record at an address, as it now stands (R72, R73, R79). -/
def State.walkFrom (s : State) (d : DeckId) (a : Nat) (ctx : ReadContext) : State × WalkResult :=
  State.walk 5 s d (s.xm.read a).toNat ctx

/-! ## Entering IDLE or SUSPENDED (R74) -/

/-- The lock of a cue copy released. -/
def State.releaseCue (s : State) (c : Option Cue) : State :=
  match c with
  | some c => s.unlockClip c.clip
  | none => s

/-- Whether DECK_STOPPED is raised on entry, by the notify mode (R74). -/
def raisesStopped (mode : NotifyMode) (from_ : DeckState) (toIdle : Bool) : Bool :=
  match mode with
  | .onStop => from_ == .playing || from_ == .held
  | .onIdle => toIdle

/-- A deck enters IDLE (`none`) or SUSPENDED with a resume address, in one act (R74). -/
def State.rest (s : State) (d : DeckId) (resume : Option Nat) : State :=
  let r := s.decks.get d
  let s := if (s.air.sources.get (.deck d)).state = .off then s else (s.airCut (.deck d)).1
  let s := s.endGrantOf (.deck d) false
  let s := (s.releaseCue r.current).releaseCue r.next
  let s := match r.next with
    | some n => s.writeCompletion n.address .pending 0 none
    | none => s
  let s := s.onDeck d fun r =>
    { r with state := if resume.isSome then .suspended else .idle
             current := none, next := none, buffer := [], playPending := false
             pendingEnd := .none, heldSilent := false, resumeAddress := resume }
  if raisesStopped r.notify r.state resume.isNone then s.raiseAll .deckStopped else s

/-! ## Starting a cue (R67) -/

/-- A deck starts its current cue in one act (R67): PLAYING written, played count 0, the RAMP whose answer decides the
state, and the segue signal if the segue point is 0. -/
def State.startCue (s : State) (d : DeckId) : State :=
  match (s.decks.get d).current with
  | none => s
  | some c =>
    let fadeNow := decide (0 < c.fadeOut ∧ c.fadePoint = 0)
    let segueNow := c.segues && decide (0 < c.segue ∧ c.seguePoint = 0)
    let s := s.writeCompletion c.address .playing 0 none
    let (s, ans) :=
      if fadeNow then s.airRamp (.deck d) 0 c.fadeOut else s.airRamp (.deck d) c.gain c.fadeIn
    let s := s.onDeck d fun r =>
      { r with state := if ans = .deferred then .held else .playing
               current := some { c with played := 0, fadeDone := fadeNow, segueDone := segueNow } }
    if segueNow then s.tell [.segue d.other] else s

/-- A record found where there was no current cue: the deck enters LOADING with play-pending set (R73, R78, R79). -/
def State.loadPending (s : State) (d : DeckId) (c : Cue) : State :=
  s.onDeck d fun r =>
    { r with state := .loading, current := some c, next := none, playPending := true, lookahead := .notMade
             resumeAddress := none }

/-! ## What follows a cue (R72, R73) -/

/-- The end of the reread of R73. -/
def State.finishReread (s : State) (d : DeckId) (a : Nat) : WalkResult → State
  | .found c => s.loadPending d c
  | .waits => s
  | .none | .exhausted => s.rest d (some a)

/-- What follows a cue that has ended or been skipped, by HOLD, END and the lookahead (R73). -/
def State.goOn (s : State) (d : DeckId) (a : Nat) (holds ends : Bool) : State :=
  let r := s.decks.get d
  match r.next with
  | some n =>
    (s.onDeck d fun r => { r with current := some n, next := none, lookahead := .notMade }).startCue d
  | none =>
    if holds = true ∨ r.lookahead = .exhausted then s.rest d (some a)
    else if ends then s.rest d none
    else
      let w := s.walkFrom d a (.reread a)
      w.1.finishReread d a w.2

/-- The end of the lookahead a completed skip makes (R78): a cue found only now is fetched from nothing. -/
def State.finishSkip (s : State) (d : DeckId) (a : Nat) (ends : Bool) : WalkResult → State
  | .found c => s.loadPending d c
  | .waits => s
  | .none => (s.onDeck d fun r => { r with lookahead := .none }).goOn d a false ends
  | .exhausted => (s.onDeck d fun r => { r with lookahead := .exhausted }).goOn d a false ends

/-- The end of a lookahead (R72). -/
def State.finishLookahead (s : State) (d : DeckId) : WalkResult → State
  | .found c => s.onDeck d fun r => { r with next := some c, lookahead := .found }
  | .waits => s
  | .none => s.onDeck d fun r => { r with lookahead := .none }
  | .exhausted => s.onDeck d fun r => { r with lookahead := .exhausted }

/-- The end of DECK_RESUME's walk, with its DONE result (R79, R84). -/
def State.finishResume (s : State) (d : DeckId) (w : WalkResult) : State :=
  let last := fun (s : State) =>
    let r := s.decks.get d
    if r.faultStreak = 0 then 0 else (r.lastFault.map fun x => cueFaultCode x.2).getD 0
  match w with
  | .found c =>
    (s.loadPending d c).answer .a (.done [d.number, deckCode .loading, c.address, 0])
  | .waits => s
  | .none | .exhausted =>
    s.answer .a (.done [d.number, deckCode .suspended, Config.noAddress, last s])

/-- The end of DECK_LOAD's read, with its DONE result (R69, R84). -/
def State.finishLoad (s : State) (d : DeckId) : ReadResult → State
  | .good c =>
    (s.onDeck d fun r => { r with state := .loading, current := some c, next := none, lookahead := .notMade }).answer .a
      (.done [d.number, deckCode .loading, c.address, 0])
  | .faulty f =>
    let s := if (s.decks.get d).notify = .onIdle then s.raiseAll .deckStopped else s
    s.answer .a (.done [d.number, deckCode .idle, Config.noAddress, cueFaultCode f])
  | .waits => s

/-- The deck's lookahead is due: the last pair of the current cue is fetched, none has been made for it, HOLD is clear,
and no read holds the deck (R72). -/
def DeckRec.lookaheadDue (r : DeckRec) : Bool :=
  match r.current with
  | none => false
  | some c => r.lookahead == .notMade && !c.holds && decide (c.length ≤ c.fetched) && r.reading.isNone

/-- LOOKAHEAD (R72). -/
def State.makeLookahead (s : State) (d : DeckId) : State :=
  let r := s.decks.get d
  if r.lookaheadDue then
    match r.current with
    | some c =>
      let w := s.walkFrom d c.address .lookahead
      w.1.finishLookahead d w.2
    | none => s
  else s

/-! ## Ends: CUT, stop, skip, PLAYED (R73, R76, R78) -/

/-- The current cue written CUT with its played count; CUE_DONE if it has NOTIFY set (R75, R76). -/
def State.writeCut (s : State) (d : DeckId) : State :=
  match (s.decks.get d).current with
  | none => s
  | some c =>
    let s := s.writeCompletion c.address .cut c.played none
    if c.notifies then s.raiseAll .cueDone else s

/-- A stop completes (R76). -/
def State.stopDone (s : State) (d : DeckId) : State := (s.writeCut d).rest d none

/-- The current cue's pairs that stand in the buffer, ahead of those of a next cue (R66). -/
def DeckRec.ownPairs (r : DeckRec) : Nat := (r.current.map fun c => c.fetched - c.played).getD 0

/-- A skip completes (R78): the cue's pairs that remain in the buffer go, its lock goes, and the chain goes on. Where it
discards the rest of the cue it unbinds the reader, which ends a running grant, also one that fetches the next cue, whose pairs
already moved stand (R57, R66); a skip that completes at the take of the last pair discards nothing (log 40). -/
def State.skipDone (s : State) (d : DeckId) : State :=
  let r := s.decks.get d
  match r.current with
  | none => s
  | some c =>
    let s := (s.writeCut d).unlockClip c.clip
    let s := if c.played < c.length then s.cutDeck d else s
    let s := s.onDeck d fun r => { r with current := none, pendingEnd := .none, buffer := r.buffer.drop r.ownPairs }
    if r.lookahead = .notMade ∧ c.holds = false then
      let w := s.walkFrom d c.address (.skip c.address c.ends)
      w.1.finishSkip d c.address c.ends w.2
    else s.goOn d c.address c.holds c.ends

/-- The pending stop or skip completes, if there is one (R76, R78). -/
def State.endPending (s : State) (d : DeckId) : State :=
  match (s.decks.get d).pendingEnd with
  | .none => s
  | .stop => s.stopDone d
  | .skip => s.skipDone d

/-- A deck whose cue is on the air, or would be if an alert did not hold it (R61). -/
def DeckRec.live (r : DeckRec) : Bool := r.state == .playing || r.state == .held

/-- The current cue's last pair has been taken (R71, R73). -/
def DeckRec.endDue (r : DeckRec) : Bool :=
  match r.current with
  | none => false
  | some c => r.live && decide (c.length ≤ c.played) && r.reading.isNone

/-- A cue played to its end (R73): PLAYED written, CUE_DONE, the lock released, then what follows. -/
def State.playedOut (s : State) (d : DeckId) : State :=
  match (s.decks.get d).current with
  | none => s
  | some c =>
    let s := s.writeCompletion c.address .played c.length none
    let s := if c.notifies then s.raiseAll .cueDone else s
    let s := (s.unlockClip c.clip).onDeck d fun r => { r with current := none }
    s.goOn d c.address c.holds c.ends

/-- CUE_END (R73, R76, R78): the take of the current cue's last pair. A lookahead still due is made first (R72). -/
def State.endCue (s : State) (d : DeckId) : State :=
  if (s.decks.get d).endDue then
    let s := s.makeLookahead d
    if (s.decks.get d).reading.isSome then s
    else if (s.decks.get d).pendingEnd = .none then s.playedOut d
    else s.endPending d
  else s

/-! ## The other points of a cue (R68, R71) -/

/-- The fade-out point is reached and not acted on (R71). -/
def DeckRec.fadeDue (r : DeckRec) : Bool :=
  match r.current with
  | none => false
  | some c =>
    r.live && r.reading.isNone && r.pendingEnd == .none && !c.fadeDone && decide (0 < c.fadeOut)
      && decide (c.fadePoint ≤ c.played)

/-- CUE_FADE_OUT_POINT (R71). -/
def State.fadeOutPoint (s : State) (d : DeckId) : State :=
  let r := s.decks.get d
  if r.fadeDue then
    match r.current with
    | some c =>
      (s.airRamp (.deck d) 0 c.fadeOut).1.onDeck d fun r => { r with current := some { c with fadeDone := true } }
    | none => s
  else s

/-- The segue point is reached and not acted on (R71). -/
def DeckRec.segueDue (r : DeckRec) : Bool :=
  match r.current with
  | none => false
  | some c =>
    r.live && r.reading.isNone && r.pendingEnd == .none && c.segues && !c.segueDone && decide (0 < c.segue)
      && decide (c.seguePoint ≤ c.played)

/-- CUE_SEGUE_POINT (R71): the segue signal is sent to the other deck. -/
def State.seguePoint (s : State) (d : DeckId) : State :=
  let r := s.decks.get d
  if r.segueDue then
    match r.current with
    | some c =>
      (s.onDeck d fun r => { r with current := some { c with segueDone := true } }).tell [.segue d.other]
    | none => s
  else s

/-- A LOADING deck is primed (R68). -/
def DeckRec.primed (r : DeckRec) : Bool :=
  match r.current with
  | none => false
  | some c =>
    r.state == .loading && r.reading.isNone
      && (decide (Config.primedPairs ≤ r.buffer.length) || decide (c.length ≤ c.fetched))

/-- DECK_PRIMED (R68). -/
def State.deckPrimed (s : State) (d : DeckId) : State :=
  let r := s.decks.get d
  if r.primed then
    if r.playPending then (s.onDeck d fun r => { r with playPending := false }).startCue d
    else s.onDeck d fun r => { r with state := .cued }
  else s

/-! ## Commands (R69, R70, R75 to R79) -/

/-- DECK_LOAD of a deck (R69). -/
def State.loadDeck (s : State) (d : DeckId) (a : Nat) : State × Reply :=
  if (s.decks.get d).state ≠ .idle then (s, .refused .badState)
  else
    let s := s.onDeck d fun r => { r with faultStreak := 0, playPending := false, lookahead := .notMade }
    let w := s.readRecord d a .load
    (w.1.finishLoad d w.2, .later)

/-- DECK_PLAY of a deck (R70). -/
def State.playDeck (s : State) (d : DeckId) : State × Reply :=
  let done := fun (s : State) =>
    let r := s.decks.get d
    (s, Reply.done [d.number, deckCode r.state, flag r.playPending])
  match (s.decks.get d).state with
  | .cued => done (s.startCue d)
  | .loading => done (s.onDeck d fun r => { r with playPending := true })
  | _ => (s, .refused .badState)

/-- The RAMP to 0 of a stop or skip, which completes at once when the source is OFF already or the deck is held silent
(R76). -/
def State.fadeToEnd (s : State) (d : DeckId) (fade : Nat) : State :=
  let w := s.airRamp (.deck d) 0 (fade * Config.eventsPerMs)
  if (w.2 = .settled ∧ (w.1.air.sources.get (.deck d)).state = .off) ∨ (w.1.decks.get d).heldSilent = true then
    w.1.endPending d
  else w.1

/-- DECK_STOP of a deck (R76, R77). -/
def State.stopDeck (s : State) (d : DeckId) (fade : Nat) : State × Reply :=
  let fade := min fade 10000
  let done := fun (s : State) => (s, Reply.done [d.number, deckCode (s.decks.get d).state, fade])
  match (s.decks.get d).state with
  | .playing | .held =>
    done ((s.onDeck d fun r => { r with pendingEnd := .stop, pendingFade := fade }).fadeToEnd d fade)
  | .loading | .cued => done (s.stopDone d)
  | .suspended => done (s.rest d none)
  | .idle => (s, .refused .badState)

/-- DECK_SKIP of a deck (R78); a record read that the skip begins and that waits for a lock holds the answer back (R84). -/
def State.skipDeck (s : State) (d : DeckId) (fade : Nat) : State × Reply :=
  let fade := min fade 10000
  let r := s.decks.get d
  if r.live = true ∧ r.pendingEnd ≠ .stop then
    let s := (s.onDeck d fun r => { r with pendingEnd := .skip, pendingFade := fade }).fadeToEnd d fade
    if (s.decks.get d).reading.isSome then (s.onDeck d fun r => { r with skipReply := some fade }, .later)
    else (s, .done [d.number, deckCode (s.decks.get d).state, fade])
  else (s, .refused .badState)

/-- The answer to a DECK_SKIP that waited, once no read holds the deck (R84). -/
def State.answerSkip (s : State) (d : DeckId) : State :=
  let r := s.decks.get d
  match r.reading, r.skipReply with
  | none, some fade =>
    (s.onDeck d fun r => { r with skipReply := none }).answer .a (.done [d.number, deckCode r.state, fade])
  | _, _ => s

/-- DECK_RESUME of a deck (R79). -/
def State.resumeDeck (s : State) (d : DeckId) : State × Reply :=
  let r := s.decks.get d
  match r.state, r.resumeAddress with
  | .suspended, some a =>
    let s := s.onDeck d fun r => { r with faultStreak := 0 }
    let w := s.walkFrom d a .resume
    (w.1.finishResume d w.2, .later)
  | _, _ => (s, .refused .badState)

/-- DECK_NOTIFY of a deck (R75). -/
def State.notifyDeck (s : State) (d : DeckId) (mode : Nat) : State × Reply :=
  match notifyOf mode with
  | none => (s, .refused .badParam)
  | some m => (s.onDeck d fun r => { r with notify := m }, .done [d.number, notifyCode m])

/-- A deck command on the deck its first parameter names (R84). -/
def State.deckCommand (s : State) (c : Command) (d : DeckId) (ws : List Word) : State × Reply :=
  match c with
  | .deckLoad => s.loadDeck d (par ws 2)
  | .deckPlay => s.playDeck d
  | .deckStop => s.stopDeck d (par ws 2)
  | .deckSkip => s.skipDeck d (par ws 2)
  | .deckResume => s.resumeDeck d
  | .deckNotify => s.notifyDeck d (par ws 2)
  | _ => (s, .later)

/-! ## What reaches a deck (R80 to R84) -/

/-- A state notice taken (R76, R82, R83). -/
def State.deckState (s : State) (d : DeckId) (st : SourceState) : State :=
  let r := s.decks.get d
  if st = .held then
    if r.state = .playing then s.onDeck d fun r => { r with state := .held } else s
  else
    let s := match r.state with
      | .held => s.onDeck d fun r => { r with state := .playing, heldSilent := false }
      | .loading => s.onDeck d fun r => { r with heldSilent := false }
      | _ => s
    if st = .off ∧ (s.decks.get d).live = true then s.endPending d else s

/-- A silent notice taken (R76, R82). -/
def State.deckSilent (s : State) (d : DeckId) : State :=
  let s := s.onDeck d fun r => { r with heldSilent := true }
  if (s.decks.get d).live then s.endPending d else s

/-- A segue signal taken (R80). -/
def State.deckSegue (s : State) (d : DeckId) : State :=
  match (s.decks.get d).state with
  | .cued => s.startCue d
  | .loading => s.onDeck d fun r => { r with playPending := true }
  | _ => (s.raiseAll .segueMissed).count .segueMissed

/-- One message handled by a deck no read holds. A command is port A's command in execution. -/
def State.deckHandle (s : State) (d : DeckId) : DeckMessage → State
  | .state n => s.deckState d n.state
  | .silent => s.deckSilent d
  | .segue => s.deckSegue d
  | .command =>
    match s.ports.a.running with
    | none => s
    | some q =>
      match commandOf q.value with
      | none => s
      | some c =>
        let w := s.deckCommand c d q.params
        w.1.answer .a w.2

/-- The played count of the current cue; 0 without one. -/
def DeckRec.played (r : DeckRec) : Nat := (r.current.map Cue.played).getD 0

/-- A message reaches a deck: handled, or behind the read that holds the deck (R64, R84). -/
def State.deckTake (s : State) (d : DeckId) (m : DeckMessage) : State :=
  if (s.decks.get d).reading.isSome then
    s.onDeck d fun r => { r with inbox := r.inbox ++ [⟨r.played, m⟩] }
  else s.deckHandle d m

/-- A deck record as the takes up to a played count left it. -/
def DeckRec.upTo (r : DeckRec) (n : Nat) : DeckRec :=
  { r with current := r.current.map fun c => { c with played := min n c.played } }

/-- The takes up to a played count are taken whole: the points they reached are acted on in the order of R71's table. -/
def State.takesUpTo (s : State) (d : DeckId) (n : Nat) : State :=
  let s := if ((s.decks.get d).upTo n).fadeDue then s.fadeOutPoint d else s
  let s := if ((s.decks.get d).upTo n).segueDue then s.seguePoint d else s
  if ((s.decks.get d).upTo n).endDue then s.endCue d else s

/-- What a deck no read holds owes for its reader's fetches: the lookahead (R72) and the end of priming (R68). -/
def State.fetchesTaken (s : State) (d : DeckId) : State := (s.makeLookahead d).deckPrimed d

/-- The messages that waited are handled in order, each behind the takes that came before it (R84), until a read holds the
deck again. -/
def State.deckDrain : Nat → State → DeckId → State
  | 0, s, _ => s
  | fuel + 1, s, d =>
    match (s.decks.get d).inbox with
    | [] => s
    | m :: t =>
      let s := ((s.fetchesTaken d).takesUpTo d m.played).fetchesTaken d
      if (s.decks.get d).reading.isSome then s
      else State.deckDrain fuel ((s.onDeck d fun r => { r with inbox := t }).deckHandle d m.message) d

/-- A deck command as it reaches its deck from port A's mailbox (R84): it waits with a held deck (R64). -/
def State.deckMailbox (s : State) (c : Command) (ws : List Word) : State × Reply :=
  match deckOf (par ws 1) with
  | none => (s, .refused .badParam)
  | some d =>
    if (s.decks.get d).reading.isSome then (s.deckTake d .command, .later) else s.deckCommand c d ws

/-- The outcome of a record read goes to what asked for it. -/
def State.finishWalk (s : State) (d : DeckId) (ctx : ReadContext) (w : WalkResult) : State :=
  match ctx with
  | .load => s
  | .lookahead => s.finishLookahead d w
  | .skip a ends => s.finishSkip d a ends w
  | .reread a => s.finishReread d a w
  | .resume => s.finishResume d w

/-- The lock request of a held record read reaches the manager (R64): the read ends, its walk goes on, a skip that waited is
answered, and then what waited for the deck is taken. -/
def State.deckReadAnswered (s : State) (d : DeckId) : State :=
  match (s.decks.get d).reading with
  | none => s
  | some q =>
    let s := s.onDeck d fun r => { r with reading := none }
    match clipOf (recWord q.words 2) with
    | none => s
    | some i =>
      let w := s.lockedRead d q.address q.words i
      let s := match q.context, w.2 with
        | .load, res => w.1.finishLoad d res
        | ctx, .good c => w.1.finishWalk d ctx (.found c)
        | _, .waits => w.1
        | ctx, .faulty _ =>
          let s := w.1.onDeck d fun r => { r with faultStreak := r.faultStreak + 1 }
          if 4 ≤ (s.decks.get d).faultStreak then s.finishWalk d ctx .exhausted
          else
            let w := State.walk 5 s d (s.xm.read q.address).toNat ctx
            w.1.finishWalk d ctx w.2
      State.deckDrain ((s.decks.get d).inbox.length + 1) (s.answerSkip d) d

/-! ## Takes (R22, R71) -/

/-- Whether the mixer takes a pair from the deck at each event (R22): PLAYING, or HELD and not yet held silent. -/
def DeckRec.taking (r : DeckRec) : Bool := r.state == .playing || (r.state == .held && !r.heldSilent)

/-- One take: the oldest pair and the deck after it, or none from an empty buffer (R22, R71). -/
def DeckRec.take (r : DeckRec) : DeckRec × Option Pair :=
  match r.buffer with
  | [] => (r, none)
  | p :: t => ({ r with buffer := t, current := r.current.map fun c => { c with played := c.played + 1 } }, some p)

end Sys2Proof.Machine
end

