-- ==== Sys2Proof/Machine/Lines.lean ====
section
/-!
DEFINITION. Machine/Lines.lean: the highway interface and the line controller (chapter 5, R88 to R110).
-/
namespace Sys2Proof.Machine

/-! ## The slot map (R91, R92) -/

/-- A line is connected while it has both slots (R91). -/
def SlotMap.connected (m : SlotMap) (k : Line) : Bool := (m.lineRx.get k).isSome && (m.lineTx.get k).isSome

/-- The entries that name receive slots, and those that name transmit slots (R91). -/
def SlotMap.receiving (m : SlotMap) : List (Option (Fin 16)) :=
  [m.mic, m.screenerRx] ++ allLines.map m.lineRx.get
def SlotMap.transmitting (m : SlotMap) : List (Option (Fin 16)) :=
  [m.screenerTx, m.pgmLeft, m.pgmRight] ++ allLines.map m.lineTx.get

/-- A slot is named twice in one direction (R92). -/
def namedTwice (es : List (Option (Fin 16))) : Bool := !(decide (es.filterMap id).Nodup)

/-- The slot map a HIGHWAY_MAP copy names, in the order of R200; none if a slot value is structural. DESIGN CHOICE (log 50):
the slots of LINE1 to LINE8 are taken line by line, each line's receive slot before its transmit slot. -/
def slotMapOf (ws : List Word) : Option SlotMap := do
  let mic ← slotOf (par ws 1)
  let srx ← slotOf (par ws 2)
  let stx ← slotOf (par ws 3)
  let pl ← slotOf (par ws 4)
  let pr ← slotOf (par ws 5)
  let r1 ← slotOf (par ws 6)
  let t1 ← slotOf (par ws 7)
  let r2 ← slotOf (par ws 8)
  let t2 ← slotOf (par ws 9)
  let r3 ← slotOf (par ws 10)
  let t3 ← slotOf (par ws 11)
  let r4 ← slotOf (par ws 12)
  let t4 ← slotOf (par ws 13)
  let r5 ← slotOf (par ws 14)
  let t5 ← slotOf (par ws 15)
  let r6 ← slotOf (par ws 16)
  let t6 ← slotOf (par ws 17)
  let r7 ← slotOf (par ws 18)
  let t7 ← slotOf (par ws 19)
  let r8 ← slotOf (par ws 20)
  let t8 ← slotOf (par ws 21)
  pure ⟨mic, srx, stx, pl, pr, ⟨r1, r2, r3, r4, r5, r6, r7, r8⟩, ⟨t1, t2, t3, t4, t5, t6, t7, t8⟩,
    word (par ws 22), word (par ws 23)⟩

/-- The 23 words of a slot map in HIGHWAY_MAP order (R200, chapter 11). -/
def SlotMap.words (m : SlotMap) : List Nat :=
  ([m.mic, m.screenerRx, m.screenerTx, m.pgmLeft, m.pgmRight].map slotCode
    ++ allLines.flatMap fun k => [slotCode (m.lineRx.get k), slotCode (m.lineTx.get k)])
    ++ [m.rxEnable.toNat, m.txEnable.toNat]

/-- HIGHWAY_MAP (R92): the checks in their order; an accepted map stops every ring qualify timer. -/
def State.mapHighway (s : State) (ws : List Word) : State × Reply :=
  match slotMapOf ws with
  | none => (s, .refused .badParam)
  | some m =>
    if (allLines.any fun k => (s.lines.recs.get k).state != .idle) || s.air.sources.mic.state != .off then
      (s, .refused .badState)
    else if namedTwice m.receiving || namedTwice m.transmitting then (s, .refused .slotTaken)
    else
      (({ s with highway := { s.highway with map := m }
                 lines := { s.lines with recs := s.lines.recs.mapWith fun _ r => { r with ringQualify := none } } } : State)
         |>.rewriteIf .lineSummary s.highway.map.words m.words,
       .done m.words)

/-! ## Seats (R93, R102) -/

/-- Seats or screener binding changed; the line summary is rewritten (R109). -/
def State.onCallers (s : State) (f : LineControl → LineControl) : State :=
  ({ s with lines := f s.lines } : State).rewriteIf .lineSummary (callersKey s.lines) (callersKey (f s.lines))
/-- The line controller notes whether a line's source takes a seat: it is not OFF. -/
def State.seat (s : State) (k : Line) (taken : Bool) : State :=
  s.onCallers fun c => { c with seats := c.seats.set k taken }
/-- The state of a line's source. -/
def State.lineSource (s : State) (k : Line) : SourceState := (s.air.sources.get (.line k)).state

/-- A RAMP of a line's source; its answer tells the seat (R102). -/
def State.lineRamp (s : State) (k : Line) (target ms : Nat) : State × Answer :=
  let w := s.airRamp (.line k) target (ms * Config.eventsPerMs)
  (w.1.seat k (w.1.lineSource k != .off), w.2)

/-- A CUT of a line's source unless it is OFF; the seat is free at once (R99, R103, R106). -/
def State.lineCut (s : State) (k : Line) : State :=
  if s.lineSource k = .off then s else (s.airCut (.line k)).1.seat k false

/-! ## Queue and screener (R100, R101) -/

/-- The caller queue changed; its record is rewritten (R109). -/
def State.onQueue (s : State) (f : List Line → List Line) : State :=
  ({ s with lines := { s.lines with queue := f s.lines.queue } } : State).rewriteIf .callerQueue
    (s.lines.queue.map Line.number) ((f s.lines.queue).map Line.number)
/-- The screener binding set. -/
def State.bindScreener (s : State) (k : Option Line) : State :=
  s.onCallers fun c => { c with screener := k }
/-- A line's place in the queue, counted from 1 at the head. -/
def State.place (s : State) (k : Line) : Nat := s.lines.queue.idxOf k + 1
/-- A line leaves the queue and the screener, wherever it stands (R99, R102, R105). -/
def State.leave (s : State) (k : Line) : State :=
  let s := s.onQueue fun q => q.filter (· ≠ k)
  if s.lines.screener = some k then s.bindScreener none else s
/-- A line enters WAITING at the tail of the queue (R100). -/
def State.toQueue (s : State) (k : Line) : State :=
  (s.onLine k fun r => { r with state := .waiting }).onQueue fun q => q ++ [k]
/-- A line enters SCREEN (R101). -/
def State.toScreener (s : State) (k : Line) : State :=
  (s.onLine k fun r => { r with state := .screen }).bindScreener (some k)

/-- A line enters RELEASING (R94, R99, R105). -/
def State.toReleasing (s : State) (k : Line) (seize : Bool) : State :=
  s.onLine k fun r =>
    { r with state := .releasing, seize := seize, answerGrace := none, loopLoss := none
             releaseGuard := startTimer 500 }

/-- A call in SCREEN, WAITING or ON_AIR (R96). -/
def LineState.inCall : LineState → Bool
  | .screen | .waiting | .onAir => true
  | _ => false

/-- A far-end hangup (R99). -/
def State.hangup (s : State) (k : Line) : State :=
  ((((s.lineCut k).leave k).toReleasing k false).raiseAll .lineDropped).count .lineDrops

/-! ## Arrivals and timers (R89, R94 to R96, R106) -/

/-- An arrival's effect on a line record, by the line's state (R94 to R96). -/
def LineRec.arrival (r : LineRec) (ring loop : Bool) : LineRec :=
  let r := { r with lastRing := ring, lastLoop := loop }
  match r.state with
  | .idle => { r with ringQualify := if ring then startIfStopped r.ringQualify 100 else none }
  | .ringing => { r with ringGap := if ring then none else startIfStopped r.ringGap 6000 }
  | .screen | .waiting | .onAir =>
    if loop then
      { r with loopSeen := true, loopLoss := none, answerGrace := if r.loopSeen then r.answerGrace else none }
    else if r.loopSeen then { r with loopLoss := startIfStopped r.loopLoss 400 }
    else r
  | .releasing => r

/-- SLOT_WORD_ARRIVAL (R89): the sample kept for its slot, and RING and LOOP handed to the connected line the slot is
assigned to. A slot disabled for receiving reads as sample 0, RING clear and LOOP clear. -/
def State.slotArrival (s : State) (slot : Fin 16) (w : BitVec 32) : State :=
  let m := s.highway.map
  let w := if m.rxEnable.getLsbD slot then w else 0
  let s := { s with highway := { s.highway with kept := s.highway.kept.set slot (w.extractLsb' 8 24) } }
  match allLines.find? fun k => m.lineRx.get k == some slot && m.connected k with
  | some k => s.onLine k fun r => r.arrival (w.getLsbD 7) (w.getLsbD 6)
  | none => s

/-- RING_QUALIFY_EXPIRY (R95). -/
def State.ringQualified (s : State) (k : Line) : State :=
  let r := s.lines.recs.get k
  if ranOut r.ringQualify = true ∧ r.state = .idle then
    (s.onLine k fun r => { r with state := .ringing, ringQualify := none }).raiseAll .lineRing
  else s

/-- RING_GAP_EXPIRY (R95). -/
def State.ringGone (s : State) (k : Line) : State :=
  let r := s.lines.recs.get k
  if ranOut r.ringGap = true ∧ r.state = .ringing then
    ((s.onLine k fun r => { r with state := .idle, ringGap := none }).raiseAll .missedCall).count .missedCalls
  else s

/-- ANSWER_GRACE_EXPIRY (R96). -/
def State.graceOver (s : State) (k : Line) : State :=
  let r := s.lines.recs.get k
  if ranOut r.answerGrace = true ∧ r.state.inCall = true then s.hangup k else s

/-- LOOP_LOSS_EXPIRY (R96). -/
def State.loopLost (s : State) (k : Line) : State :=
  let r := s.lines.recs.get k
  if ranOut r.loopLoss = true ∧ r.state.inCall = true then s.hangup k else s

/-- RELEASE_GUARD_EXPIRY (R106): seize cleared, the source cut if it is not OFF, IDLE. -/
def State.guardOver (s : State) (k : Line) : State :=
  let r := s.lines.recs.get k
  if ranOut r.releaseGuard = true ∧ r.state = .releasing then
    (s.lineCut k).onLine k fun r => { r with state := .idle, seize := false, releaseGuard := none }
  else s

/-- A state notice of a LINE source taken (R106, R107). -/
def State.lineNotice (s : State) (k : Line) (st : SourceState) : State :=
  let s := s.seat k (st != .off)
  if st = .off ∧ (s.lines.recs.get k).state = .releasing then s.onLine k fun r => { r with seize := false } else s

/-! ## Commands (R97 to R105) -/

/-- LINE_ANSWER (R97). -/
def State.answerLine (s : State) (line dest : Nat) : State × Reply :=
  match lineOf line, flagOf dest with
  | some k, some queued =>
    if (s.lines.recs.get k).state ≠ .ringing then (s, .refused .badState)
    else if queued = false ∧ s.lines.screener.isSome = true then (s, .refused .screenerBusy)
    else
      let s := (s.onLine k fun r =>
        { r with seize := true, ringGap := none, loopSeen := false, answerGrace := startTimer 2000 }).count .callsAnswered
      if queued then
        let s := s.toQueue k
        (s, .done [line, lineCode .waiting, s.place k])
      else (s.toScreener k, .done [line, lineCode .screen])
  | _, _ => (s, .refused .badParam)

/-- LINE_QUEUE (R101). -/
def State.queueLine (s : State) (line : Nat) : State × Reply :=
  match lineOf line with
  | none => (s, .refused .badParam)
  | some k =>
    if (s.lines.recs.get k).state ≠ .screen then (s, .refused .badState)
    else
      let s := (s.leave k).toQueue k
      (s, .done [line, s.place k])

/-- LINE_SCREEN (R101). -/
def State.screenLine (s : State) (line : Nat) : State × Reply :=
  match lineOf line with
  | none => (s, .refused .badParam)
  | some k =>
    if (s.lines.recs.get k).state ≠ .waiting then (s, .refused .badState)
    else if s.lines.screener.isSome then (s, .refused .screenerBusy)
    else ((s.leave k).toScreener k, .done [line])

/-- The line LINE_TAKE names: 1 to 8, or the head of the queue for NEXT, 0x00FF (R102, chapter 11). -/
def State.takeParameter (s : State) (n : Nat) : Except Reason Line :=
  if n = 0x00FF then
    match s.lines.queue with
    | [] => .error .notFound
    | k :: _ => .ok k
  else
    match lineOf n with
    | none => .error .badParam
    | some k => .ok k

/-- LINE_TAKE (R102). -/
def State.takeLine (s : State) (n : Nat) : State × Reply :=
  match s.takeParameter n with
  | .error e => (s, .refused e)
  | .ok k =>
    let r := s.lines.recs.get k
    if r.state ≠ .screen ∧ r.state ≠ .waiting then (s, .refused .badState)
    else if 3 ≤ s.lines.seatCount then (s, .refused .airFull)
    else
      let s := ((s.leave k).onLine k fun r => { r with state := .onAir }).lineRamp k r.gain r.fade |>.1
      (s, .done [k.number, r.gain, r.fade, sourceCode (s.lineSource k), s.lines.seatCount])

/-- LINE_BACK (R103). -/
def State.backLine (s : State) (line : Nat) : State × Reply :=
  match lineOf line with
  | none => (s, .refused .badParam)
  | some k =>
    if (s.lines.recs.get k).state ≠ .onAir then (s, .refused .badState)
    else
      let s := (s.lineCut k).toQueue k
      (s, .done [line, s.place k])

/-- LINE_GAIN (R104). -/
def State.gainLine (s : State) (line gain fade : Nat) : State × Reply :=
  match lineOf line with
  | none => (s, .refused .badParam)
  | some k =>
    let gain := min gain Config.unity
    let fade := min fade 250
    let onAir := (s.lines.recs.get k).state = .onAir
    let off := s.lineSource k = .off
    if onAir ∧ off ∧ 0 < gain ∧ 3 ≤ s.lines.seatCount then (s, .refused .airFull)
    else
      let s := s.onLine k fun r => { r with gain := gain, fade := fade }
      let s := if onAir ∧ (¬ off ∨ 0 < gain) then (s.lineRamp k gain fade).1 else s
      (s, .done [line, gain, fade, lineCode (s.lines.recs.get k).state, sourceCode (s.lineSource k)])

/-- LINE_DROP (R105, R106). -/
def State.dropLine (s : State) (line : Nat) : State × Reply :=
  match lineOf line with
  | none => (s, .refused .badParam)
  | some k =>
    let r := s.lines.recs.get k
    let done := fun (s : State) =>
      (s, Reply.done [line, lineCode (s.lines.recs.get k).state, flag (s.lines.recs.get k).seize])
    match r.state with
    | .screen | .waiting => done ((s.leave k).toReleasing k false)
    | .onAir =>
      let w := s.lineRamp k 0 r.fade
      done (w.1.toReleasing k !(w.2 == .settled && w.1.lineSource k == .off))
    | _ => (s, .refused .badState)

/-- LINE_PROMOTE (R100). -/
def State.promoteLine (s : State) (line : Nat) : State × Reply :=
  match lineOf line with
  | none => (s, .refused .badParam)
  | some k =>
    if (s.lines.recs.get k).state ≠ .waiting then (s, .refused .badState)
    else
      let s := s.onQueue fun q => k :: q.filter (· ≠ k)
      (s, .done [line, s.lines.queue.length])

/-! ## The transmit frame (R33, R90) -/

/-- The word of a driven transmit slot: sample, SEIZE, the rest 0 (chapter 11, R202). -/
def transmitWord (x : Sample) (seize : Bool) : BitVec 32 :=
  x ++ (if seize then 0x80#8 else 0x00#8)

/-- What a transmit slot carries, if the map assigns it (R33, R90). -/
def State.slotWord (s : State) (n : Fin 16) : Option (BitVec 32) :=
  let m := s.highway.map
  let f := s.mixer
  if m.pgmLeft = some n then some (transmitWord f.program.left false)
  else if m.pgmRight = some n then some (transmitWord f.program.right false)
  else if m.screenerTx = some n then some (transmitWord f.screenerOut false)
  else
    (allLines.find? fun k => m.lineTx.get k == some n).map fun k =>
      transmitWord (f.lineOut.get k) (s.lines.recs.get k).seize

/-- TRANSMIT_FRAME (R90): each slot the map assigns and enables is driven, every other is left in high impedance. -/
def State.sendHighwayFrame (s : State) : State :=
  { s with highway := { s.highway with
      transmitted := ⟨⟨(List.finRange 16).map fun (n : Fin 16) => if s.highway.map.txEnable.getLsbD n then s.slotWord n else none⟩,
        by simp⟩ } }

end Sys2Proof.Machine
end

