-- ==== Sys2Proof/Machine/Lamps.lean ====
section
/-!
DEFINITION. Machine/Lamps.lean: the lamp driver (chapter 10, R192 to R196).
-/
namespace Sys2Proof.Machine

/-- A lamp's flash reload: 250 ms for ALERT, 500 ms for LINK (R192); ON AIR and CALLER never flash. -/
def flashReload : Lamp → Nat
  | .alert => 250
  | _ => 500

/-- The display mode the inputs call for (R193). -/
def LampInputs.mode (i : LampInputs) : Lamp → LampMode
  | .onAir => if i.mic.isOpen then .steady else .off
  | .caller => if allLines.any i.lines.get then .steady else .off
  | .alert => if i.phase ≠ .standby then .steady else if i.waiting then .flash else .off
  | .link => if i.link = .up then (if i.paused then .flash else .steady) else .off

/-- The lamp an input belongs to (R193). -/
def lampOfInput : LampInput → Lamp
  | .mic _ => .onAir
  | .line _ _ => .caller
  | .phase _ | .waiting _ => .alert
  | .link _ | .pause _ => .link

/-- The inputs with one replaced as its owner reports it (R193). -/
def LampInputs.take (i : LampInputs) : LampInput → LampInputs
  | .mic st => { i with mic := st }
  | .line k b => { i with lines := i.lines.set k b }
  | .phase p => { i with phase := p }
  | .waiting b => { i with waiting := b }
  | .link st => { i with link := st }
  | .pause b => { i with paused := b }

/-- A display mode given to a lamp: entering FLASH begins a whole ON half, leaving it stops the timer, and a change that
keeps FLASH touches neither (R194). -/
def LampRec.display (r : LampRec) (reload : Nat) (m : LampMode) : LampRec :=
  if m = r.mode then r
  else if m = .flash then { r with mode := .flash, half := true, timer := startTimer reload }
  else if r.mode = .flash then { r with mode := m, half := false, timer := none }
  else { r with mode := m }

/-- LAMP_INPUT_CHANGE: one input taken, and its own lamp's display mode set (R193). -/
def State.lampInput (s : State) (i : LampInput) : State :=
  let ins := s.lamps.inputs.take i
  let l := lampOfInput i
  s.onLamps fun d => { inputs := ins, lamps := d.lamps.modify l fun r => r.display (flashReload l) (ins.mode l) }

/-- FLASH_TIMER_EXPIRY: the half of a flashing lamp changes and the timer starts again (R194). -/
def State.flashOver (s : State) (l : Lamp) : State :=
  let r := s.lamps.lamps.get l
  if ranOut r.timer = true ∧ r.mode = .flash then
    s.onLamps fun d => { d with lamps := d.lamps.modify l fun r =>
      { r with half := !r.half, timer := startTimer (flashReload l) } }
  else s

/-- A lamp is lit for a cycle: STEADY, or FLASH with the half ON (R195). -/
def LampRec.lit (r : LampRec) : Bool := r.mode == .steady || (r.mode == .flash && r.half)

/-- The start of a PWM cycle: a lit lamp is on for the first n of 256 steps (R195). -/
def LampDriver.startCycle (d : LampDriver) : LampDriver :=
  { d with lamps := d.lamps.mapWith fun _ r => { r with onSteps := if r.lit then r.duty else 0 } }

/-- LAMP_SET (R196). -/
def State.setLamp (s : State) (lamp duty : Nat) : State × Reply :=
  match lampOf lamp with
  | none => (s, .refused .badParam)
  | some l =>
    let duty := min duty 255
    (s.onLamps fun d => { d with lamps := d.lamps.modify l fun r => { r with duty := duty } },
     .done [lamp, duty])

end Sys2Proof.Machine
end

