-- ==== Sys2Proof/Machine/Link.lean ====
section
/-!
DEFINITION. Machine/Link.lean: the transmitter link (chapter 8, R150 to R173): the check, forming frames, the queues, the
transmitter, pauses, reception and the link state.
-/
namespace Sys2Proof.Machine

/-! ## Bytes and the check (R153, R154) -/

/-- A number as one byte. -/
def byte (n : Nat) : Byte := BitVec.ofNat 8 n
/-- A number as two bytes, high byte first (R153). -/
def bytes2 (n : Nat) : List Byte := [byte (n / 256), byte n]

/-- One bit fed through the check register (R154). -/
def crcBit (c : Word) (b : Bool) : Word :=
  let shifted := c <<< 1
  if c.msb != b then shifted ^^^ 0x1021 else shifted
/-- One byte fed, most significant bit first (R154). -/
def crcByte (c : Word) (x : Byte) : Word :=
  [7, 6, 5, 4, 3, 2, 1, 0].foldl (fun c i => crcBit c (x.getLsbD i)) c
/-- The check over a stretch of bytes (R154). -/
def crc (xs : List Byte) : Word := xs.foldl crcByte 0xFFFF

/-- The header (R153, chapter 11). -/
def Frame.header (f : Frame) : List Byte :=
  [byte (kindCode f.kind), byte f.priority] ++ bytes2 f.sequence.toNat ++ bytes2 f.payload.length
/-- The bytes of a frame on the wire: start pattern, header, payload, check (R153). -/
def Frame.wire (f : Frame) : List Byte :=
  let body := f.header ++ f.payload
  [0xA5, 0x3C] ++ body ++ bytes2 (crc body).toNat
/-- The bits a frame occupies the line for, its gap included (R153). -/
def Frame.bits (f : Frame) : Nat := (8 + f.payload.length + 2 + 12) * 8

/-! ## The transmitter's choice (R164) -/

/-- A frame passes the pause: none is in force, or its priority is above the threshold (R164). -/
def Link.passes (l : Link) (f : Frame) : Bool :=
  match l.pause with
  | none => true
  | some p => decide (p.threshold < f.priority)

/-- The chosen frame taken from its queue: the oldest of the priority queue that passes, else the program head (R164). -/
def Link.choose (l : Link) : Option (Frame × Link) :=
  match l.priorityQueue.find? l.passes with
  | some f => some (f, { l with priorityQueue := l.priorityQueue.erase f })
  | none =>
    match l.programQueue with
    | f :: t => if l.passes f then some (f, { l with programQueue := t }) else none
    | [] => none

/-- The transmitter looks for a frame: idle and enabled, it starts the chosen one at the rate in force (R164). -/
def Link.transmit (l : Link) : Link :=
  if l.enabled = true ∧ l.sending = none then
    match l.choose with
    | some (f, l) => { l with sending := some ⟨f, l.fast, f.wire, f.bits⟩ }
    | none => l
  else l

/-- The transmitter looks: a gap has ended, or something has changed what would pass (R164). The frame it takes leaves its
queue, a further change of the link record (R172). -/
def State.look (s : State) : State := s.onLink Link.transmit

/-! ## Forming and queueing (R156 to R163) -/

/-- A frame formed takes the sequence counter's value, which then rises by one (R160). -/
def Link.form (l : Link) (k : FrameKind) (priority : Nat) (payload : List Byte) : Frame × Link :=
  (⟨k, priority, l.sequence, payload⟩, { l with sequence := l.sequence + 1 })

/-- A frame offered to the priority queue: dropped and counted if it holds 4 (R163). -/
def State.offerPriority (s : State) (f : Frame) : State :=
  if s.link.priorityQueue.length < Config.priorityFrames then
    (s.onLink fun l => { l with priorityQueue := l.priorityQueue ++ [f] }).look
  else s.count .noticeDropped

/-- A frame offered to the program queue: if it holds 14, the oldest is dropped and counted (R161). -/
def State.offerProgram (s : State) (f : Frame) : State :=
  if s.link.programQueue.length < Config.programFrames then
    (s.onLink fun l => { l with programQueue := l.programQueue ++ [f] }).look
  else ((s.onLink fun l => { l with programQueue := l.programQueue.tail ++ [f] }).count .programDropped).look

/-- The lines-on-air byte, bit k - 1 for LINEk (chapter 11). -/
def linesByte (t : PerLine Bool) : Nat :=
  (allLines.map fun k => flag (t.get k) * 2 ^ (k.number - 1)).sum

/-- A STUDIO_STATUS frame with the four values as they stand (R155, R159). -/
def StudioValues.payload (v : StudioValues) : List Byte :=
  [byte (phaseCode v.phase), byte (monitorCode v.monitor), byte (flag v.micOpen), byte (linesByte v.linesOnAir)]

/-- A STUDIO_STATUS frame formed and offered, while the link is enabled (R152, R159). -/
def State.formStatus (s : State) : State :=
  if s.link.enabled then
    let w := s.link.form .studioStatus 4 s.link.studio.payload
    (s.onLink fun _ => w.2).offerPriority w.1
  else s

/-- The studio values with one change taken (R159). -/
def StudioValues.take (v : StudioValues) : StudioChange → StudioValues
  | .phase p => { v with phase := p }
  | .monitor m => { v with monitor := m }
  | .mic b => { v with micOpen := b }
  | .line k b => { v with linesOnAir := v.linesOnAir.set k b }

/-- The framer takes a change of a studio value; the phase STANDBY ends the departure from it (R159, R162). -/
def Link.takeStudio (l : Link) (c : StudioChange) : Link :=
  { l with studio := l.studio.take c, departed := l.departed && c != .phase .standby }

/-- STUDIO_VALUE_CHANGE: the framer takes a change; if it alters a value, a STUDIO_STATUS frame is formed (R159). -/
def State.studioChange (s : State) (c : StudioChange) : State :=
  let t := s.onLink fun l => l.takeStudio c
  if t.link.studio = s.link.studio then t else t.formStatus

/-- STANDBY_DEPARTURE: every frame of the program queue is promoted to priority 6, and the departure is kept for the frames
formed from then on (R157, R162). -/
def State.promote (s : State) : State :=
  (s.onLink fun l =>
    { l with departed := true, programQueue := l.programQueue.map fun f => { f with priority := 6 } }).look

/-- The priority of a program frame formed now: 0 if the framer last took the engine in STANDBY, 6 if it has taken its
departure or another phase (R157, R162). -/
def Link.programPriority (l : Link) : Nat := if l.departed = false ∧ l.studio.phase = .standby then 0 else 6

/-- The payload of an ALERT_NOTICE (chapter 11). -/
def noticePayload (n : AlertNotice) : List Byte :=
  bytes2 n.id.toNat ++ [byte (classCode n.cls), byte n.priority, byte n.tone, byte (if n.started then 1 else 2),
    byte (outcomeCode n.outcome), byte (flag n.forwarded + 2 * flag n.truncated)]

/-- ALERT_NOTICE_HANDED: the notice becomes a frame of priority 7, while the link is enabled (R152, R158). -/
def State.handNotice (s : State) (n : AlertNotice) : State :=
  if s.link.enabled then
    let w := s.link.form .alertNotice 7 (noticePayload n)
    (s.onLink fun _ => w.2).offerPriority w.1
  else s

/-- PROGRAM_FRAME_FORMED: the assembly holds 48 pairs (R157). -/
def State.formProgram (s : State) : State :=
  if s.link.enabled = true ∧ Config.framePairs ≤ s.link.assembly.length then
    let pairs := s.link.assembly.take Config.framePairs
    let w := s.link.form .program s.link.programPriority
      (pairs.flatMap fun p => sampleBytes p.left ++ sampleBytes p.right)
    (s.onLink fun _ => { w.2 with assembly := s.link.assembly.drop Config.framePairs }).offerProgram w.1
  else s

/-- A program pair the mixer hands over (R152, R157). -/
def Link.takePair (l : Link) (p : Pair) : Link :=
  if l.enabled then { l with assembly := l.assembly ++ [p] } else l

/-! ## Pauses and the link state (R166, R167, R170) -/

/-- A pause ends, and the transmitter looks (R164, R167). -/
def State.endPause (s : State) : State :=
  if s.link.pause.isSome then (s.onLink fun l => { l with pause := none }).look.lampInput (.pause false) else s

/-- A pause starts or is replaced, which rewrites the link record even if its threshold stays, and the transmitter looks
(R164, R166, R172). -/
def State.startPause (s : State) (threshold ms : Nat) : State :=
  ((({ s with link := { s.link with pause := some ⟨threshold, startTimer ms⟩ } } : State).force [.link]).look).lampInput
    (.pause true)

/-- The link enters UP (R170). -/
def State.linkUp (s : State) : State :=
  (((s.onLink fun l => { l with state := .up, lossTimer := startTimer l.lossTimeout }).raiseAll
    .linkChange).lampInput (.link .up)).formStatus

/-- A valid frame keeps the link alive (R169, R170). -/
def State.keepAlive (s : State) (sequence : BitVec 16) : State :=
  let s := (s.onLink fun l => { l with site := { l.site with lastSequence := sequence } }).force [.siteStatus]
  if s.link.state = .up then s.onLink fun l => { l with lossTimer := startTimer l.lossTimeout }
  else s.linkUp

/-- LOSS_TIMER_EXPIRY: the link enters LOST (R170). -/
def State.linkLost (s : State) : State :=
  if ranOut s.link.lossTimer = true ∧ s.link.state = .up then
    ((((s.onLink fun l => { l with state := .lost, lossTimer := none }).raiseAll .linkChange).count .linkLosses).lampInput
      (.link .lost)).endPause
  else s

/-- PAUSE_TIMER_EXPIRY: the pause ends (R167). -/
def State.pauseOver (s : State) : State :=
  match s.link.pause with
  | some p => if ranOut p.timer then s.endPause else s
  | none => s

/-! ## Reception (R166, R168, R169) -/

/-- What a received frame is (R168). -/
inductive Verdict
  | pause (sequence : BitVec 16) (ms threshold : Nat)
  | siteStatus (sequence : BitVec 16) (carrier : Bool) (alarms : BitVec 4) (level : Nat)
  | badCheck
  | badFrame
  | incomplete
  deriving DecidableEq, Repr

/-- The receiver's judgment of the bytes after a start pattern: header, payload and check (R168, R202). A payload length
above 288 ends the frame at its header. -/
def judge (bytes : List Byte) : Verdict :=
  match bytes with
  | kind :: _ :: sh :: sl :: lh :: ll :: rest =>
    let len := lh.toNat * 256 + ll.toNat
    let seq : BitVec 16 := sh ++ sl
    if 288 < len then .badFrame
    else if rest.length < len + 2 then .incomplete
    else
      let payload := rest.take len
      let check := (rest.drop len).take 2
      if check ≠ bytes2 (crc (bytes.take (6 + len))).toNat then .badCheck
      else
        match kind.toNat, payload with
        | 0x81, [dh, dl, th] => .pause seq (dh.toNat * 256 + dl.toNat) (min th.toNat 7)
        | 0x82, [fl, level] => .siteStatus seq (fl.getLsbD 7) (fl.extractLsb' 0 4) level.toNat
        | _, _ => .badFrame
  | _ => .incomplete

/-- The receiver is enabled and reads a frame, whose start pattern it has found (R168; log 12). -/
def Link.receiving (l : Link) : Bool := l.enabled && l.receiver == .reading

/-- After a frame the receiver hunts again (R168). -/
def State.hunt (s : State) : State := s.onLink fun l => { l with receiver := .hunting }

/-- PAUSE_FRAME: a valid PAUSE keeps the link alive and starts, replaces or ends a pause (R166, R170). -/
def State.receivePause (s : State) (bytes : List Byte) : State :=
  match judge bytes with
  | .pause seq ms th =>
    if s.link.receiving then
      let s := ((s.hunt).keepAlive seq).count .rxPause
      if ms = 0 then s.endPause else s.startPause th ms
    else s
  | _ => s

/-- SITE_STATUS_FRAME: a valid SITE_STATUS keeps the link alive and replaces the site status (R169, R170). -/
def State.receiveStatus (s : State) (bytes : List Byte) : State :=
  match judge bytes with
  | .siteStatus seq carrier alarms level =>
    if s.link.receiving then
      let changed := carrier != s.link.site.carrier
      let s := (s.hunt).keepAlive seq
      let s := s.onLink fun l => { l with site := ⟨true, carrier, alarms, level, seq⟩ }
      if changed then s.raiseAll .linkChange else s
    else s
  | _ => s

/-- RX_BAD_CHECK: a frame whose check fails is discarded and counted (R168). -/
def State.receiveBadCheck (s : State) (bytes : List Byte) : State :=
  if judge bytes = .badCheck ∧ s.link.receiving = true then s.hunt.count .rxBadCheck else s

/-- RX_BAD_FRAME: a frame of bad length or kind is discarded and counted (R168). -/
def State.receiveBadFrame (s : State) (bytes : List Byte) : State :=
  if judge bytes = .badFrame ∧ s.link.receiving = true then s.hunt.count .rxBadFrame else s

/-- START_PATTERN_FOUND: the last 16 bits read, while hunting; 0xA5 then 0x3C start a frame (R168). -/
def State.readBits (s : State) (bits : Word) : State :=
  if s.link.enabled = true ∧ s.link.receiver = .hunting then
    s.onLink fun l => { l with rxBits := bits, receiver := if bits = 0xA53C then .reading else .hunting }
  else s

/-! ## LINK_SET and the gap's end (R151, R152, R164) -/

/-- The link is disabled, in one act (R152). A frame being sent goes on. -/
def State.disableLink (s : State) : State :=
  let was := s.link.state
  let s := s.onLink fun l =>
    { l with enabled := false, assembly := [], programQueue := [], priorityQueue := [], lossTimer := none
             receiver := .stopped, state := .down }
  let s := s.endPause.lampInput (.link .down)
  if was = .down then s else s.raiseAll .linkChange

/-- LINK_SET (R151). DESIGN CHOICE (log 47): bit rate and loss timeout change together, as one change of the link record, and
enable as another (R172). -/
def State.setLink (s : State) (enable rate timeout : Nat) : State × Reply :=
  match flagOf enable, flagOf rate with
  | some on, some fast =>
    let was := s.link.enabled
    let s := s.onLink fun l => { l with fast := fast, lossTimeout := clamp 50 5000 timeout }
    let s :=
      if on = true ∧ was = false then
        (s.onLink fun l => { l with enabled := true, assembly := [], receiver := .hunting }).look.formStatus
      else if on = false ∧ was = true then s.disableLink
      else s
    (s, .done [enable, rate, s.link.lossTimeout, linkCode s.link.state])
  | _, _ => (s, .refused .badParam)

/-- TRANSMIT_GAP_END: the transmitter becomes idle and looks for a frame (R164). -/
def State.gapEnd (s : State) : State :=
  if s.link.sending.isSome then (s.onLink fun l => { l with sending := none }).look else s

end Sys2Proof.Machine
end

