-- ==== Sys2Proof/Machine/Alerts.lean ====
section
/-!
DEFINITION. Machine/Alerts.lean: the alert engine (chapter 6, R111 to R136): policy, queue, history, phases, airings, tone
generators and the ends of timers.
-/
namespace Sys2Proof.Machine

/-! ## The queue (R113, R114) -/

/-- The record of an id, if it is in the queue. -/
def AlertEngine.find (e : AlertEngine) (id : Nat) : Option AlertRec := e.queue.find? fun r => r.id == id
/-- A record's place in the queue, counted from 1 at the head. -/
def AlertEngine.place (e : AlertEngine) (id : Nat) : Nat := (e.queue.findIdx fun r => r.id == id) + 1
/-- Whether any record is WAITING_RELEASE (R193). -/
def AlertEngine.anyWaiting (e : AlertEngine) : Bool := e.queue.any fun r => r.state == .waitingRelease

/-- A new record's place: after the AIRING record and every record of higher or equal priority (R114). -/
def placeAlert (r : AlertRec) : List AlertRec → List AlertRec
  | [] => [r]
  | x :: t => if x.state = .airing ∨ r.priority ≤ x.priority then x :: placeAlert r t else r :: x :: t

/-- The queue changed; the lamp driver takes whether a record waits (R193). -/
def State.onAlertQueue (s : State) (f : List AlertRec → List AlertRec) : State :=
  let s := s.onAlert fun e => { e with queue := f e.queue }
  s.lampInput (.waiting s.alert.anyWaiting)

/-- The record of an id changed. -/
def State.onAlertRec (s : State) (id : Nat) (f : AlertRec → AlertRec) : State :=
  s.onAlertQueue fun q => q.map fun r => if r.id = id then f r else r

/-! ## Outcomes (R118, R134) -/

/-- An entry added to the outcome history, which keeps 8; ALERT_OUTCOME is raised (R134). -/
def State.addHistory (s : State) (h : HistoryEntry) : State :=
  ((s.onAlert fun e => { e with history := (h :: e.history).take Config.alertRecords }).force [.alertHistory]).raiseAll
    .alertOutcome

/-- The counter an outcome names (R118). -/
def State.countOutcome (s : State) : AlertOutcome → State
  | .aired => s.count .alertsAired
  | .expired => s.count .alertsExpired
  | .displaced => s.count .alertsDisplaced
  | _ => s

/-- A record leaves the queue, in one act, with an outcome (R118). -/
def State.leaveQueue (s : State) (r : AlertRec) (o : AlertOutcome) : State :=
  let s := (s.onAlertQueue fun q => q.filter fun x => x.id != r.id).unlockClip r.clip
  (s.addHistory ⟨r.id, r.cls, o, r.forwarded, o == .aired && s.alert.truncated⟩).countOutcome o

/-! ## Phases and airings (R124 to R131) -/

/-- The engine enters a phase of a set length in events. The framer takes each change of phase, and the lamp driver the
phase (R124, R159, R193). -/
def State.setPhase (s : State) (p : Phase) (length : Nat) : State :=
  ((s.onAlert fun e => { e with phase := p, phaseEvents := 0, phaseLength := length }).studioChange (.phase p)).lampInput
    (.phase p)

/-- The STARTED notice of a record that becomes AIRING (R155, R158). -/
def AlertRec.started (r : AlertRec) (truncated : Bool) : AlertNotice :=
  ⟨word r.id, r.cls, r.priority, r.tone, true, .none, r.forwarded, truncated⟩
/-- The ENDED notice of an airing that ends with an outcome (R155, R158). -/
def AlertRec.ended (r : AlertRec) (o : AlertOutcome) (truncated : Bool) : AlertNotice :=
  ⟨word r.id, r.cls, r.priority, r.tone, false, o, r.forwarded, truncated⟩

/-- The pairs max message allows (R129). -/
def AlertEngine.maxPairs (e : AlertEngine) : Nat := e.maxMessage * 48000

/-- A record becomes AIRING (R125, R129): it goes to the head, its timers stop, and the message length is fixed. -/
def State.becomeAiring (s : State) (r : AlertRec) : State :=
  let s := s.onAlertQueue fun q =>
    { r with state := .airing, forwardTimer := none, expiryTimer := none } :: q.filter fun x => x.id != r.id
  s.onAlert fun e =>
    { e with messageLength := min r.sealed e.maxPairs, truncated := decide (e.maxPairs < r.sealed), pairsTaken := 0 }

/-- The alert reader bound to a record's clip (R132). -/
def State.bindAlert (s : State) (r : AlertRec) : State :=
  s.onAlert fun e => { e with reader := ⟨some r.first, 0, []⟩ }
/-- The alert reader unbound: its grant ends and its buffer is emptied (R132). -/
def State.unbindAlert (s : State) : State :=
  (s.onAlert fun e => { e with reader := ⟨none, 0, []⟩ }).endGrantOf .alert false

/-- A generator as a TONE phase begins (R127). -/
def ToneState.begin (t : ToneSettings) : ToneState := ⟨t, 0, t.reload, true⟩

/-- The engine enters MESSAGE (R129). -/
def State.enterMessage (s : State) : State := s.setPhase .message 0

/-- The engine enters TONE, or MESSAGE if the record's tone is 0 (R126, R127, R130). -/
def State.enterTone (s : State) (r : AlertRec) : State :=
  if r.tone = 0 then s.enterMessage
  else
    (s.onAlert fun e => { e with gen1 := .begin e.tone1, gen2 := .begin e.tone2 }).setPhase .tone (r.tone * 48000)

/-- The engine enters PREEMPT with a record (R125, R126). The framer takes the phase, then the STARTED notice, then the
departure from STANDBY (log 20). -/
def State.enterPreempt (s : State) (r : AlertRec) : State :=
  let fade := s.alert.preemptFade * Config.eventsPerMs
  let s := (s.becomeAiring r).setPhase .preempt (max 1 fade)
  let s := ((s.airHold fade).airRamp .alert s.alert.alertGain fade).1
  (((s.raiseAll .alertOnAir).handNotice (r.started s.alert.truncated)).promote).bindAlert r

/-- In STANDBY the first READY record in queue order airs (R125). -/
def State.airFirst (s : State) : State :=
  if s.alert.phase = .standby then
    match s.alert.queue.find? fun r => r.state == .ready with
    | some r => s.enterPreempt r
    | none => s
  else s

/-- The engine enters RESTORE (R131). -/
def State.enterRestore (s : State) : State :=
  let fade := s.alert.restoreFade * Config.eventsPerMs
  ((s.setPhase .restore (max 1 fade)).airCut .alert).1.airRestore fade

/-- An airing ends with an outcome (R130): the record leaves, the ENDED notice is handed over, and the next READY record
follows back to back or the engine enters RESTORE. -/
def State.endAiring (s : State) (r : AlertRec) (o : AlertOutcome) : State :=
  let s := ((s.leaveQueue r o).unbindAlert).handNotice (r.ended o s.alert.truncated)
  match s.alert.queue.find? fun x => x.state == .ready with
  | some x =>
    let s := ((s.becomeAiring x).raiseAll .alertOnAir).bindAlert x
    (s.handNotice (x.started s.alert.truncated)).enterTone x
  | none => s.enterRestore

/-! ## The ends of phases -/

/-- The present phase has run its length (R124). -/
def AlertEngine.phaseOver (e : AlertEngine) : Bool := decide (e.phaseLength ≤ e.phaseEvents)

/-- PREEMPT_END (R126). -/
def State.preemptOver (s : State) : State :=
  match s.alert.airing with
  | some r => if s.alert.phase = .preempt ∧ s.alert.phaseOver = true then s.enterTone r else s
  | none => s

/-- TONE_END (R128). -/
def State.toneOver (s : State) : State :=
  if s.alert.phase = .tone ∧ s.alert.phaseOver = true then s.enterMessage else s

/-- The message of an airing has had its last pair taken and has not ended yet (R129). -/
def AlertEngine.messageOwed (e : AlertEngine) : Bool :=
  e.phase == .message && e.airing.isSome && decide (e.messageLength ≤ e.pairsTaken)

/-- MESSAGE_END (R129, R130): the message's last pair has been taken. -/
def State.messageOver (s : State) : State :=
  match s.alert.airing with
  | some r =>
    if s.alert.phase = .message ∧ s.alert.messageLength ≤ s.alert.pairsTaken then s.endAiring r .aired else s
  | none => s

/-- RESTORE_END (R131): STANDBY, and at once the look for a READY record. -/
def State.restoreOver (s : State) : State :=
  if s.alert.phase = .restore ∧ s.alert.phaseOver = true then (s.setPhase .standby 0).airFirst else s

/-! ## The tone generators (R127, R128) -/

/-- A generator's output: +a or -a (R127). -/
def ToneState.output (g : ToneState) : Int :=
  if g.positive then (g.settings.amplitude : Int) else -(g.settings.amplitude : Int)

/-- A generator's step at an event of TONE (R127); a counter that passes 255 has overflowed. -/
def ToneState.step (g : ToneState) : ToneState :=
  if g.prescale + 1 < 2 ^ g.settings.exponent then { g with prescale := g.prescale + 1 }
  else { g with prescale := 0, counter := g.counter + 1 }

/-- An overflow: the counter returns to r and the output changes sign (R127). -/
def ToneState.overflow (g : ToneState) : ToneState :=
  if 255 < g.counter then { g with counter := g.settings.reload, positive := !g.positive } else g

/-- TONE_GENERATOR_OVERFLOW (R127, R128). -/
def State.toneOverflow (s : State) : Generator → State
  | .t1 => s.onAlert fun e => { e with gen1 := e.gen1.overflow }
  | .t2 => s.onAlert fun e => { e with gen2 := e.gen2.overflow }

/-- The tone sum of an event (R127). -/
def AlertEngine.toneSum (e : AlertEngine) : Int := sat24 (e.gen1.output + e.gen2.output)

/-! ## Timers (R121, R122) -/

/-- FORWARD_TIMER_EXPIRY: a WAITING_RELEASE record is forwarded (R121). -/
def State.forwardOver (s : State) (id : Nat) : State :=
  match s.alert.find id with
  | some r =>
    if ranOut r.forwardTimer = true ∧ r.state = .waitingRelease then
      (s.onAlertRec id fun r => { r with state := .ready, forwarded := true, forwardTimer := none }).airFirst
    else s
  | none => s

/-- EXPIRY_TIMER_EXPIRY: a record that is not AIRING leaves as EXPIRED (R122). -/
def State.expiryOver (s : State) (id : Nat) : State :=
  match s.alert.find id with
  | some r => if ranOut r.expiryTimer = true ∧ r.state ≠ .airing then s.leaveQueue r .expired else s
  | none => s

/-! ## Commands (R112, R115 to R120, R123) -/

/-- ALERT_POLICY (R112). -/
def State.setPolicy (s : State) (ws : List Word) : State × Reply :=
  match par ws 1 with
  | 0 =>
    match classOf (par ws 2), classModeOf (par ws 3) with
    | some c, some m =>
      let d := min (par ws 4) 900
      (s.onAlert fun e => { e with policy := e.policy.set c ⟨m, d⟩ }, .done [0, par ws 2, par ws 3, d])
    | _, _ => (s, .refused .badParam)
  | 1 =>
    let pre := min (par ws 2) 500
    let res := min (par ws 3) 2000
    let gain := min (par ws 4) Config.unity
    let most := clamp 1 600 (par ws 5)
    (s.onAlert fun e => { e with preemptFade := pre, restoreFade := res, alertGain := gain, maxMessage := most },
     .done [1, pre, res, gain, most])
  | 2 =>
    match generatorOf (par ws 2) with
    | some g =>
      let t : ToneSettings := ⟨min (par ws 3) 7, min (par ws 4) 255, min (par2 ws 5) 8388607⟩
      (s.onAlert fun e => match g with
        | .t1 => { e with tone1 := t }
        | .t2 => { e with tone2 := t },
       .done ([2, par ws 2, t.exponent, t.reload] ++ words2 t.amplitude))
    | none => (s, .refused .badParam)
  | _ => (s, .refused .badParam)

/-- A queued post (R117): placed, with the state of its class's mode. -/
def State.queuePost (s : State) (q : AlertPost) (first pages sealed displaced : Nat) : State × Reply :=
  let policy := s.alert.policy.get q.cls
  let waits := policy.mode = .airOnRelease
  let forwards := waits ∧ policy.delay ≠ 0
  let r : AlertRec :=
    { id := q.id, priority := q.priority, cls := q.cls, clip := q.clip, first := first, pages := pages, sealed := sealed
      tone := q.tone, expiry := q.expiry, state := if waits then .waitingRelease else .ready, forwarded := false
      timePosted := s.alert.milliseconds, forwardDelay := if forwards then policy.delay else 0
      forwardTimer := if forwards then startTimer (policy.delay * 1000) else none
      expiryTimer := startTimer (q.expiry * 1000) }
  let s := s.onAlertQueue (placeAlert r)
  let s := if waits then s.raiseAll .alertWaiting else s.airFirst
  let st := ((s.alert.find q.id).map fun r => alertStateCode r.state).getD 0
  (s, .done [q.id, outcomeCode .queued, st, s.alert.place q.id, displaced, q.priority, q.tone, q.expiry])

/-- A post whose lock request has reached the manager (R116). -/
def State.lockedPost (s : State) (q : AlertPost) : State × Reply :=
  match s.lockNow q.clip with
  | (s, .refused _) => (s, .refused .badState)
  | (s, .granted first pages sealed) =>
    if s.alert.queue.length < Config.alertRecords then s.queuePost q first pages sealed 0
    else
      match s.alert.queue.getLast? with
      | some t =>
        if t.priority < q.priority then (s.leaveQueue t .displaced).queuePost q first pages sealed t.id
        else (s.unlockNow q.clip, .refused .noSpace)
      | none => (s, .refused .noSpace)

/-- ALERT_POST (R115, R116): its checks, then the lock request, which may wait behind a page search. -/
def State.postAlert (s : State) (ws : List Word) : State × Reply :=
  let id := par ws 1
  match classOf (par ws 3), clipOf (par ws 4) with
  | some c, some i =>
    let q : AlertPost := ⟨id, min (par ws 2) 7, c, i, min (par ws 5) 30, max 1 (par ws 6)⟩
    if id = 0 then (s, .refused .badParam)
    else if (s.alert.find id).isSome then (s, .refused .duplicate)
    else if (s.alert.policy.get c).mode = .logOnly then
      (s.addHistory ⟨id, c, .logged, false, false⟩, .done [outcomeCode .logged])
    else if s.mustWait then (s.enqueue (.alertPost q), .later)
    else s.lockedPost q
  | _, _ => (s, .refused .badParam)

/-- What ALERT_RELEASE and ALERT_DECLINE answer a record that is not waiting (R119, R120). -/
def notWaiting (r : AlertRec) : Reply := .refused (if r.forwarded then .tooLate else .badState)

/-- ALERT_RELEASE (R119). -/
def State.releaseAlert (s : State) (id : Nat) : State × Reply :=
  if id = 0 then (s, .refused .badParam)
  else
    match s.alert.find id with
    | none => (s, .refused .notFound)
    | some r =>
      if r.state = .waitingRelease then
        let s := (s.onAlertRec id fun r => { r with state := .ready, forwardTimer := none }).airFirst
        let st := ((s.alert.find id).map fun r => alertStateCode r.state).getD 0
        (s, .done [id, st, s.alert.place id])
      else (s, notWaiting r)

/-- ALERT_DECLINE (R120). -/
def State.declineAlert (s : State) (id : Nat) : State × Reply :=
  if id = 0 then (s, .refused .badParam)
  else
    match s.alert.find id with
    | none => (s, .refused .notFound)
    | some r =>
      if r.state = .waitingRelease then (s.leaveQueue r .declined, .done [id, outcomeCode .declined])
      else (s, notWaiting r)

/-- ALERT_CANCEL (R123): an AIRING record ends its airing, any other leaves the queue. A message whose last pair has been
taken has ended before any command: its record has left as AIRED (`State.found`). -/
def State.cancelAlert (s : State) (id : Nat) : State × Reply :=
  if id = 0 then (s, .refused .badParam)
  else
    match s.alert.find id with
    | none => (s, .refused .notFound)
    | some r =>
      if r.state = .airing then (s.endAiring r .cancelled, .done [id, outcomeCode .cancelled, 1])
      else (s.leaveQueue r .cancelled, .done [id, outcomeCode .cancelled, 0])

end Sys2Proof.Machine
end

