-- ==== Sys2Proof/Machine/DeadAir.lean ====
section
/-!
DEFINITION. Machine/DeadAir.lean: the dead-air monitor and the fallback reader's binding (chapter 7, R137 to R149).
-/
namespace Sys2Proof.Machine

/-! ## Windows and peaks (R137) -/

/-- The window peaks with one event's pairs taken in (R137, R35). -/
def Peaks.take (p : Peaks) (program primary : Pair) : Peaks :=
  ⟨max p.left (magnitude program.left), max p.right (magnitude program.right),
   max p.primary (max (magnitude primary.left) (magnitude primary.right))⟩

/-- The monitor takes the mixer's pairs of one event (R137). -/
def DeadAir.hear (d : DeadAir) (program primary : Pair) : DeadAir :=
  { d with peaks := d.peaks.take program primary, windowEvents := d.windowEvents + 1 }

/-- The window has held its 4800 events (R137). -/
def DeadAir.windowOver (d : DeadAir) : Bool := decide (Config.windowEvents ≤ d.windowEvents)

/-! ## State changes and requests (R139, R141, R142) -/

/-- The monitor's state set; the link framer takes it (R159). -/
def State.setMonitor (s : State) (m : MonitorState) : State :=
  (s.onDeadAir fun d => { d with state := m }).studioChange (.monitor m)

/-- A RAMP of FALLBACK over the fallback fade (R141, R142). -/
def State.rampFallback (s : State) (target : Nat) : State :=
  (s.airRamp .fallback target (s.deadAir.fade * Config.eventsPerMs)).1

/-- DEAD_AIR reported, once in a run of silent windows (R141). -/
def State.reportDeadAir (s : State) : State :=
  if s.deadAir.reported then s
  else ((s.onDeadAir fun d => { d with reported := true }).raiseAll .deadAir).count .deadAirEvents

/-- The monitor engages the fallback if it is armed (R141). -/
def State.engage (s : State) : State :=
  if s.deadAir.binding.isSome then
    ((s.onDeadAir fun d => { d with recoveryCount := 0 }).setMonitor .engaged).rampFallback s.deadAir.gain
  else s

/-- A judged window in WATCHING, with the primary peak of the window (R141). -/
def State.judgeSilence (s : State) (w : Nat) : State :=
  if w < s.deadAir.threshold then
    let s := s.onDeadAir fun d => { d with silence := if d.silence < d.limit then d.silence + 1 else d.silence }
    if s.deadAir.silence = s.deadAir.limit then s.reportDeadAir.engage else s
  else s.onDeadAir fun d => { d with silence := 0, reported := false }

/-- A judged window in ENGAGED (R142). -/
def State.judgeRecovery (s : State) (w : Nat) : State :=
  if w < s.deadAir.threshold then s.onDeadAir fun d => { d with recoveryCount := 0 }
  else
    let s := s.onDeadAir fun d => { d with recoveryCount := d.recoveryCount + 1 }
    if s.deadAir.recovery ≤ s.deadAir.recoveryCount then
      ((s.raiseAll .airRestored).rampFallback 0 |>.onDeadAir fun d =>
        { d with silence := 0, reported := false, recoveryCount := 0 }).setMonitor .watching
    else s

/-- The judgment of a window (R140): none if it ended outside STANDBY. -/
def State.judgeWindow (s : State) (w : Nat) (standby : Bool) : State :=
  if standby then
    match s.deadAir.state with
    | .disarmed => s
    | .watching => s.judgeSilence w
    | .engaged => s.judgeRecovery w
  else s

/-- The monitor takes a window end (R137, R140, R148): the peaks become the meters and the window is judged. -/
def State.takeWindow (s : State) (w : Peaks) (standby : Bool) : State :=
  ((s.onDeadAir fun d => { d with meters := w, windows := (d.windows + 1) % 65536 }).judgeWindow w.primary standby).force
    [.meters, .deadAir]

/-! ## DEADAIR_SET (R139) -/

/-- The monitor's counts and state after DEADAIR_SET (R139). DESIGN CHOICE (log 41): in ENGAGED C stays as it is, also above
a lowered limit. -/
def State.rearm (s : State) : State :=
  let above := 0 < s.deadAir.threshold
  match s.deadAir.state with
  | .disarmed =>
    if above then
      (s.onDeadAir fun d => { d with silence := 0, reported := false, recoveryCount := 0 }).setMonitor .watching
    else s
  | .watching =>
    if above then s.onDeadAir fun d => { d with silence := min d.silence d.limit }
    else (s.onDeadAir fun d => { d with silence := 0, reported := false }).setMonitor .disarmed
  | .engaged => s.onDeadAir fun d => { d with recoveryCount := min d.recoveryCount d.recovery }

/-- DEADAIR_SET (R139). -/
def State.setDeadAir (s : State) (threshold limit recovery fade : Nat) : State × Reply :=
  let th := min threshold 8388607
  let n := clamp 1 600 limit
  let r := clamp 1 50 recovery
  let f := min fade 2000
  if s.deadAir.state = .engaged ∧ th = 0 then (s, .refused .badState)
  else
    let s := (s.onDeadAir fun d => { d with threshold := th, limit := n, recovery := r, fade := f }).rearm
    (s, .done (words2 th ++ [n, r, f, monitorCode s.deadAir.state]))

/-! ## The fallback binding (R144 to R146) -/

/-- The fallback reader empties its buffer and stands at pair 0; its grant ends (R145, R146). -/
def State.rewindFallback (s : State) : State :=
  (s.onDeadAir fun d => { d with buffer := [], fetchPosition := 0, playPosition := 0 }).endGrantOf .fallback false

/-- The lock of the clip the fallback is armed with released (R144). -/
def State.releaseFallback (s : State) : State :=
  match s.deadAir.binding with
  | some b => s.unlockClip b.clip
  | none => s

/-- FALLBACK_SET is in order only while the monitor is not ENGAGED and FALLBACK is OFF (R144). -/
def State.mayBindFallback (s : State) : Bool :=
  s.deadAir.state != .engaged && s.air.sources.fallback.state == .off

/-- The DONE result of FALLBACK_SET; an absent clip is reported as the free value (log 4). -/
def State.fallbackDone (s : State) : Reply :=
  let d := s.deadAir
  .done [flag d.binding.isSome, (d.binding.map fun b => b.clip.val).getD s.unstated.absentClip.toNat, d.gain,
    monitorCode d.state]

/-- An arming FALLBACK_SET whose lock request has reached the manager (R144). A rebinding rewrites the dead-air record even
if it shows the same clip and gain (R148; log 42). -/
def State.lockedFallback (s : State) (i : Fin 128) (gain : Nat) : State × Reply :=
  match s.lockNow i with
  | (s, .refused _) => (s, .refused .badState)
  | (s, .granted first pages sealed) =>
    let s := s.releaseFallback
    let d := { s.deadAir with binding := some ⟨i, first, pages, sealed⟩, gain := gain }
    let s := (({ s with deadAir := d } : State).force [.deadAir]).rewindFallback
    (s, s.fallbackDone)

/-- A disarming FALLBACK_SET (R144). -/
def State.disarmFallback (s : State) (gain : Nat) : State × Reply :=
  let s := s.releaseFallback
  let s := (s.onDeadAir fun d => { d with binding := none, gain := gain }).rewindFallback
  (s, s.fallbackDone)

/-- FALLBACK_SET (R144): the checks in their order; an arming one asks for a lock, which may wait behind a page search and
then holds the monitor (R147). -/
def State.setFallback (s : State) (clip gain armed : Nat) : State × Reply :=
  let gain := min gain Config.unity
  match flagOf armed with
  | none => (s, .refused .badParam)
  | some false => if s.mayBindFallback then s.disarmFallback gain else (s, .refused .badState)
  | some true =>
    match clipOf clip with
    | none => (s, .refused .badParam)
    | some i =>
      if !s.mayBindFallback then (s, .refused .badState)
      else if s.mustWait then
        ((s.onDeadAir fun d => { d with arming := true }).enqueue (.fallbackArm i gain), .later)
      else s.lockedFallback i gain

/-! ## Notices and takes (R143, R146) -/

/-- A state notice for FALLBACK (R143): HELD found outside ENGAGED is cut, OFF rewinds a bound reader. -/
def State.fallbackNotice (s : State) (st : SourceState) : State :=
  match st with
  | .held => if s.deadAir.state = .engaged then s else (s.airCut .fallback).1
  | .off => if s.deadAir.binding.isSome then s.rewindFallback else s
  | _ => s

/-! ## What reaches the monitor, whole and in order (R147) -/

/-- One message handled by a monitor that no arming FALLBACK_SET holds. -/
def State.monitorHandle (s : State) : MonitorMessage → State
  | .window peaks standby => s.takeWindow peaks standby
  | .notice n => s.fallbackNotice n.state

/-- A message reaches the monitor: handled, or behind the arming FALLBACK_SET that waits for its lock (R147). -/
def State.monitorTake (s : State) (m : MonitorMessage) : State :=
  if s.deadAir.arming then s.onDeadAir fun d => { d with inbox := d.inbox ++ [m] } else s.monitorHandle m

/-- The messages that waited are handled in order. -/
def State.monitorDrain (s : State) : State :=
  s.deadAir.inbox.foldl State.monitorHandle (s.onDeadAir fun d => { d with inbox := [] })

/-- WINDOW_END (R137): the window's peaks go to the monitor with whether it ended in STANDBY (R140), and the next window
begins. -/
def State.windowEnd (s : State) : State :=
  if s.deadAir.windowOver then
    (s.onDeadAir fun d => { d with peaks := ⟨0, 0, 0⟩, windowEvents := 0 }).monitorTake
      (.window s.deadAir.peaks (s.alert.phase == .standby))
  else s

/-- One take from the fallback buffer: the oldest pair, the play position moved on in the loop (R146). -/
def DeadAir.take (d : DeadAir) : DeadAir × Option Pair :=
  match d.buffer with
  | [] => (d, none)
  | p :: t =>
    let n := (d.binding.map FallbackBinding.sealed).getD 1
    ({ d with buffer := t, playPosition := (d.playPosition + 1) % n }, some p)

end Sys2Proof.Machine
end

