-- ==== Sys2Proof/Machine/Mixer.lean ====
section
/-!
DEFINITION. Machine/Mixer.lean: the program arithmetic (chapter 2, R21 to R36): inputs, effective gains, terms, sums,
outputs, and the takes from the readers' buffers.
-/
namespace Sys2Proof.Machine

/-! ## Arithmetic -/

/-- The rounding of R27: the sum back at sample scale, exact halves toward plus infinity. -/
def roundSum (a : Int) : Int := (a + 16384) / 32768
/-- An output sample of a sum, clamped (R27, R29, R30). -/
def outputOf (a : Int) : Int := sat24 (roundSum a)
/-- The output of a sum is clamped (R28). -/
def clamps (a : Int) : Bool := sat24 (roundSum a) != roundSum a
/-- A mono downmix, floored (R30, R31). -/
def downmix (l r : Int) : Int := (l + r) / 2
/-- A pair of output samples. -/
def pairOut (l r : Int) : Pair := ⟨sample l, sample r⟩

/-- The sources the duck factor weights (R25). -/
def ducked : Source → Bool
  | .deck _ | .fallback => true
  | _ => false

/-- The effective gain (R25). -/
def AirMap.effective (a : AirMap) (src : Source) (r : SourceRec) : Nat :=
  if ducked src then r.level * a.duck / 32768 else r.level

/-- A term: input times effective gain, left out of the sum while the source is OFF (R26). -/
def term (st : SourceState) (x : Int) (e : Nat) : Int := if st = .off then 0 else x * e

/-! ## Inputs (R22 to R24) -/

/-- The kept sample of a source's receive slot; 0 if none is assigned or it is disabled (R23). -/
def Highway.input (h : Highway) (slot : Option (Fin 16)) : Int :=
  match slot with
  | none => 0
  | some n => if h.map.rxEnable.getLsbD n then h.kept[n].toInt else 0

/-- A pair as two inputs. -/
def pairInputs (p : Pair) : Int × Int := (p.left.toInt, p.right.toInt)

/-- The input of a deck, with its take (R22). -/
def State.takeDeck (s : State) (d : DeckId) : State × (Int × Int) :=
  let r := s.decks.get d
  if r.taking then
    match r.take with
    | (r, some p) => (s.onDeck d fun _ => r, pairInputs p)
    | (_, none) => (s.count (.starve d), (0, 0))
  else (s, (0, 0))

/-- The mixer takes from the fallback buffer while the source is RISING, ON or FALLING, or HELD with L above 0 (R22). -/
def State.fallbackTaking (s : State) : Bool :=
  let r := s.air.sources.fallback
  match r.now with
  | .rising | .on | .falling => true
  | .held => decide (0 < r.level)
  | .off => false

/-- The input of FALLBACK, with its take (R22, R146). -/
def State.takeFallback (s : State) : State × (Int × Int) :=
  if s.fallbackTaking then
    match s.deadAir.take with
    | (d, some p) => ({ s with deadAir := d }, pairInputs p)
    | (_, none) => (s.count .fallbackStarve, (0, 0))
  else (s, (0, 0))

/-- The alert reader's next pair, counted toward the message (R129). -/
def AlertEngine.take (e : AlertEngine) : AlertEngine × Option Pair :=
  match e.reader.buffer with
  | [] => (e, none)
  | p :: t => ({ e with reader := { e.reader with buffer := t }, pairsTaken := e.pairsTaken + 1 }, some p)

/-- The input of ALERT by the engine's phase (R24). -/
def State.takeAlert (s : State) : State × (Int × Int) :=
  match s.alert.phase with
  | .tone => (s, (s.alert.toneSum, s.alert.toneSum))
  | .message =>
    match s.alert.take with
    | (e, some p) => ({ s with alert := e }, pairInputs p)
    | (_, none) => (s.count .alertStarve, (0, 0))
  | _ => (s, (0, 0))

/-- The mixer gathers its inputs: the readers' takes and the kept samples (R22 to R24). -/
def State.takeInputs (s : State) : State × PerSource (Int × Int) :=
  let d1 := s.takeDeck .d1
  let d2 := d1.1.takeDeck .d2
  let al := d2.1.takeAlert
  let fb := al.1.takeFallback
  let mono := fun slot => (s.highway.input slot, s.highway.input slot)
  (fb.1,
   { decks := ⟨d1.2, d2.2⟩, mic := mono s.highway.map.mic
     lines := s.highway.map.lineRx.mapWith fun _ slot => mono slot
     alert := al.2, fallback := fb.2 })

/-! ## Outputs (R27 to R32) -/

/-- What R31 sends in a line's transmit slot: by the line's state and its source's state. -/
def lineFeed (st : LineState) (src : SourceState) (send waiting screener : Int) : Int :=
  match st with
  | .onAir => if src = .off then waiting else send
  | .releasing => if src = .off then 0 else send
  | .waiting => waiting
  | .screen => screener
  | .idle | .ringing => 0

/-- One program sample computed from the inputs, the air map as this event's steps left it, the line states, the screener's
sample and the SCREEN line's (R25 to R32). -/
def mix (air : AirMap) (x : PerSource (Int × Int)) (lines : PerLine LineState) (screenerRx screenedRx : Int) :
    MixFrame :=
  let gains := air.sources.mapWith fun src r => air.effective src r
  let termL := fun src => term (air.sources.get src).now (x.get src).1 (gains.get src)
  let termR := fun src => term (air.sources.get src).now (x.get src).2 (gains.get src)
  let sumL := (allSources.map termL).sum
  let sumR := (allSources.map termR).sum
  let fbL := termL .fallback
  let fbR := termR .fallback
  let waiting := downmix (outputOf sumL) (outputOf sumR)
  let send := fun k => downmix (outputOf (sumL - termL (.line k))) (outputOf (sumR - termR (.line k)))
  { inputs := x, gains := gains, sumLeft := sumL, sumRight := sumR, fallbackLeft := fbL, fallbackRight := fbR
    program := pairOut (outputOf sumL) (outputOf sumR)
    primary := pairOut (outputOf (sumL - fbL)) (outputOf (sumR - fbR))
    lineOut := lines.mapWith fun k st =>
      sample (lineFeed st (air.sources.get (.line k)).now (send k) waiting screenerRx)
    screenerOut := sample screenedRx }

/-- The SCREEN line's kept receive sample; 0 while no line is in SCREEN (R32). -/
def State.screenedInput (s : State) : Int :=
  match s.lines.screener with
  | some k => s.highway.input (s.highway.map.lineRx.get k)
  | none => 0

/-- The mixer's work at one program sample event, the air map's steps made (R21 to R32). -/
def State.mixNow (s : State) : State :=
  let w := s.takeInputs
  let s := w.1
  let f := mix s.air w.2 (s.lines.recs.mapWith fun _ r => r.state) (s.highway.input s.highway.map.screenerRx)
    s.screenedInput
  let s := { s with mixer := f }
  if clamps f.sumLeft || clamps f.sumRight then s.count .clipEvents else s

end Sys2Proof.Machine
end

