-- ==== Sys2Proof/Machine/Publish.lean ====
section
/-!
DEFINITION. Machine/Publish.lean: the records of the status region (chapter 11): where each stands, what it holds, when it
is rewritten, and the update-count protocol (R188). A value the part does not have at the moment is published as a free
value (log 4).
-/
namespace Sys2Proof.Machine

/-- Offset of a record's first count in the status region (chapter 11). -/
def RecordId.offset : RecordId → Nat
  | .airMap => 0
  | .storeSummary => 80
  | .clip c => 96 + 11 * c.val
  | .deck .d1 => 1504
  | .deck .d2 => 1536
  | .line k => 1568 + 16 * (k.number - 1)
  | .callerQueue => 1696
  | .lineSummary => 1712
  | .alertEngine => 1744
  | .alertQueue => 1776
  | .alertHistory => 1872
  | .meters => 1920
  | .deadAir => 1936
  | .link => 1968
  | .siteStatus => 2000
  | .lamps => 2016
  | .counters => 2032

/-- Words of a record, both counts included (chapter 11). -/
def RecordId.size : RecordId → Nat
  | .airMap => 74
  | .storeSummary => 8
  | .clip _ => 11
  | .deck _ => 18
  | .line _ => 9
  | .callerQueue => 11
  | .lineSummary => 27
  | .alertEngine => 30
  | .alertQueue => 83
  | .alertHistory => 35
  | .meters => 9
  | .deadAir => 17
  | .link => 30
  | .siteStatus => 7
  | .lamps => 10
  | .counters => 60

/-- The XM word of a record's first count (R174). -/
def RecordId.place (r : RecordId) : Nat := Config.statusBase + r.offset

/-! ## Contents -/

/-- A source record: state, L, T, Ts, Ts present (R14). -/
def sourceWords (u : Unstated) (r : SourceRec) : List Nat :=
  [sourceCode r.state, r.level, r.ramp.target, r.saved.getD u.absentSaved.toNat, flag r.saved.isSome]

/-- The air map record (R14). -/
def airWords (u : Unstated) (a : AirMap) : List Nat :=
  (allSources.flatMap fun src => sourceWords u (a.sources.get src)) ++
    [flag a.hold, a.duck, a.duckRamp.target, a.duckDepth, a.duckTime, a.micGain, a.micFade]

/-- A clip record (R39, R41). -/
def clipWords (e : ClipEntry) : List Nat :=
  [clipCode e.state, ownerCode e.owner, e.first, e.pages] ++ words2 e.capacity ++ words2 e.sealed ++ [e.locks]

/-- A deck record (R86). -/
def deckWords (u : Unstated) (r : DeckRec) : List Nat :=
  [deckCode r.state, flag r.playPending, notifyCode r.notify, pendingCode r.pendingEnd,
   if r.pendingEnd = .none then u.absentFade.toNat else r.pendingFade, addressCode (r.current.map Cue.address)]
  ++ words2 ((r.current.map Cue.played).getD u.absentPlayed.toNat)
  ++ words2 ((r.current.map Cue.length).getD u.absentLength.toNat)
  ++ [addressCode (r.next.map Cue.address), r.buffer.length, r.faultStreak, addressCode r.resumeAddress,
      addressCode (r.lastFault.map Prod.fst), (r.lastFault.map fun f => cueFaultCode f.2).getD 0]

/-- A line record (R109). -/
def lineWords (r : LineRec) : List Nat := lineKey r ++ [flag r.lastRing, flag r.lastLoop]

/-- A list of words filled with 0 to a length: entries beyond the count are 0 (R201). -/
def padTo (n : Nat) (ws : List Nat) : List Nat := (ws ++ List.replicate n 0).take n

/-- The caller queue record (R109). -/
def callerWords (c : LineControl) : List Nat := [c.queue.length] ++ padTo 8 (c.queue.map Line.number)
/-- The line summary (R109). -/
def lineSummaryWords (c : LineControl) (m : SlotMap) : List Nat := callersKey c ++ m.words

/-- The alert engine record (R135). -/
def engineWords (u : Unstated) (e : AlertEngine) : List Nat :=
  let airs := e.airing.isSome
  [phaseCode e.phase, (e.airing.map AlertRec.id).getD 0]
  ++ words2 (if airs then e.messageLength else u.absentMessage.toNat)
  ++ words2 (if airs then e.pairsTaken else u.absentTaken.toNat)
  ++ [if airs then flag e.truncated else u.absentTruncated.toNat, e.reader.buffer.length]
  ++ policyWords e

/-- The alert queue record (R135). -/
def alertQueueWords (e : AlertEngine) : List Nat := [e.queue.length] ++ padTo 80 (alertQueueKey e)

/-- An entry of the alert history record (R135, chapter 11). -/
def historyEntry (h : HistoryEntry) : List Nat :=
  [h.id, classCode h.cls, outcomeCode h.outcome, flag h.forwarded + 2 * flag h.truncated]
/-- The alert history record (R135). -/
def historyWords (e : AlertEngine) : List Nat := [e.history.length] ++ padTo 32 (e.history.flatMap historyEntry)

/-- The meters (R148). -/
def meterWords (d : DeadAir) : List Nat :=
  words2 d.meters.left ++ words2 d.meters.right ++ words2 d.meters.primary ++ [d.windows]

/-- The dead-air record (R148). -/
def deadAirWords (u : Unstated) (d : DeadAir) : List Nat :=
  [monitorCode d.state, d.silence, flag d.reported, d.recoveryCount] ++ words2 d.threshold
  ++ [d.limit, d.recovery, d.fade, flag d.binding.isSome,
      (d.binding.map fun b => b.clip.val).getD u.absentClip.toNat, d.gain, d.buffer.length]
  ++ words2 (if d.binding.isSome then d.playPosition else u.absentPosition.toNat)

/-- Milliseconds left on a timer. -/
def msLeft (t : Timer) : Nat := (t.getD 0 + Config.eventsPerMs - 1) / Config.eventsPerMs

/-- The link record (R172). -/
def linkWords (u : Unstated) (l : Link) : List Nat :=
  [flag l.enabled, flag l.fast, l.lossTimeout, linkCode l.state, flag l.pause.isSome,
   (l.pause.map Pause.threshold).getD u.absentThreshold.toNat,
   (l.pause.map fun p => msLeft p.timer).getD u.absentPauseLeft.toNat, l.programQueue.length,
   (l.programQueue.head?.map fun f => f.sequence.toNat).getD u.absentHead.toNat,
   (l.programQueue.getLast?.map fun f => f.sequence.toNat).getD u.absentTail.toNat, l.priorityQueue.length]
  ++ padTo 12 (l.priorityQueue.flatMap frameEntry)
  ++ [l.sequence.toNat, phaseCode l.studio.phase, monitorCode l.studio.monitor, flag l.studio.micOpen,
      linesByte l.studio.linesOnAir]

/-- The site status record (R172). -/
def siteWords (t : SiteStatus) : List Nat :=
  [flag t.received, flag t.carrier, t.alarms.toNat, t.level, t.lastSequence.toNat]

/-- The content words of a record, in the order of chapter 11. -/
def State.content (s : State) : RecordId → List Nat
  | .airMap => airWords s.unstated s.air
  | .storeSummary => summaryWords s.clips s.arbiter
  | .clip c => clipWords s.clips.table[c]
  | .deck d => deckWords s.unstated (s.decks.get d)
  | .line k => lineWords (s.lines.recs.get k)
  | .callerQueue => callerWords s.lines
  | .lineSummary => lineSummaryWords s.lines s.highway.map
  | .alertEngine => engineWords s.unstated s.alert
  | .alertQueue => alertQueueWords s.alert
  | .alertHistory => historyWords s.alert
  | .meters => meterWords s.deadAir
  | .deadAir => deadAirWords s.unstated s.deadAir
  | .link => linkWords s.unstated s.link
  | .siteStatus => siteWords s.link.site
  | .lamps => lampWords s.lamps
  | .counters => s.counters.toList.flatMap words2

/-! ## Rewriting (R188) -/

/-- A record rewritten in one pass: the count raised by one, the content, the new count (R188). -/
def State.rewrite (s : State) (r : RecordId) : State :=
  let n := s.xm.read r.place + 1
  s.xmWriteBlock r.place ([n] ++ (s.content r).map word ++ [n])

/-- The records with one place in the status region. -/
def fixedRecords : List RecordId :=
  [.airMap, .storeSummary, .deck .d1, .deck .d2] ++ allLines.map .line ++
    [.callerQueue, .lineSummary, .alertEngine, .alertQueue, .alertHistory, .meters, .deadAir, .link, .siteStatus,
     .lamps, .counters]

/-- The rewrites a step asked for are made, each once (R188; log 9). -/
def State.publish (s : State) : State := { s.forced.foldl State.rewrite s with forced := [] }

/-- The records a millisecond rewrites (R14, R86, R109, R135, R172, R199). -/
def periodicRecords : List RecordId :=
  [.airMap, .deck .d1, .deck .d2] ++ allLines.map .line ++ [.alertEngine, .link, .counters]

/-- The records written at the first millisecond after start-up (R14, R86, R109, R135, R148, R172, R196, R199). -/
def firstRecords : List RecordId := fixedRecords.filter fun r => !r.early

end Sys2Proof.Machine
end

