-- ==== Sys2Proof/Machine/Mailbox.lean ====
section
/-!
DEFINITION. Machine/Mailbox.lean: the mailbox handlers and the ports' exchange memory accesses (chapter 9, R174 to R187),
the commands of the blocks that need no file of their own, and the requests that waited behind a page search (R43).
-/
namespace Sys2Proof.Machine

/-! ## Commands of the air map, arbiter and counters -/

/-- The DONE result of the microphone commands: MIC's state and L, gain and fade settings (R17 to R19). -/
def State.micDone (s : State) : Reply :=
  .done [sourceCode s.air.sources.mic.state, s.air.sources.mic.level, s.air.micGain, s.air.micFade]

/-- MIC_OPEN (R17). -/
def State.micOpenCommand (s : State) : State × Reply :=
  if s.highway.map.mic.isNone then (s, .refused .badState) else (s.openMic, s.openMic.micDone)

/-- MIC_CLOSE (R18). -/
def State.micCloseCommand (s : State) : State × Reply := (s.closeMic, s.closeMic.micDone)

/-- MIC_GAIN (R19). -/
def State.micGainCommand (s : State) (gain fade : Nat) : State × Reply :=
  let s := s.setMicGain (min gain Config.unity) (min fade 2000)
  (s, s.micDone)

/-- DUCK_SET (R16). -/
def State.duckCommand (s : State) (depth time : Nat) : State × Reply :=
  let depth := min depth Config.unity
  let time := min time 2000
  (s.setDuck depth time, .done [depth, time])

/-- ARBITER_SET (R58). -/
def State.arbiterCommand (s : State) (alert deck fallback : Nat) : State × Reply :=
  let al := clamp 16 256 alert
  let de := clamp 16 256 deck
  let fa := clamp 16 256 fallback
  (s.summarize (s.onArbiter fun a => { a with alertLimit := al, deckLimit := de, fallbackLimit := fa }),
   .done [al, de, fa])

/-- COUNTERS_CLEAR: every counter 0, the record rewritten at once; the result is the new update count (R198). DESIGN CHOICE
(log 44): the clear and its rewrite are one act, so that no increment falls between them. -/
def State.clearCounters (s : State) : State × Reply :=
  let s := ({ s with counters := Vector.replicate 29 0 } : State).rewrite .counters
  (s, .done [(s.xm.read RecordId.counters.place).toNat])

/-! ## The clip store's commands, which wait behind a page search (R43) -/

/-- A command of the clip store manager, as it is taken. -/
def State.clipCommand (s : State) (p : Port) (c : Command) (ws : List Word) : State × Reply :=
  match c with
  | .clipAlloc => (s.beginSearch p (par2 ws 1), .later)
  | .clipCursor => s.setCursor p (par ws 1) (par2 ws 2)
  | .clipSeal => s.sealClip p (par ws 1) (par2 ws 2)
  | .clipFree => s.freeClip p (par ws 1)
  | _ => (s, .later)

/-- A command of the clip store manager as it reaches the manager (R43). -/
def State.clipRequest (s : State) (p : Port) (c : Command) (ws : List Word) : State × Reply :=
  if s.mustWait then (s.enqueue (.command p), .later) else s.clipCommand p c ws

/-! ## Running a command (R182, R183) -/

/-- The owning block's act on a permitted command and its parameter copy (R182). -/
def State.runCommand (s : State) (p : Port) (c : Command) (ws : List Word) : State × Reply :=
  match c with
  | .clipAlloc | .clipCursor | .clipSeal | .clipFree => s.clipRequest p c ws
  | .arbiterSet => s.arbiterCommand (par ws 1) (par ws 2) (par ws 3)
  | .deckLoad | .deckPlay | .deckStop | .deckSkip | .deckResume | .deckNotify => s.deckMailbox c ws
  | .fallbackSet => s.setFallback (par ws 1) (par ws 2) (par ws 3)
  | .deadairSet => s.setDeadAir (par2 ws 1) (par ws 3) (par ws 4) (par ws 5)
  | .linkSet => s.setLink (par ws 1) (par ws 2) (par ws 3)
  | .micOpen => s.micOpenCommand
  | .micClose => s.micCloseCommand
  | .micGain => s.micGainCommand (par ws 1) (par ws 2)
  | .duckSet => s.duckCommand (par ws 1) (par ws 2)
  | .highwayMap => s.mapHighway ws
  | .lineAnswer => s.answerLine (par ws 1) (par ws 2)
  | .lineQueue => s.queueLine (par ws 1)
  | .lineScreen => s.screenLine (par ws 1)
  | .lineTake => s.takeLine (par ws 1)
  | .lineBack => s.backLine (par ws 1)
  | .lineDrop => s.dropLine (par ws 1)
  | .linePromote => s.promoteLine (par ws 1)
  | .lineGain => s.gainLine (par ws 1) (par ws 2) (par ws 3)
  | .alertPost => s.postAlert ws
  | .alertCancel => s.cancelAlert (par ws 1)
  | .alertPolicy => s.setPolicy ws
  | .alertRelease => s.releaseAlert (par ws 1)
  | .alertDecline => s.declineAlert (par ws 1)
  | .countersClear => s.clearCounters
  | .lampSet => s.setLamp (par ws 1) (par ws 2)

/-- A value judged (R182): unknown, not permitted, or passed to the owning block with the copy. -/
def State.judgeCommand (s : State) (p : Port) (v : Word) (ws : List Word) : State × Reply :=
  match commandOf v with
  | none => (s, .refused .unknown)
  | some c => if c.permits p then s.runCommand p c ws else (s, .refused .notPermitted)

/-- An overrun (R185). -/
def State.overrun (s : State) (p : Port) : State := (s.count (.mailboxOverruns p)).raise p .mailboxOverrun

/-- A mailbox that has taken a value and copied its parameters (R181): BUSY in the command word, the value in word 53; the
pairs in the port's write buffer are counted (R49, R184). -/
def State.taken (s : State) (p : Port) (v : Word) (ws : List Word) : State :=
  ((s.xmWrite (base p) busyWord).xmWrite (base p + 53) v).onPort p fun q =>
    { q with running := some ⟨v, ws, q.writeBuffer.length⟩ }

/-- A value taken (R181): the parameters as they stand are copied, the value is judged and its answer written. -/
def State.takeCommand (s : State) (p : Port) (v : Word) : State :=
  let ws := s.xm.readBlock (base p + 1) 24
  let w := (s.taken p v ws).judgeCommand p v ws
  w.1.answer p w.2

/-- A write of the command word by its own port (R177, R181, R185, R189): stored during start-up, an overrun while BUSY,
taken otherwise. -/
def State.commandWordWrite (s : State) (p : Port) (v : Word) : State :=
  if s.clock.power = .startUp then s.xmWrite (base p) v
  else if (s.ports.get p).running.isSome then s.overrun p
  else s.takeCommand p v

/-! ## Accesses of a port -/

/-- An access of a port's processor: while WAIT holds one, the port takes no other (R178). -/
def State.access (s : State) (p : Port) (f : State → State) : State :=
  if (s.ports.get p).wait.isSome then s else f s

/-- A command issued: its parameters written into the page from word 1, then its code into the command word (R181, R200). -/
def State.issue (s : State) (p : Port) (c : Command) (params : List Word) : State :=
  s.access p fun s => (s.xmWriteBlock (base p + 1) (params.take 24)).commandWordWrite p c.code

/-- The two words of the read-ahead at a pointer (R176). -/
def aheadAt (m : Mem 16) (a : BitVec 14) : List (Nat × Word) :=
  [(a.toNat, m.read a.toNat), ((a + 1).toNat, m.read (a + 1).toNat)]

/-- The pointer set; the read-ahead is emptied (R175). -/
def State.pointerWrite (s : State) (p : Port) (v : Word) : State :=
  s.onPort p fun q => { q with pointer := v.setWidth 14, readAhead := [] }

/-- The word at the pointer, from the read-ahead if it holds it and from XM, which fills it, if not (R176). -/
def State.aheadWord (s : State) (p : Port) : Word :=
  let q := s.ports.get p
  match q.readAhead.find? fun e => e.1 == q.pointer.toNat with
  | some e => e.2
  | none => s.xm.read q.pointer.toNat

/-- The pointer moved on by one, wrapping from 16383 to 0, and the read-ahead filled there (R176). -/
def State.movePointer (s : State) (p : Port) : State :=
  s.onPort p fun q => { q with pointer := q.pointer + 1, readAhead := aheadAt s.xm (q.pointer + 1) }

/-- A read through location 1 (R176). -/
def State.dataRead (s : State) (p : Port) : State :=
  let w := s.aheadWord p
  (s.onPort p fun q => { q with readData := w }).movePointer p

/-- A write of a port's own event word: the bits written as one are cleared (R187). -/
def State.clearEvents (s : State) (p : Port) (v : Word) : State :=
  s.xmWrite (base p + 51) (s.pageWord p 51 &&& ~~~v)

/-- A write through location 1 of the word at the pointer (R177). -/
def State.regionWrite (s : State) (p : Port) (a : Nat) (v : Word) : State :=
  if ownsWord p a then
    if a = base p then s.commandWordWrite p v
    else if a = base p + 51 then s.clearEvents p v
    else s.xmWrite a v
  else (s.count (.accessFaults p)).raise p .accessFault

/-- A write through location 1: made or discarded, and the pointer moves on either way (R176, R177). -/
def State.dataWrite (s : State) (p : Port) (v : Word) : State :=
  (s.regionWrite p (s.ports.get p).pointer.toNat v).movePointer p

/-- A write of a port's own event mask, stored as written (R187). -/
def State.maskWrite (s : State) (p : Port) (v : Word) : State := s.xmWrite (base p + 52) v

/-- A write of location 3: with the clear bit set, a port clear in one act (R179, R180). -/
def State.clearPort (s : State) (p : Port) (v : Word) : State :=
  if v.getLsbD 15 then
    let s := s.onPort p fun q =>
      { q.discardAhead with pointer := 0, readAhead := [], partialPair := [], cursor := none }
    (s.xmWriteBlock (base p + 51) [0, 0]).endGrantOf (.port p) false
  else s

/-! ## The end of a page search and what waited behind it (R43) -/

/-- One request that waited, as the manager takes it. -/
def State.takeRequest (s : State) : ClipRequest → State
  | .command p =>
    match (s.ports.get p).running with
    | none => s
    | some q =>
      match commandOf q.value with
      | none => s
      | some c =>
        let w := s.clipCommand p c q.params
        w.1.answer p w.2
  | .lock i => (s.lockNow i).1.onClips fun c => { c with lockAnswer := some (s.lockNow i).2 }
  | .unlock i => s.unlockNow i
  | .deckRead d => s.deckReadAnswered d
  | .alertPost q =>
    let w := s.lockedPost q
    w.1.answer .c w.2
  | .fallbackArm i gain =>
    let w := s.lockedFallback i gain
    ((w.1.onDeadAir fun d => { d with arming := false }).answer .a w.2).monitorDrain

/-- The requests that waited are taken in the order they arrived, until one begins a new search; `fuel` only bounds the
recursion. -/
def State.takeWaiting : Nat → State → State
  | 0, s => s
  | fuel + 1, s =>
    if s.clips.search.isSome then s
    else match s.clips.waiting with
      | [] => s
      | r :: t => State.takeWaiting fuel ((s.onClips fun c => { c with waiting := t }).takeRequest r)

/-- PAGE_SEARCH_END (R42, R43). -/
def State.searchOver (s : State) : State :=
  match s.clips.search with
  | none => s
  | some q =>
    let w := s.endSearch q
    let s := w.1.answer q.port w.2
    s.takeWaiting (100 * (s.clips.waiting.length + 10))

/-- SEAL_TAKEN: every pair the seal counted has left the write buffer (R49). DESIGN CHOICE (log 39): the manager takes the
seal then at once, also while another port's page search runs. -/
def State.sealOver (s : State) (p : Port) : State :=
  match (s.ports.get p).sealing with
  | some q =>
    if s.pairsCounted p = 0 then
      let w := s.takeSeal p q
      w.1.answer p w.2
    else s
  | none => s

end Sys2Proof.Machine
end

