-- ==== Sys2Proof/Machine/Settle.lean ====
section
/-!
DEFINITION. Machine/Settle.lean: how an act begins and ends: ramps that have ended settle first (R5), notices and signals
are delivered (R12), and the rewrites asked for are made (R188).
-/
namespace Sys2Proof.Machine

/-- A state notice taken by the source's owner (R12): a deck, the line controller or the dead-air monitor acts on it; port
B for MIC and the alert engine for ALERT take it without acting. -/
def State.ownerState (s : State) (src : Source) (n : StateNotice) : State :=
  match src with
  | .deck d => s.deckTake d (.state n)
  | .line k => s.lineNotice k n.state
  | .fallback => s.monitorTake (.notice n)
  | .mic | .alert => s

/-- A silent notice taken by the source's owner: a deck acts on it (R82). -/
def State.ownerSilent (s : State) (src : Source) : State :=
  match src with
  | .deck d => s.deckTake d .silent
  | _ => s

/-- The lamp driver and the framer take a state change of MIC or a LINE source from the air map directly (R159, R193). -/
def State.tapState (s : State) (src : Source) (st : SourceState) : State :=
  match src with
  | .mic => (s.lampInput (.mic st)).studioChange (.mic st.isOpen)
  | .line k => (s.lampInput (.line k (st != .off))).studioChange (.line k (st != .off))
  | _ => s

/-- One message delivered. -/
def State.deliver (s : State) : Message → State
  | .state src n => (s.tapState src n.state).ownerState src n
  | .silent src => s.ownerSilent src
  | .segue d => s.deckTake d .segue

/-- Messages delivered in the order they were sent, with those they give rise to; `fuel` only bounds the recursion. -/
def State.drainMessages : Nat → State → State
  | 0, s => s
  | fuel + 1, s =>
    match s.messages with
    | [] => s
    | m :: t => State.drainMessages fuel (({ s with messages := t } : State).deliver m)

/-- All messages delivered; none is left between steps (log 10). -/
def State.drain (s : State) : State := { s.drainMessages 1000 with messages := [] }

/-- Every ramp that has reached its length has ended, and its notices are delivered (R5, R12). -/
def State.landed (s : State) : State := (allSources.foldl State.endRamp s).drain

/-- What a deck owes in order: the lookahead of a cue fetched whole (R72), the end of priming (R68), the points the mixer's
takes reached in the order of R71's table, and the lookahead of a cue that has just become the current one (R72). -/
def deckActions (d : DeckId) : List (State → State) :=
  [fun s => s.makeLookahead d, fun s => s.deckPrimed d, fun s => s.fadeOutPoint d, fun s => s.seguePoint d,
   fun s => s.endCue d, fun s => s.makeLookahead d]

/-- Acts taken one after another, each whole: its notices and signals are delivered before the next. -/
def State.acts (s : State) (l : List (State → State)) : State := l.foldl (fun s f => (f s).drain) s

/-- Every ramp that has ended is settled (R5; log 27), and every take of the mixer is taken whole by its deck, the points it
reached acted on (R71, R84; log 49). -/
def State.decksFound (s : State) : State := s.landed.acts (deckActions .d1 ++ deckActions .d2)

/-- The state an act finds: what the decks owe is acted on, and a message whose last pair the mixer has taken has ended, with
what the decks then owe (R129, R133; log 49). -/
def State.found (s : State) : State :=
  let u := s.decksFound
  if u.alert.messageOwed then u.acts (State.messageOver :: (deckActions .d1 ++ deckActions .d2)) else u

/-- The end of a step: messages, records. -/
def State.settle (s : State) : State := s.drain.publish

/-- What a command answers. -/
abbrev Outcome := Host.Outcome State Fault Refusal

/-- A step of a released part: what the latest program sample event brought comes first, ramps that ended (R5; log 27) and
takes that reached a point of a deck or the end of a message (R84, R133; log 49); then the act is made, and the step ends. -/
def State.act (s : State) (f : State → State) : State := s.released fun s => (f s.found).settle

/-- A step in which a deck acts on a point of its own: the ramps that ended come first. -/
def State.deckAct (s : State) (f : State → State) : State := s.released fun s => (f s.landed).settle

/-- The step in which a message ends by its own row: what the decks owe comes first. -/
def State.messageAct (s : State) (f : State → State) : State := s.released fun s => (f s.decksFound).settle

end Sys2Proof.Machine
end

