-- ==== Sys2Proof/Machine/Clock.lean ====
section
/-!
DEFINITION. Machine/Clock.lean: reset and start-up (R189 to R191), the millisecond's rewrite (R14, R188, R195), what is due
at the end of a program sample event, and the program sample event itself (R21).
-/
namespace Sys2Proof.Machine

/-! ## Reset and start-up -/

/-- The event word and mask of every port at 0, the rest of exchange memory as it was (R191). -/
def resetXm (m : Mem 16) : Mem 16 :=
  ((m.writeBlock 51 [0, 0]).writeBlock 4147 [0, 0]).writeBlock 8243 [0, 0]

/-- RESET_N asserted: every piece of state at its value after RESET_N; exchange memory and the clip store's content stay, with
the pairs that a running grant has written so far (R57, R60, R189, R191; log 3). -/
def State.assertReset (s : State) : State :=
  let u := s.writtenSoFar fun _ => true
  { State.reset with pending := s.pending, xm := resetXm s.xm, sdram := u.sdram, unstated := s.unstated
                     arbiter := { Arbiter.reset with cuts := u.arbiter.cuts } }

/-- Exchange memory at the release: the command words and the status region at 0 (R189). -/
def releaseXm (m : Mem 16) : Mem 16 :=
  let kept : Mem 16 := m.filter fun e => e.1 < Config.statusBase
  ((kept.write 0 0).write 4096 0).write 8192 0

/-- RESET_N released: start-up begins and the size straps are sampled (R37, R189). -/
def State.releaseReset (s : State) (sz1 sz0 : Bool) : State :=
  if s.clock.power = .reset then
    ({ s with clock := ⟨.startUp, 0, 0, false, false⟩, counters := Vector.replicate 29 0
              clips := { s.clips with totalPages := pagesOf sz1 sz0 } } : State).onXm releaseXm
  else s

/-- A port's number in its identification block (R190). -/
def portNumber : Port → Nat
  | .a => 0 | .b => 1 | .c => 2

/-- The identification block (R190). -/
def identification (p : Port) (totalPages : Nat) : List Nat :=
  [0x0AC3, 0x0001, portNumber p, base p, 4096, Config.statusBase, 4096, totalPages, totalPages / 16, 0]

/-- A port's page as start-up ends (R189): 25 to 53 are 0, the identification block, then READY. -/
def State.startPage (s : State) (p : Port) : State :=
  (s.xmWriteBlock (base p + 25) (List.replicate 29 0 ++ (identification p s.clips.totalPages).map word)).xmWrite
    (base p) readyWord

/-- START_UP_END: the first millisecond after the release is complete (R189). -/
def State.startUpOver (s : State) : State :=
  if s.clock.power = .startUp ∧ Config.eventsPerMs ≤ s.clock.startUpEvents then
    let s := ((s.startPage .a).startPage .b).startPage .c
    ({ s with clock := { s.clock with power := .running, msEvents := 0 } } : State).force [.storeSummary]
  else s

/-! ## The millisecond -/

/-- MILLISECOND_REWRITE: the PWM cycle starts, and the records a millisecond rewrites are rewritten; the first one writes
every record (R14, R189, R195). DESIGN CHOICE (log 48): it writes each as its block then stands, also where a counter, a lamp
or another value has left its reset value since start-up began (R196, R199). -/
def State.millisecondOver (s : State) : State :=
  if s.clock.rewriteDue then
    let s' := { s with lamps := s.lamps.startCycle, clock := { s.clock with rewriteDue := false, begun := true } }
    s'.force (if s.clock.begun then periodicRecords else firstRecords)
  else s

/-! ## What is due -/

/-- The forward timers and expiry timers of the queued alerts, in queue order. -/
def State.forwardsOver (s : State) : State := (s.alert.queue.map AlertRec.id).foldl State.forwardOver s
def State.expiriesOver (s : State) : State := (s.alert.queue.map AlertRec.id).foldl State.expiryOver s

/-- A page search that has run its millisecond ends (R43). -/
def State.searchDeadline (s : State) : State :=
  match s.clips.search with
  | some q => if Config.eventsPerMs ≤ q.age then s.searchOver else s
  | none => s

/-- The timers of a line. -/
def lineActions (k : Line) : List (State → State) :=
  [fun s => s.ringQualified k, fun s => s.ringGone k, fun s => s.graceOver k, fun s => s.loopLost k,
   fun s => s.guardOver k]
/-- The accesses and seal of a port. -/
def portActions (p : Port) : List (State → State) :=
  [fun s => s.sealOver p, fun s => s.releaseWrite p, fun s => s.releaseRead p]

/-- Everything that may be due, in the order in which what no row has taken yet is taken (log 7). -/
def dueActions : List (State → State) :=
  [State.landed, State.endDuck] ++ deckActions .d1 ++ deckActions .d2
  ++ [State.messageOver, State.preemptOver, State.toneOver, State.restoreOver, fun s => s.toneOverflow .t1,
      fun s => s.toneOverflow .t2]
  ++ allLines.flatMap lineActions
  ++ [State.forwardsOver, State.expiriesOver, State.pauseOver, State.linkLost, fun s => s.flashOver .alert,
      fun s => s.flashOver .link, State.windowEnd, State.formProgram]
  ++ portActions .a ++ portActions .b ++ portActions .c
  ++ [State.searchDeadline, State.startUpOver, State.millisecondOver]

/-- What is due and has not acted acts, each act whole. -/
def State.takeDue (s : State) : State := s.acts dueActions

/-! ## The program sample event (R21) -/

/-- Every timer of a line counts (R94). -/
def LineRec.tick (r : LineRec) : LineRec :=
  { r with ringQualify := Machine.tick r.ringQualify, ringGap := Machine.tick r.ringGap
           answerGrace := Machine.tick r.answerGrace, loopLoss := Machine.tick r.loopLoss
           releaseGuard := Machine.tick r.releaseGuard }

/-- The timers of a record count (R113). -/
def AlertRec.tick (r : AlertRec) : AlertRec :=
  { r with forwardTimer := Machine.tick r.forwardTimer, expiryTimer := Machine.tick r.expiryTimer }

/-- The alert engine's part of an event: the phase is one event older, the generators step in TONE, timers count (R113,
R124, R127). -/
def AlertEngine.tick (e : AlertEngine) : AlertEngine :=
  { e with phaseEvents := e.phaseEvents + 1
           gen1 := if e.phase = .tone then e.gen1.step else e.gen1
           gen2 := if e.phase = .tone then e.gen2.step else e.gen2
           queue := e.queue.map AlertRec.tick }

/-- The link's timers count (R166, R170). -/
def Link.tick (l : Link) : Link :=
  { l with lossTimer := Machine.tick l.lossTimer
           pause := l.pause.map fun p => { p with timer := Machine.tick p.timer } }

/-- Every timer of the part, and the page search's age, one event on. -/
def State.tickTimers (s : State) : State :=
  { s with lines := { s.lines with recs := s.lines.recs.mapWith fun _ r => r.tick }
           alert := s.alert.tick, link := s.link.tick
           lamps := { s.lamps with lamps := s.lamps.lamps.mapWith fun _ r => { r with timer := Machine.tick r.timer } }
           clips := { s.clips with search := s.clips.search.map fun q => { q with age := q.age + 1 } } }

/-- The clock one event on; the event that completes a millisecond after start-up leaves its rewrite due and moves the
alert engine's millisecond count (R14, R113). -/
def State.tickClock (s : State) : State :=
  match s.clock.power with
  | .reset => s
  | .startUp => { s with clock := { s.clock with startUpEvents := s.clock.startUpEvents + 1 } }
  | .running =>
    if s.clock.msEvents + 1 < Config.eventsPerMs then
      { s with clock := { s.clock with msEvents := s.clock.msEvents + 1 } }
    else
      { s with clock := { s.clock with msEvents := 0, rewriteDue := true }
               alert := { s.alert with milliseconds := (s.alert.milliseconds + 1) % 4294967296 } }

/-- The mixer hands its pairs to the framer and to the monitor, which counts windows from the end of start-up (R34, R35,
R137). -/
def State.handOn (s : State) : State :=
  let s := s.onLink fun l => l.takePair s.mixer.program
  if s.clock.power = .running then s.onDeadAir fun d => d.hear s.mixer.program s.mixer.primary else s

/-- The event itself, nothing due: ramp and duck steps, the mixer's work, hand-over, timers, clock (R21). -/
def State.sampleEvent (s : State) : State :=
  (({ s with air := s.air.step } : State).mixNow.handOn.tickTimers).tickClock

/-- PROGRAM_SAMPLE_EVENT: what is still due acts first and is published; then the event. -/
def State.programSample (s : State) : State :=
  s.takeDue.settle.sampleEvent.settle

end Sys2Proof.Machine
end

