-- ==== Sys2Proof/Machine/AirRows.lean ====
section
/-!
DEFINITION. Machine/AirRows.lean: the meanings of the rows of the air map (chapter 1).
-/
namespace Sys2Proof.Machine

/-- RAMP_END of a source (R5, R12). -/
def execRampEnd (src : Source) (s : State) : Outcome := .next (s.released fun s => (s.endRamp src).settle)

/-- DUCK_RAMP_END (R15). -/
def execDuckRampEnd (s : State) : Outcome := .next (s.released fun s => s.endDuck)

/-- A request's answer kept beside its effect (R12; log 45). -/
def State.answered (w : State × Answer) : State := { w.1 with airAnswer := some w.2 }

/-- RAMP: an owner's request on its source, answered STARTED, SETTLED or DEFERRED (R7, R8, R12). -/
def execRamp (src : Source) (target length : Nat) (s : State) : Outcome :=
  .next (s.act fun s => State.answered (s.airRamp src target length))

/-- CUT: an owner's request on its source, answered CUT_DONE (R9, R12). -/
def execCut (src : Source) (s : State) : Outcome := .next (s.act fun s => State.answered (s.airCut src))

/-- HOLD: the alert engine's request on the air map (R10, R12). -/
def execHold (length : Nat) (s : State) : Outcome := .next (s.act fun s => s.airHold length)

/-- RESTORE: the alert engine's request on the air map (R11, R12). -/
def execRestore (length : Nat) (s : State) : Outcome := .next (s.act fun s => s.airRestore length)

/-- STATE_NOTICE: a source's owner takes a notice of its state and L (R12, R82, R83, R106, R107, R143). -/
def execStateNotice (src : Source) (n : StateNotice) (s : State) : Outcome :=
  .next (s.act fun s => s.ownerState src n)

/-- SILENT_NOTICE: a source's owner takes the silent notice (R12, R76, R82). -/
def execSilentNotice (src : Source) (s : State) : Outcome := .next (s.act fun s => s.ownerSilent src)

end Sys2Proof.Machine
end

