-- ==== Sys2Proof/Machine/AlertRows.lean ====
section
/-!
DEFINITION. Machine/AlertRows.lean: the meanings of the rows of the alert engine that no command issues (chapter 6).
-/
namespace Sys2Proof.Machine

/-- FORWARD_TIMER_EXPIRY of the record of an id (R121). -/
def execForwardTimerExpiry (id : Word) (s : State) : Outcome := .next (s.act fun s => s.forwardOver id.toNat)

/-- EXPIRY_TIMER_EXPIRY of the record of an id (R122). -/
def execExpiryTimerExpiry (id : Word) (s : State) : Outcome := .next (s.act fun s => s.expiryOver id.toNat)

/-- PREEMPT_END (R126). -/
def execPreemptEnd (s : State) : Outcome := .next (s.act fun s => s.preemptOver)

/-- TONE_GENERATOR_OVERFLOW (R127). -/
def execToneGeneratorOverflow (g : Generator) (s : State) : Outcome := .next (s.released fun s => s.toneOverflow g)

/-- TONE_END (R128). -/
def execToneEnd (s : State) : Outcome := .next (s.act fun s => s.toneOver)

/-- MESSAGE_END (R129, R130). -/
def execMessageEnd (s : State) : Outcome := .next (s.messageAct fun s => s.messageOver)

/-- RESTORE_END (R131). -/
def execRestoreEnd (s : State) : Outcome := .next (s.act fun s => s.restoreOver)

end Sys2Proof.Machine
end

