-- ==== Sys2Proof/Machine/CommandRows.lean ====
section
/-!
DEFINITION. Machine/CommandRows.lean: the meanings of the mailbox rows: the 34 commands, an unknown value and an overrun (chapters 1 to 10, R181 to R185).
-/
namespace Sys2Proof.Machine

/-- CLIP_ALLOC issued through a port's mailbox (R42, R43; R181 to R184). -/
def execClipAlloc (p : Port) (pairs : Long) (s : State) : Outcome :=
  .next (s.act fun s => s.issue p .clipAlloc (longWords pairs))

/-- CLIP_CURSOR issued through a port's mailbox (R44; R181 to R184). -/
def execClipCursor (p : Port) (clip : Word) (offset : Long) (s : State) : Outcome :=
  .next (s.act fun s => s.issue p .clipCursor (clip :: longWords offset))

/-- CLIP_SEAL issued through a port's mailbox (R49; R181 to R184). -/
def execClipSeal (p : Port) (clip : Word) (length : Long) (s : State) : Outcome :=
  .next (s.act fun s => s.issue p .clipSeal (clip :: longWords length))

/-- CLIP_FREE issued through a port's mailbox (R50, R51; R181 to R184). -/
def execClipFree (p : Port) (clip : Word) (s : State) : Outcome := .next (s.act fun s => s.issue p .clipFree [clip])

/-- ARBITER_SET issued through a port's mailbox (R58; R181 to R184). -/
def execArbiterSet (p : Port) (alert deck fallback : Word) (s : State) : Outcome :=
  .next (s.act fun s => s.issue p .arbiterSet [alert, deck, fallback])

/-- DECK_LOAD issued through a port's mailbox (R69; R181 to R184). -/
def execDeckLoad (p : Port) (deck address : Word) (s : State) : Outcome :=
  .next (s.act fun s => s.issue p .deckLoad [deck, address])

/-- DECK_PLAY issued through a port's mailbox (R70; R181 to R184). -/
def execDeckPlay (p : Port) (deck : Word) (s : State) : Outcome := .next (s.act fun s => s.issue p .deckPlay [deck])

/-- DECK_STOP issued through a port's mailbox (R76, R77; R181 to R184). -/
def execDeckStop (p : Port) (deck fade : Word) (s : State) : Outcome :=
  .next (s.act fun s => s.issue p .deckStop [deck, fade])

/-- DECK_SKIP issued through a port's mailbox (R78; R181 to R184). -/
def execDeckSkip (p : Port) (deck fade : Word) (s : State) : Outcome :=
  .next (s.act fun s => s.issue p .deckSkip [deck, fade])

/-- DECK_RESUME issued through a port's mailbox (R79; R181 to R184). -/
def execDeckResume (p : Port) (deck : Word) (s : State) : Outcome :=
  .next (s.act fun s => s.issue p .deckResume [deck])

/-- DECK_NOTIFY issued through a port's mailbox (R75; R181 to R184). -/
def execDeckNotify (p : Port) (deck mode : Word) (s : State) : Outcome :=
  .next (s.act fun s => s.issue p .deckNotify [deck, mode])

/-- FALLBACK_SET issued through a port's mailbox (R144; R181 to R184). -/
def execFallbackSet (p : Port) (clip gain armed : Word) (s : State) : Outcome :=
  .next (s.act fun s => s.issue p .fallbackSet [clip, gain, armed])

/-- DEADAIR_SET issued through a port's mailbox (R139; R181 to R184). -/
def execDeadairSet (p : Port) (threshold : Long) (limit recovery fade : Word) (s : State) : Outcome :=
  .next (s.act fun s => s.issue p .deadairSet (longWords threshold ++ [limit, recovery, fade]))

/-- LINK_SET issued through a port's mailbox (R151, R152; R181 to R184). -/
def execLinkSet (p : Port) (enable rate timeout : Word) (s : State) : Outcome :=
  .next (s.act fun s => s.issue p .linkSet [enable, rate, timeout])

/-- MIC_OPEN issued through a port's mailbox (R17; R181 to R184). -/
def execMicOpen (p : Port) (s : State) : Outcome := .next (s.act fun s => s.issue p .micOpen [])

/-- MIC_CLOSE issued through a port's mailbox (R18; R181 to R184). -/
def execMicClose (p : Port) (s : State) : Outcome := .next (s.act fun s => s.issue p .micClose [])

/-- MIC_GAIN issued through a port's mailbox (R19; R181 to R184). -/
def execMicGain (p : Port) (gain fade : Word) (s : State) : Outcome :=
  .next (s.act fun s => s.issue p .micGain [gain, fade])

/-- DUCK_SET issued through a port's mailbox (R16; R181 to R184). -/
def execDuckSet (p : Port) (depth time : Word) (s : State) : Outcome :=
  .next (s.act fun s => s.issue p .duckSet [depth, time])

/-- HIGHWAY_MAP issued through a port's mailbox (R92; R181 to R184). -/
def execHighwayMap (p : Port) (words : List Word) (s : State) : Outcome :=
  .next (s.act fun s => s.issue p .highwayMap words)

/-- LINE_ANSWER issued through a port's mailbox (R97; R181 to R184). -/
def execLineAnswer (p : Port) (line destination : Word) (s : State) : Outcome :=
  .next (s.act fun s => s.issue p .lineAnswer [line, destination])

/-- LINE_QUEUE issued through a port's mailbox (R101; R181 to R184). -/
def execLineQueue (p : Port) (line : Word) (s : State) : Outcome := .next (s.act fun s => s.issue p .lineQueue [line])

/-- LINE_SCREEN issued through a port's mailbox (R101; R181 to R184). -/
def execLineScreen (p : Port) (line : Word) (s : State) : Outcome :=
  .next (s.act fun s => s.issue p .lineScreen [line])

/-- LINE_TAKE issued through a port's mailbox (R102; R181 to R184). -/
def execLineTake (p : Port) (line : Word) (s : State) : Outcome := .next (s.act fun s => s.issue p .lineTake [line])

/-- LINE_BACK issued through a port's mailbox (R103; R181 to R184). -/
def execLineBack (p : Port) (line : Word) (s : State) : Outcome := .next (s.act fun s => s.issue p .lineBack [line])

/-- LINE_DROP issued through a port's mailbox (R105, R106; R181 to R184). -/
def execLineDrop (p : Port) (line : Word) (s : State) : Outcome := .next (s.act fun s => s.issue p .lineDrop [line])

/-- LINE_PROMOTE issued through a port's mailbox (R100; R181 to R184). -/
def execLinePromote (p : Port) (line : Word) (s : State) : Outcome :=
  .next (s.act fun s => s.issue p .linePromote [line])

/-- LINE_GAIN issued through a port's mailbox (R104; R181 to R184). -/
def execLineGain (p : Port) (line gain fade : Word) (s : State) : Outcome :=
  .next (s.act fun s => s.issue p .lineGain [line, gain, fade])

/-- ALERT_POST issued through a port's mailbox (R115 to R117; R181 to R184). -/
def execAlertPost (p : Port) (id priority cls clip tone expiry : Word) (s : State) : Outcome :=
  .next (s.act fun s => s.issue p .alertPost [id, priority, cls, clip, tone, expiry])

/-- ALERT_CANCEL issued through a port's mailbox (R123; R181 to R184). -/
def execAlertCancel (p : Port) (id : Word) (s : State) : Outcome := .next (s.act fun s => s.issue p .alertCancel [id])

/-- ALERT_POLICY issued through a port's mailbox (R112; R181 to R184). -/
def execAlertPolicy (p : Port) (part : Word) (values : List Word) (s : State) : Outcome :=
  .next (s.act fun s => s.issue p .alertPolicy (part :: values))

/-- ALERT_RELEASE issued through a port's mailbox (R119; R181 to R184). -/
def execAlertRelease (p : Port) (id : Word) (s : State) : Outcome :=
  .next (s.act fun s => s.issue p .alertRelease [id])

/-- ALERT_DECLINE issued through a port's mailbox (R120; R181 to R184). -/
def execAlertDecline (p : Port) (id : Word) (s : State) : Outcome :=
  .next (s.act fun s => s.issue p .alertDecline [id])

/-- COUNTERS_CLEAR issued through a port's mailbox (R198; R181 to R184). -/
def execCountersClear (p : Port) (s : State) : Outcome := .next (s.act fun s => s.issue p .countersClear [])

/-- LAMP_SET issued through a port's mailbox (R196; R181 to R184). -/
def execLampSet (p : Port) (lamp duty : Word) (s : State) : Outcome :=
  .next (s.act fun s => s.issue p .lampSet [lamp, duty])

/-- UNKNOWN_COMMAND: a value written to the command word that is no command code (R182). -/
def execUnknownCommand (p : Port) (v : Word) (s : State) : Outcome :=
  .next (s.act fun s => s.access p fun s => s.commandWordWrite p v)

/-- MAILBOX_OVERRUN: a write of the command word while the mailbox holds a command (R185). The value is discarded. -/
def execMailboxOverrun (p : Port) (_value : Word) (s : State) : Outcome :=
  .next (s.released fun s => s.access p fun s => if (s.ports.get p).running.isSome then s.overrun p else s)

end Sys2Proof.Machine
end

