-- ==== Sys2Proof/Machine/DeckRows.lean ====
section
/-!
DEFINITION. Machine/DeckRows.lean: the meanings of the rows of the decks that no command issues (chapter 4).
-/
namespace Sys2Proof.Machine

/-- DECK_PRIMED (R68). -/
def execDeckPrimed (d : DeckId) (s : State) : Outcome := .next (s.deckAct fun s => s.deckPrimed d)

/-- LOOKAHEAD (R72). -/
def execLookahead (d : DeckId) (s : State) : Outcome := .next (s.deckAct fun s => s.makeLookahead d)

/-- CUE_FADE_OUT_POINT (R71). -/
def execCueFadeOutPoint (d : DeckId) (s : State) : Outcome := .next (s.deckAct fun s => s.fadeOutPoint d)

/-- CUE_SEGUE_POINT (R71, R80). -/
def execCueSeguePoint (d : DeckId) (s : State) : Outcome := .next (s.deckAct fun s => s.seguePoint d)

/-- The take of a cue's last pair (R71): a fade-out or segue point still to be acted on comes before the end, in the order of
R71's table. -/
def State.lastTake (s : State) (d : DeckId) : State :=
  if (s.decks.get d).endDue then (s.acts [fun s => s.fadeOutPoint d, fun s => s.seguePoint d]).endCue d else s

/-- CUE_END (R73, R76, R78). -/
def execCueEnd (d : DeckId) (s : State) : Outcome := .next (s.deckAct fun s => s.lastTake d)

/-- SEGUE_SIGNAL: a deck takes the other deck's signal (R80). -/
def execSegueSignal (receiver : DeckId) (s : State) : Outcome := .next (s.act fun s => s.deckTake receiver .segue)

end Sys2Proof.Machine
end

