-- ==== Sys2Proof/Machine/LampRows.lean ====
section
/-!
DEFINITION. Machine/LampRows.lean: the meanings of the rows of the lamp driver and the counters that no command issues (chapter 10).
-/
namespace Sys2Proof.Machine

/-- LAMP_INPUT_CHANGE (R193, R194). -/
def execLampInputChange (i : LampInput) (s : State) : Outcome := .next (s.act fun s => s.lampInput i)

/-- FLASH_TIMER_EXPIRY (R194). -/
def execFlashTimerExpiry (l : Lamp) (s : State) : Outcome := .next (s.released fun s => s.flashOver l)

/-- COUNTER_INCREMENT (R197). -/
def execCounterIncrement (c : Counter) (s : State) : Outcome := .next (s.released fun s => s.count c)

end Sys2Proof.Machine
end

