-- ==== Sys2Proof/Machine/LineRows.lean ====
section
/-!
DEFINITION. Machine/LineRows.lean: the meanings of the rows of the highway and the line controller that no command issues (chapter 5).
-/
namespace Sys2Proof.Machine

/-- SLOT_WORD_ARRIVAL (R23, R89, R94 to R96). -/
def execSlotWordArrival (slot : Fin 16) (w : BitVec 32) (s : State) : Outcome :=
  .next (s.act fun s => s.slotArrival slot w)

/-- TRANSMIT_FRAME (R33, R90). -/
def execTransmitFrame (s : State) : Outcome := .next (s.act fun s => s.sendHighwayFrame)

/-- RING_QUALIFY_EXPIRY (R95). -/
def execRingQualifyExpiry (k : Line) (s : State) : Outcome := .next (s.act fun s => s.ringQualified k)

/-- RING_GAP_EXPIRY (R95). -/
def execRingGapExpiry (k : Line) (s : State) : Outcome := .next (s.act fun s => s.ringGone k)

/-- ANSWER_GRACE_EXPIRY (R96, R99). -/
def execAnswerGraceExpiry (k : Line) (s : State) : Outcome := .next (s.act fun s => s.graceOver k)

/-- LOOP_LOSS_EXPIRY (R96, R99). -/
def execLoopLossExpiry (k : Line) (s : State) : Outcome := .next (s.act fun s => s.loopLost k)

/-- RELEASE_GUARD_EXPIRY (R106). -/
def execReleaseGuardExpiry (k : Line) (s : State) : Outcome := .next (s.act fun s => s.guardOver k)

end Sys2Proof.Machine
end

