-- ==== Sys2Proof/Machine/LinkRows.lean ====
section
/-!
DEFINITION. Machine/LinkRows.lean: the meanings of the rows of the transmitter link that no command issues (chapter 8).
-/
namespace Sys2Proof.Machine

/-- PROGRAM_FRAME_FORMED (R157, R161). -/
def execProgramFrameFormed (s : State) : Outcome := .next (s.act fun s => s.formProgram)

/-- ALERT_NOTICE_HANDED (R158, R163). -/
def execAlertNoticeHanded (n : AlertNotice) (s : State) : Outcome := .next (s.act fun s => s.handNotice n)

/-- STUDIO_VALUE_CHANGE (R159). -/
def execStudioValueChange (c : StudioChange) (s : State) : Outcome := .next (s.act fun s => s.studioChange c)

/-- STANDBY_DEPARTURE (R162). -/
def execStandbyDeparture (s : State) : Outcome := .next (s.act fun s => s.promote)

/-- TRANSMIT_GAP_END (R164). -/
def execTransmitGapEnd (s : State) : Outcome := .next (s.act fun s => s.gapEnd)

/-- PAUSE_FRAME: a valid PAUSE is received (R166, R168). -/
def execPauseFrame (bytes : List Byte) (s : State) : Outcome := .next (s.act fun s => s.receivePause bytes)

/-- SITE_STATUS_FRAME: a valid SITE_STATUS is received (R168, R169). -/
def execSiteStatusFrame (bytes : List Byte) (s : State) : Outcome := .next (s.act fun s => s.receiveStatus bytes)

/-- RX_BAD_CHECK: a frame whose check fails is received (R168). -/
def execRxBadCheck (bytes : List Byte) (s : State) : Outcome := .next (s.act fun s => s.receiveBadCheck bytes)

/-- RX_BAD_FRAME: a frame of bad length or kind is received (R168). -/
def execRxBadFrame (bytes : List Byte) (s : State) : Outcome := .next (s.act fun s => s.receiveBadFrame bytes)

/-- LOSS_TIMER_EXPIRY (R170). -/
def execLossTimerExpiry (s : State) : Outcome := .next (s.act fun s => s.linkLost)

/-- PAUSE_TIMER_EXPIRY (R167). -/
def execPauseTimerExpiry (s : State) : Outcome := .next (s.act fun s => s.pauseOver)

/-- START_PATTERN_FOUND: the last 16 bits the hunting receiver has read (R168). -/
def execStartPatternFound (bits : Word) (s : State) : Outcome := .next (s.released fun s => s.readBits bits)

end Sys2Proof.Machine
end

