-- ==== Sys2Proof/Machine/PortRows.lean ====
section
/-!
DEFINITION. Machine/PortRows.lean: the meanings of the rows of a port's accesses (chapter 9, R175 to R180, R187).
-/
namespace Sys2Proof.Machine

/-- XM_POINTER_WRITE: a write of location 0 (R175). -/
def execXmPointerWrite (p : Port) (v : Word) (s : State) : Outcome :=
  .next (s.released fun s => s.access p fun s => s.pointerWrite p v)

/-- XM_DATA_READ: a read of location 1 (R176). -/
def execXmDataRead (p : Port) (s : State) : Outcome := .next (s.released fun s => s.access p fun s => s.dataRead p)

/-- XM_DATA_WRITE: a write of location 1 at the pointer (R177). Only one that reaches the port's own command word can
change more than exchange memory, the counters and the port. -/
def execXmDataWrite (p : Port) (v : Word) (s : State) : Outcome :=
  .next (s.released fun s => s.access p fun s =>
    if (s.ports.get p).pointer.toNat = base p then (s.found.commandWordWrite p v).settle.movePointer p
    else s.dataWrite p v)

/-- EVENT_WORD_WRITE: a port's write of its own event word (R187). -/
def execEventWordWrite (p : Port) (v : Word) (s : State) : Outcome :=
  .next (s.released fun s => s.access p fun s => s.clearEvents p v)

/-- EVENT_MASK_WRITE: a port's write of its own event mask (R187). -/
def execEventMaskWrite (p : Port) (v : Word) (s : State) : Outcome :=
  .next (s.released fun s => s.access p fun s => s.maskWrite p v)

/-- CLIP_DATA_WRITE: a write of location 2 (R45, R178). -/
def execClipDataWrite (p : Port) (v : Word) (s : State) : Outcome :=
  .next (s.released fun s => s.access p fun s => s.clipWrite p v)

/-- CLIP_DATA_READ: a read of location 2 (R47, R178). -/
def execClipDataRead (p : Port) (s : State) : Outcome := .next (s.released fun s => s.access p fun s => s.clipRead p)

/-- HELD_WRITE_RELEASED (R45, R178). -/
def execHeldWriteReleased (p : Port) (s : State) : Outcome := .next (s.released fun s => s.releaseWrite p)

/-- HELD_READ_RELEASED (R47, R178). -/
def execHeldReadReleased (p : Port) (s : State) : Outcome := .next (s.released fun s => s.releaseRead p)

/-- PORT_CLEAR: a write of location 3 (R179, R180). -/
def execPortClear (p : Port) (v : Word) (s : State) : Outcome :=
  .next (s.released fun s => s.access p fun s => s.clearPort p v)

end Sys2Proof.Machine
end

