-- ==== Sys2Proof/Machine/StoreRows.lean ====
section
/-!
DEFINITION. Machine/StoreRows.lean: the meanings of the rows of the clip store and its arbiter (chapter 3).
-/
namespace Sys2Proof.Machine

/-- PAGE_SEARCH_END (R42, R43). -/
def execPageSearchEnd (s : State) : Outcome := .next (s.act fun s => s.searchOver)

/-- SEAL_TAKEN (R49). -/
def execSealTaken (p : Port) (s : State) : Outcome := .next (s.act fun s => s.sealOver p)

/-- LOCK_REQUEST (R52). -/
def execLockRequest (c : Fin 128) (s : State) : Outcome := .next (s.act fun s => s.requestLock c)

/-- UNLOCK (R53). -/
def execUnlock (c : Fin 128) (s : State) : Outcome := .next (s.act fun s => s.unlockClip c)

/-- ARBITER_GRANT (R55, R56). -/
def execArbiterGrant (s : State) : Outcome := .next (s.released fun s => s.arbitrate)

/-- BURST_END (R57). -/
def execBurstEnd (s : State) : Outcome := .next (s.released fun s => s.burstDone)

end Sys2Proof.Machine
end

