-- ==== Sys2Proof/Machine/TimeRows.lean ====
section
/-!
DEFINITION. Machine/TimeRows.lean: the meanings of the rows of reset, start-up, the program sample event, the millisecond and the window.
-/
namespace Sys2Proof.Machine

/-- RESET_N_ASSERT (R189, R191). -/
def execResetNAssert (s : State) : Outcome := .next s.assertReset

/-- RESET_N_RELEASE with the size straps (R37, R189). -/
def execResetNRelease (sz1 sz0 : Bool) (s : State) : Outcome := .next (s.releaseReset sz1 sz0)

/-- START_UP_END (R189, R190). -/
def execStartUpEnd (s : State) : Outcome := .next (s.act fun s => s.startUpOver)

/-- PROGRAM_SAMPLE_EVENT (R21). -/
def execProgramSampleEvent (s : State) : Outcome := .next (s.released fun s => s.programSample)

/-- MILLISECOND_REWRITE (R14, R188, R195). -/
def execMillisecondRewrite (s : State) : Outcome := .next (s.act fun s => s.millisecondOver)

/-- WINDOW_END (R137, R140 to R142, R148). -/
def execWindowEnd (s : State) : Outcome := .next (s.act fun s => s.windowEnd)

end Sys2Proof.Machine
end

