-- ==== Sys2Proof/Machine/Dispatch.lean ====
section
/-!
DEFINITION. Machine/Dispatch.lean: the meaning of each command, one arm per constructor of Instr.
-/
namespace Sys2Proof.Machine

/-- The effect of a command on everything but the queue. -/
def exec (i : Instr) (s : State) : Host.Outcome State Fault Refusal :=
  match i with
  | .resetNAssert => Sys2Proof.Machine.execResetNAssert s
  | .resetNRelease sz1 sz0 => Sys2Proof.Machine.execResetNRelease sz1 sz0 s
  | .startUpEnd => Sys2Proof.Machine.execStartUpEnd s
  | .programSampleEvent => Sys2Proof.Machine.execProgramSampleEvent s
  | .rampEnd src => Sys2Proof.Machine.execRampEnd src s
  | .duckRampEnd => Sys2Proof.Machine.execDuckRampEnd s
  | .millisecondRewrite => Sys2Proof.Machine.execMillisecondRewrite s
  | .windowEnd => Sys2Proof.Machine.execWindowEnd s
  | .clipAlloc port pairs => Sys2Proof.Machine.execClipAlloc port pairs s
  | .pageSearchEnd => Sys2Proof.Machine.execPageSearchEnd s
  | .clipCursor port clip offset => Sys2Proof.Machine.execClipCursor port clip offset s
  | .clipSeal port clip length => Sys2Proof.Machine.execClipSeal port clip length s
  | .sealTaken port => Sys2Proof.Machine.execSealTaken port s
  | .clipFree port clip => Sys2Proof.Machine.execClipFree port clip s
  | .arbiterSet port alert deck fallback => Sys2Proof.Machine.execArbiterSet port alert deck fallback s
  | .deckLoad port deck address => Sys2Proof.Machine.execDeckLoad port deck address s
  | .deckPlay port deck => Sys2Proof.Machine.execDeckPlay port deck s
  | .deckStop port deck fade => Sys2Proof.Machine.execDeckStop port deck fade s
  | .deckSkip port deck fade => Sys2Proof.Machine.execDeckSkip port deck fade s
  | .deckResume port deck => Sys2Proof.Machine.execDeckResume port deck s
  | .deckNotify port deck mode => Sys2Proof.Machine.execDeckNotify port deck mode s
  | .fallbackSet port clip gain armed => Sys2Proof.Machine.execFallbackSet port clip gain armed s
  | .deadairSet port threshold limit recovery fade => Sys2Proof.Machine.execDeadairSet port threshold limit recovery fade s
  | .linkSet port enable rate timeout => Sys2Proof.Machine.execLinkSet port enable rate timeout s
  | .micOpen port => Sys2Proof.Machine.execMicOpen port s
  | .micClose port => Sys2Proof.Machine.execMicClose port s
  | .micGain port gain fade => Sys2Proof.Machine.execMicGain port gain fade s
  | .duckSet port depth time => Sys2Proof.Machine.execDuckSet port depth time s
  | .highwayMap port words => Sys2Proof.Machine.execHighwayMap port words s
  | .lineAnswer port line destination => Sys2Proof.Machine.execLineAnswer port line destination s
  | .lineQueue port line => Sys2Proof.Machine.execLineQueue port line s
  | .lineScreen port line => Sys2Proof.Machine.execLineScreen port line s
  | .lineTake port line => Sys2Proof.Machine.execLineTake port line s
  | .lineBack port line => Sys2Proof.Machine.execLineBack port line s
  | .lineDrop port line => Sys2Proof.Machine.execLineDrop port line s
  | .linePromote port line => Sys2Proof.Machine.execLinePromote port line s
  | .lineGain port line gain fade => Sys2Proof.Machine.execLineGain port line gain fade s
  | .alertPost port id priority cls clip tone expiry => Sys2Proof.Machine.execAlertPost port id priority cls clip tone expiry s
  | .alertCancel port id => Sys2Proof.Machine.execAlertCancel port id s
  | .alertPolicy port part values => Sys2Proof.Machine.execAlertPolicy port part values s
  | .alertRelease port id => Sys2Proof.Machine.execAlertRelease port id s
  | .alertDecline port id => Sys2Proof.Machine.execAlertDecline port id s
  | .countersClear port => Sys2Proof.Machine.execCountersClear port s
  | .lampSet port lamp duty => Sys2Proof.Machine.execLampSet port lamp duty s
  | .unknownCommand port value => Sys2Proof.Machine.execUnknownCommand port value s
  | .mailboxOverrun port value => Sys2Proof.Machine.execMailboxOverrun port value s
  | .xmPointerWrite port value => Sys2Proof.Machine.execXmPointerWrite port value s
  | .xmDataRead port => Sys2Proof.Machine.execXmDataRead port s
  | .xmDataWrite port value => Sys2Proof.Machine.execXmDataWrite port value s
  | .eventWordWrite port value => Sys2Proof.Machine.execEventWordWrite port value s
  | .eventMaskWrite port value => Sys2Proof.Machine.execEventMaskWrite port value s
  | .clipDataWrite port value => Sys2Proof.Machine.execClipDataWrite port value s
  | .clipDataRead port => Sys2Proof.Machine.execClipDataRead port s
  | .heldWriteReleased port => Sys2Proof.Machine.execHeldWriteReleased port s
  | .heldReadReleased port => Sys2Proof.Machine.execHeldReadReleased port s
  | .portClear port value => Sys2Proof.Machine.execPortClear port value s
  | .ramp src target length => Sys2Proof.Machine.execRamp src target length s
  | .cut src => Sys2Proof.Machine.execCut src s
  | .hold length => Sys2Proof.Machine.execHold length s
  | .restore length => Sys2Proof.Machine.execRestore length s
  | .stateNotice src n => Sys2Proof.Machine.execStateNotice src n s
  | .silentNotice src => Sys2Proof.Machine.execSilentNotice src s
  | .lockRequest clip => Sys2Proof.Machine.execLockRequest clip s
  | .unlock clip => Sys2Proof.Machine.execUnlock clip s
  | .arbiterGrant => Sys2Proof.Machine.execArbiterGrant s
  | .burstEnd => Sys2Proof.Machine.execBurstEnd s
  | .deckPrimed d => Sys2Proof.Machine.execDeckPrimed d s
  | .lookahead d => Sys2Proof.Machine.execLookahead d s
  | .cueFadeOutPoint d => Sys2Proof.Machine.execCueFadeOutPoint d s
  | .cueSeguePoint d => Sys2Proof.Machine.execCueSeguePoint d s
  | .segueSignal receiver => Sys2Proof.Machine.execSegueSignal receiver s
  | .cueEnd d => Sys2Proof.Machine.execCueEnd d s
  | .slotWordArrival slot word => Sys2Proof.Machine.execSlotWordArrival slot word s
  | .transmitFrame => Sys2Proof.Machine.execTransmitFrame s
  | .ringQualifyExpiry k => Sys2Proof.Machine.execRingQualifyExpiry k s
  | .ringGapExpiry k => Sys2Proof.Machine.execRingGapExpiry k s
  | .answerGraceExpiry k => Sys2Proof.Machine.execAnswerGraceExpiry k s
  | .loopLossExpiry k => Sys2Proof.Machine.execLoopLossExpiry k s
  | .releaseGuardExpiry k => Sys2Proof.Machine.execReleaseGuardExpiry k s
  | .forwardTimerExpiry id => Sys2Proof.Machine.execForwardTimerExpiry id s
  | .expiryTimerExpiry id => Sys2Proof.Machine.execExpiryTimerExpiry id s
  | .preemptEnd => Sys2Proof.Machine.execPreemptEnd s
  | .toneGeneratorOverflow g => Sys2Proof.Machine.execToneGeneratorOverflow g s
  | .toneEnd => Sys2Proof.Machine.execToneEnd s
  | .messageEnd => Sys2Proof.Machine.execMessageEnd s
  | .restoreEnd => Sys2Proof.Machine.execRestoreEnd s
  | .programFrameFormed => Sys2Proof.Machine.execProgramFrameFormed s
  | .alertNoticeHanded n => Sys2Proof.Machine.execAlertNoticeHanded n s
  | .studioValueChange c => Sys2Proof.Machine.execStudioValueChange c s
  | .standbyDeparture => Sys2Proof.Machine.execStandbyDeparture s
  | .transmitGapEnd => Sys2Proof.Machine.execTransmitGapEnd s
  | .pauseFrame bytes => Sys2Proof.Machine.execPauseFrame bytes s
  | .siteStatusFrame bytes => Sys2Proof.Machine.execSiteStatusFrame bytes s
  | .rxBadCheck bytes => Sys2Proof.Machine.execRxBadCheck bytes s
  | .rxBadFrame bytes => Sys2Proof.Machine.execRxBadFrame bytes s
  | .lossTimerExpiry => Sys2Proof.Machine.execLossTimerExpiry s
  | .pauseTimerExpiry => Sys2Proof.Machine.execPauseTimerExpiry s
  | .lampInputChange input => Sys2Proof.Machine.execLampInputChange input s
  | .flashTimerExpiry lamp => Sys2Proof.Machine.execFlashTimerExpiry lamp s
  | .counterIncrement c => Sys2Proof.Machine.execCounterIncrement c s
  | .startPatternFound bits => Sys2Proof.Machine.execStartPatternFound bits s

end Sys2Proof.Machine
end

