-- ==== Sys2Proof/Safety.lean ====
section
/-!
DEFINITION. Safety.lean: the terms the statements use: the part between steps, what the ports and exchange memory hold
beside the blocks, mailbox answers, and the invariants every step keeps.
-/
namespace Sys2Proof.Machine

/-- The state between steps: no message waits, no rewrite is asked for (log 10). -/
def State.quiet (s : State) : Prop := s.messages = [] ∧ s.forced = []

/-- No source's ramp has reached its length without having ended: nothing is to settle before an act (R5; log 27). -/
def State.rampsSettled (s : State) : Prop := ∀ src, (s.air.sources.get src).ramp.atEnd = false

/-- A deck that no read holds owes something: a lookahead, the end of priming, or a point that a take reached (R68, R71, R72). -/
def DeckRec.owes (r : DeckRec) : Bool := r.lookaheadDue || r.primed || r.fadeDue || r.segueDue || r.endDue

/-- No ended ramp is to settle and no deck owes anything (R5, R84; logs 27, 49). -/
def State.decksSettled (s : State) : Prop :=
  s.rampsSettled ∧ (s.decks.get .d1).owes = false ∧ (s.decks.get .d2).owes = false

/-- An act finds the state as it is: no ended ramp is to settle, no deck owes anything and no message has still to end (R5,
R84, R133; logs 27, 49). -/
def State.nothingOwed (s : State) : Prop := s.decksSettled ∧ s.alert.messageOwed = false

/-- Everything a state holds but exchange memory, the ports and the list of forced rewrites: the blocks. Two states with
equal blocks differ at most there. -/
def State.blocks (s : State) : State := { s with xm := [], ports := .all .reset, forced := [] }

/-- A port but for its read-ahead, which any write of exchange memory refreshes (R176). -/
def PortState.bare (q : PortState) : PortState := { q with readAhead := [] }

/-- The part runs and is between steps, and nothing of the latest program sample event is left to be acted on first. -/
def State.runs (s : State) : Prop := s.clock.power = .running ∧ s.quiet ∧ s.nothingOwed

/-- The part runs and is between steps, every ramp that has ended settled; a deck may owe what its row is about to act on. -/
def State.runsOwing (s : State) : Prop := s.clock.power = .running ∧ s.quiet ∧ s.rampsSettled

/-- The part runs and is between steps, nothing left to be acted on but, it may be, the end of a message (R133). -/
def State.runsEnding (s : State) : Prop := s.clock.power = .running ∧ s.quiet ∧ s.decksSettled

/-- The running part takes a command from a port: the port's WAIT is released and its mailbox holds no command (R178,
R181). -/
def State.accepts (s : State) (p : Port) : Prop :=
  s.runs ∧ (s.ports.get p).wait = none ∧ (s.ports.get p).running = none

/-- The same, where a deck may still owe what the latest takes brought (R84). -/
def State.acceptsOwing (s : State) (p : Port) : Prop :=
  s.runsOwing ∧ s.alert.messageOwed = false ∧ (s.ports.get p).wait = none ∧ (s.ports.get p).running = none

/-- The same, where a message whose last pair is taken may still have to end (R133). -/
def State.acceptsEnding (s : State) (p : Port) : Prop :=
  s.runsEnding ∧ (s.ports.get p).wait = none ∧ (s.ports.get p).running = none

/-- The mailbox of a port stands at DONE after a command's code, with the results given and every other result word 0
(R183). -/
def State.doneWith (s : State) (p : Port) (code : Word) (results : List Nat) : Prop :=
  s.pageWord p 0 = doneWord ∧ s.pageWord p 49 = 0 ∧ s.pageWord p 50 = 0 ∧ s.pageWord p 53 = code
    ∧ (∀ i < 24, s.pageWord p (25 + i) = word (results.getD i 0)) ∧ (s.ports.get p).running = none

/-- The mailbox of a port stands at REFUSED after a value, with the reason given and every result word 0 (R183). -/
def State.refusedWith (s : State) (p : Port) (value : Word) (r : Reason) : Prop :=
  s.pageWord p 0 = refusedWord ∧ s.pageWord p 49 = word r.code ∧ s.pageWord p 50 = value ∧ s.pageWord p 53 = value
    ∧ (∀ i < 24, s.pageWord p (25 + i) = 0) ∧ (s.ports.get p).running = none

/-- The mailbox of a port is BUSY with a command of the code and parameters given (R181, R184). -/
def State.busyWith (s : State) (p : Port) (code : Word) (params : List Word) : Prop :=
  s.pageWord p 0 = busyWord ∧ s.pageWord p 53 = code ∧
    ∃ q, (s.ports.get p).running = some q ∧ q.value = code ∧ ∀ i < params.length, q.params.getD i 0 = params.getD i 0

/-- The words of a port's page that the issue and the answer of a command write: 0 to 50 and 53 (chapter 9, The mailbox). -/
def ownPage (p : Port) (a : Nat) : Prop := (base p ≤ a ∧ a ≤ base p + 50) ∨ a = base p + 53

/-- The three event words (R186). -/
def eventWord (a : Nat) : Prop := ∃ p, a = base p + 51

/-- The words of a record of the status region, both counts included (chapter 11). -/
def inRecord (r : RecordId) (a : Nat) : Prop := r.place ≤ a ∧ a < r.place + r.size

/-- Exchange memory as it was but for the words named. -/
def State.sameXmBut (s t : State) (w : Nat → Prop) : Prop := ∀ a, ¬ w a → t.xm.read a = s.xm.read a

/-- An event is set in a port's event word (R186). -/
def State.hasEvent (s : State) (p : Port) (e : Event) : Prop := (s.pageWord p 51).getLsbD e.bit = true

/-- Every port as it was but for its read-ahead. -/
def State.samePorts (s t : State) : Prop := ∀ q, (t.ports.get q).bare = (s.ports.get q).bare

/-- What a step that leaves the ports alone changes: the blocks are those of `b`, and exchange memory is as it was but for
the words named. -/
def State.changedTo (s t b : State) (w : Nat → Prop) : Prop :=
  t.blocks = b.blocks ∧ s.samePorts t ∧ s.sameXmBut t w

/-- What a step changes that completes a command of a port with DONE: the blocks are those of `b`, the answer stands in the
port's page, and exchange memory is as it was but for the page's words and those named. -/
def State.doneOnly (s t : State) (p : Port) (code : Word) (rs : List Nat) (b : State) (w : Nat → Prop) : Prop :=
  t.blocks = b.blocks ∧ t.doneWith p code rs ∧ s.samePorts t ∧ s.sameXmBut t (fun a => ownPage p a ∨ w a)

/-- What a step changes that refuses a value of a port: nothing but the answer in the port's page. -/
def State.refusedOnly (s t : State) (p : Port) (v : Word) (e : Reason) : Prop :=
  t.blocks = s.blocks ∧ t.refusedWith p v e ∧ s.samePorts t ∧ s.sameXmBut t (ownPage p)

/-- The parts of a state a statement's frame names one by one; exchange memory and the ports are framed apart. -/
inductive Part
  | queue | clock | sdram | air | mixer | clips | arbiter | decks | highway | lines | alert | deadAir | link | lamps
  | counters | answer | free
  deriving DecidableEq, Repr

/-- A part is the same in both states. -/
def State.keeps (s t : State) : Part → Prop
  | .queue => t.pending = s.pending
  | .clock => t.clock = s.clock
  | .sdram => t.sdram = s.sdram
  | .air => t.air = s.air
  | .mixer => t.mixer = s.mixer
  | .clips => t.clips = s.clips
  | .arbiter => t.arbiter = s.arbiter
  | .decks => t.decks = s.decks
  | .highway => t.highway = s.highway
  | .lines => t.lines = s.lines
  | .alert => t.alert = s.alert
  | .deadAir => t.deadAir = s.deadAir
  | .link => t.link = s.link
  | .lamps => t.lamps = s.lamps
  | .counters => t.counters = s.counters
  | .answer => t.airAnswer = s.airAnswer
  | .free => t.unstated = s.unstated

/-- The parts a record of the status region shows (chapter 11). -/
def RecordId.parts : RecordId → List Part
  | .airMap => [.air]
  | .storeSummary => [.clips, .arbiter]
  | .clip _ => [.clips]
  | .deck _ => [.decks]
  | .line _ | .callerQueue => [.lines]
  | .lineSummary => [.lines, .highway]
  | .alertEngine | .alertQueue | .alertHistory => [.alert]
  | .meters | .deadAir => [.deadAir]
  | .link | .siteStatus => [.link]
  | .lamps => [.lamps]
  | .counters => [.counters]

/-- A word of a record that shows one of the parts named. -/
def shows (ps : List Part) (a : Nat) : Prop := ∃ r, inRecord r a ∧ ∃ x ∈ r.parts, x ∈ ps

/-- The frame of a step that may change the parts named: every other part is as it was, and exchange memory is as it was but
for the words named and the records that show those parts. -/
def State.frame (s t : State) (ps : List Part) (w : Nat → Prop) : Prop :=
  (∀ x, x ∉ ps → s.keeps t x) ∧ s.sameXmBut t (fun a => w a ∨ shows ps a)

/-- A step that completes a command of a port with DONE within a frame. -/
def State.doneWithin (s t : State) (p : Port) (code : Word) (rs : List Nat) (ps : List Part) (w : Nat → Prop) : Prop :=
  t.doneWith p code rs ∧ s.samePorts t ∧ s.frame t ps (fun a => ownPage p a ∨ w a)

/-- What a step changes that leaves a command of a port running: the blocks are those of `b`, the mailbox is BUSY, the other
ports are as they were, and exchange memory is as it was but for the port's page. -/
def State.busyOnly (s t : State) (p : Port) (code : Word) (params : List Word) (b : State) : Prop :=
  t.blocks = b.blocks ∧ t.busyWith p code params ∧ (∀ q, q ≠ p → (t.ports.get q).bare = (s.ports.get q).bare)
    ∧ ((t.ports.get p).bare = { (s.ports.get p).bare with running := (t.ports.get p).running })
    ∧ s.sameXmBut t (ownPage p)

/-- What a step that completes an earlier command of a port leaves of the ports: that port's mailbox holds no command, and
nothing else of them changes. -/
def State.answersPort (s t : State) (p : Port) : Prop :=
  ∀ q, (t.ports.get q).bare =
    if q = p then { (s.ports.get p).bare with running := none } else (s.ports.get q).bare

/-- A step that completes an earlier command of a port with DONE within a frame (R184). -/
def State.laterDone (s t : State) (p : Port) (code : Word) (rs : List Nat) (ps : List Part) (w : Nat → Prop) : Prop :=
  t.doneWith p code rs ∧ s.answersPort t p ∧ s.frame t ps (fun a => ownPage p a ∨ w a)

/-- A step that no port sees but through exchange memory, within a frame. -/
def State.within (s t : State) (ps : List Part) (w : Nat → Prop) : Prop := s.samePorts t ∧ s.frame t ps w

/-- The air map with the record of a source replaced: if MIC opens or closes by it and the duck target changes, K begins a
ramp to that target over the duck time (R15). -/
def AirMap.withSource (a : AirMap) (src : Source) (r : SourceRec) : AirMap :=
  { a with
    sources := a.sources.set src r
    duckRamp :=
      if src = .mic ∧ r.state.isOpen ≠ a.sources.mic.state.isOpen ∧ a.duckDepth ≠ 32768 then
        ⟨a.duck, if r.state.isOpen then a.duckDepth else 32768, max 1 (a.duckTime * 48), 0, true⟩
      else a.duckRamp }

/-- A source record whose ramp has reached its length, settled (R5); any other record as it is. -/
def SourceRec.settled (r : SourceRec) : SourceRec :=
  if r.ramp.running = true ∧ r.ramp.length ≤ r.ramp.position then
    { r with
      state :=
        match r.state with
        | .rising | .falling => if r.ramp.target = 0 then .off else .on
        | .off => .off
        | .on => .on
        | .held => .held
      ramp := { r.ramp with running := false } }
  else r

/-- The record a RAMP to T over S leaves on a source, T and S in their ranges: R7 while no alert holds it, R8 under hold. -/
def SourceRec.ramped (r : SourceRec) (hold : Bool) (src : Source) (T S : Nat) : SourceRec :=
  if src = .alert then r.rampTo T S
  else if r.state = .held then { r with saved := some T }
  else if hold = true ∧ r.state = .off then
    if T = 0 then r else ⟨.held, 0, { r.ramp with target := 0, running := false }, some T⟩
  else r.rampTo T S

/-- The air map after a RAMP of a source to a target up to 32768, over a length up to 480,000 (R7, R8). -/
def AirMap.ramped (a : AirMap) (src : Source) (target length : Nat) : AirMap :=
  a.withSource src ((a.sources.get src).ramped a.hold src (min target 32768) (min length 480000))

/-- The parts a change of a source's state reaches: the air map, the source's owner (R12), and for MIC and the lines the
lamp driver and the framer with what a frame not queued counts (R159, R163, R193). -/
def noticeParts : Source → List Part
  | .deck _ => [.air, .decks]
  | .mic => [.air, .link, .lamps, .counters]
  | .line _ => [.air, .lines, .link, .lamps, .counters]
  | .alert => [.air]
  | .fallback => [.air, .deadAir, .arbiter]

/-- What a RAMP of FALLBACK to 0, if `zero` says so, leaves of the monitor and the arbiter: from L = 0 it makes a FALLBACK that
is neither OFF nor HELD OFF at once, which rewinds the reader and ends its grant (R7, R12, R146). `m` is the monitor but for
that. -/
def State.fallbackRewound (s t : State) (zero : Bool) (m : DeadAir) : Prop :=
  let f := s.air.sources.fallback
  if zero = true ∧ f.level = 0 ∧ f.state ≠ .off ∧ f.state ≠ .held then
    t.deadAir = { m with buffer := [], fetchPosition := 0, playPosition := 0 } ∧
      t.arbiter = (s.endGrantOf .fallback false).arbiter
  else t.deadAir = m ∧ t.arbiter = s.arbiter

/-- A deck takes notices of its source without an act of its own: a read holds it, or no end is pending (R64, R76). -/
def DeckRec.calm (r : DeckRec) : Prop := r.reading.isSome = true ∨ r.pendingEnd = .none

/-- A record of the status region is rewritten once in a step: both counts one above the old first count, the content words
those of the state the step leaves (R188). -/
def State.rewrites (s t : State) (r : RecordId) : Prop :=
  t.xm.read r.place = s.xm.read r.place + 1 ∧ t.xm.read (r.place + r.size - 1) = s.xm.read r.place + 1 ∧
    ∀ i < (t.content r).length, t.xm.read (r.place + 1 + i) = word ((t.content r).getD i 0)

/-- The completion fields of the cue record at an address hold a status, a played count and a fault (R63). -/
def State.completion (s : State) (a : Nat) (st : CueStatus) (played : Nat) (f : Option CueFault) : Prop :=
  s.xm.read (a + 11) = word (cueStatusCode st) ∧ s.xm.read (a + 12) = word (played / 65536)
    ∧ s.xm.read (a + 13) = word played ∧ s.xm.read (a + 14) = word ((f.map cueFaultCode).getD 0)

/-- The words of the completion fields of the record at an address (R63). -/
def completionWord (a b : Nat) : Prop := a + 11 ≤ b ∧ b ≤ a + 14

/-- Two cue records' completion fields do not meet. -/
def apart (a b : Nat) : Prop := a + 4 ≤ b ∨ b + 4 ≤ a

/-- The pairs that a deck's running burst has moved where its grant is cut short (R57, log 22). -/
def State.cutPairs (s : State) (d : DeckId) : Nat :=
  match s.arbiter.grant with
  | some g => if g.holder = .deck d ∧ g.writes = false then s.pairsMoved g.pairs else 0
  | none => 0

/-- A cue record's address lies where a deck reads one (R64). -/
def inCueArea (a : Nat) : Prop := 64 ≤ a ∧ a ≤ 4080

/-- No request waits behind a page search, so that the manager takes the next one at once (R43). -/
def State.storeFree (s : State) : Prop := s.mustWait = false

/-- A run of pages fits at a page: it lies in the store and every page of it is free (R42). -/
def ClipStore.fits (c : ClipStore) (want f : Nat) : Prop :=
  f + want ≤ c.totalPages ∧ ∀ n, f ≤ n → n < f + want → pageOwner c.pages n = none

/-- A page search has ended with its port's answer (R42): the lowest run of free pages that fits and the lowest FREE entry
have become a LOADING clip of the port, or NO_SPACE is answered and nothing else changes. What runs and waits then is said
apart. -/
def State.searched (s t : State) (q : Search) (v : Running) : Prop :=
  let want := (q.pairs + 8191) / 8192
  (∀ (f : Nat) (i : Fin 128), s.clips.fits want f → (∀ g < f, ¬ s.clips.fits want g) → (s.clip i).state = .free →
    (∀ j < i, (s.clip j).state ≠ .free) →
    t.clips.totalPages = s.clips.totalPages ∧ t.clips.lockAnswer = s.clips.lockAnswer ∧
      t.clips.table = s.clips.table.set i ⟨.loading, some q.port, f, want, want * 8192, 0, 0⟩ ∧
      (∀ n, pageOwner t.clips.pages n = if f ≤ n ∧ n < f + want then some i else pageOwner s.clips.pages n) ∧
      s.laterDone t q.port v.value ([i.val, f, want] ++ words2 (want * 8192) ++ words2 q.pairs) [.clips]
        (fun _ => False)) ∧
  ((∀ f, ¬ s.clips.fits want f) ∨ (∀ i, (s.clip i).state ≠ .free) →
    t.blocks =
        ({ s with clips := { s.clips with search := t.clips.search, waiting := t.clips.waiting } } : State).blocks ∧
      t.refusedWith q.port v.value .noSpace ∧ s.answersPort t q.port ∧ s.sameXmBut t (ownPage q.port))

/-- A running write grant of a port has no pair left to write once a clip has left LOADING (R46, R57). -/
def State.deadGrant (s : State) (i : Fin 128) (p : Port) : Bool :=
  match s.arbiter.grant with
  | some g =>
    decide (g.holder = .port p) && g.writes &&
      ((s.ports.get p).writeBuffer.take g.pairs).all fun b =>
        decide (b.clip = i) || !b.live || decide ((s.clip b.clip).state ≠ .loading)
  | none => false

/-- The pairs such a grant was moving, which leave the write buffer discarded as it ends (R46, R57). -/
def State.deadPairs (s : State) (i : Fin 128) (p : Port) : Nat :=
  match s.arbiter.grant with
  | some g => if s.deadGrant i p = true then min g.pairs (s.ports.get p).writeBuffer.length else 0
  | none => 0

/-- A port as it stands once the pairs of its dead grant have left it; a seal that counted them waits for so many less. -/
def State.leftBy (s : State) (i : Fin 128) (p : Port) : PortState :=
  { (s.ports.get p).bare with
    writeBuffer := (s.ports.get p).writeBuffer.drop (s.deadPairs i p)
    running := (s.ports.get p).running.map fun z => { z with pairsLeft := z.pairsLeft - s.deadPairs i p } }

/-- The discarded pairs of a dead grant are counted and raised, each a write fault of its port (R45, R46). -/
def State.faultsDead (s t : State) (i : Fin 128) : Prop :=
  (∀ p, t.counters[(Counter.clipWriteFaults p).index] =
    if s.deadPairs i p = 0 then s.counters[(Counter.clipWriteFaults p).index]
    else min 4294967295 (s.counters[(Counter.clipWriteFaults p).index] + s.deadPairs i p)) ∧
  (∀ c : Counter, (∀ p, c ≠ .clipWriteFaults p) → t.counters[c.index] = s.counters[c.index]) ∧
  ∀ p, 0 < s.deadPairs i p → t.hasEvent p .accessFault

/-- The event words that the discarded pairs of a dead grant write. -/
def State.deadWord (s : State) (i : Fin 128) (a : Nat) : Prop := ∃ p, 0 < s.deadPairs i p ∧ a = base p + 51

/-- A running read grant of a port whose cursor names a clip, or names none. -/
def State.blindGrant (s : State) (i : Fin 128) : Prop :=
  ∃ (g : Grant) (p : Port), s.arbiter.grant = some g ∧ g.holder = .port p ∧ g.writes = false ∧
    ∀ c, (s.ports.get p).cursor = some c → c.clip = i

/-- A clip has become FREE in a step (R51): its entry and pages are free, cursors that named it are none with what they had
read or gathered, pairs bound to it in a write buffer are void, a grant that read or wrote for it alone has ended, and its
owner has the event. -/
def State.frees (s t : State) (i : Fin 128) : Prop :=
  t.clips.table = s.clips.table.set i .free ∧
    (∀ n, pageOwner t.clips.pages n = if pageOwner s.clips.pages n = some i then none else pageOwner s.clips.pages n) ∧
    (∀ p, (s.clip i).owner = some p → t.hasEvent p .clipFreed) ∧ s.faultsDead t i ∧
    (s.blindGrant i ∨ (∃ p, s.deadGrant i p = true) → t.arbiter = { s.arbiter with grant := none }) ∧
    (¬ s.blindGrant i → (∀ p, s.deadGrant i p = false) → t.arbiter = s.arbiter) ∧
    ∀ (p : Port) (q : PortState), q = { s.leftBy i p with
        writeBuffer := (s.leftBy i p).writeBuffer.map fun b => if b.clip = i then { b with live := false } else b } →
      (t.ports.get p).bare =
        if ∃ c ∈ q.cursor, c.clip = i then
          { q with cursor := none, partialPair := [], clipAhead := [], fetching := false, wordsRead := 0 }
        else q

/-- The words a clip's becoming FREE writes outside the status region: its owner's event word and those of dead grants. -/
def State.freedWord (s : State) (i : Fin 128) (a : Nat) : Prop :=
  (∃ p, (s.clip i).owner = some p ∧ a = base p + 51) ∨ s.deadWord i a

/-- A seal has been taken in a step (R49): the entry is READY with its length and no lock, the port waits for no seal and its
mailbox has its answer, and a write grant left with no pair for a LOADING clip has ended (R46, R57). -/
def State.seals (s t : State) (p : Port) (i : Fin 128) (length : Nat) : Prop :=
  t.clips =
      { s.clips with
        table := s.clips.table.set i { s.clip i with state := .ready, sealed := length, locks := 0 } } ∧
    s.faultsDead t i ∧
    ((∃ q, s.deadGrant i q = true) → t.arbiter = { s.arbiter with grant := none }) ∧
    ((∀ q, s.deadGrant i q = false) → t.arbiter = s.arbiter) ∧
    (∀ q, (t.ports.get q).bare =
      if q = p then { s.leftBy i p with running := none, sealing := none } else s.leftBy i q)

/-- A port's turn after the port granted last, 0 first: A, B, C in a ring (R56). -/
def portTurn (last : Option Port) (p : Port) : Nat :=
  (portNumber p + 3 - (match last with | none => 3 | some l => portNumber l + 1)) % 3

/-- The requester a free interface grants (R56): one that requests, no higher class requesting, first in turn within its
class. -/
def State.grants (s : State) (w : Requester) : Prop :=
  s.requests w = true ∧
    match w with
    | .alert => True
    | .deck d =>
      s.requests .alert = false ∧ (s.requests (.deck d.other) = true →
        s.arbiter.lastDeck = some d.other ∨ (s.arbiter.lastDeck = none ∧ d = .d1))
    | .fallback => s.requests .alert = false ∧ ∀ d, s.requests (.deck d) = false
    | .port p =>
      s.requests .alert = false ∧ (∀ d, s.requests (.deck d) = false) ∧ s.requests .fallback = false ∧
        ∀ q, s.requests (.port q) = true → portTurn s.arbiter.lastPort p ≤ portTurn s.arbiter.lastPort q

/-- The pair a port's cursor would take is accepted: it names a LOADING clip of the port below its capacity (R45). -/
def State.accepting (s : State) (p : Port) (c : Cursor) : Prop :=
  (s.ports.get p).cursor = some c ∧ (s.clip c.clip).state = .loading ∧ (s.clip c.clip).owner = some p ∧
    c.offset < (s.clip c.clip).capacity

/-- A cue whose segue point is reached as it starts, so that its start sends the segue signal (R67). -/
def Cue.signals (c : Cue) : Bool := c.segues && decide (0 < c.segue ∧ c.length ≤ c.segue)

/-- The cue that the segue signal of a start starts in turn: the other deck's, if that deck is CUED and no read holds it
(R67, R80). -/
def State.followed (s : State) (d : DeckId) (c : Cue) : Option Cue :=
  let o := s.decks.get d.other
  if c.signals = true ∧ o.reading = none ∧ o.state = .cued then o.current else none

/-- The segue signal of a start, or that of the cue it starts in turn, is missed (R80). -/
def State.signalMissed (s : State) (d : DeckId) (c : Cue) : Bool :=
  let o := s.decks.get d.other
  c.signals && o.reading.isNone &&
    match o.state with
    | .loading => false
    | .cued => o.current.any Cue.signals
    | .idle | .playing | .held | .suspended => true

/-- A cue may start and what its start leads to stands clear (R63, R67, R80): its record, and that of a cue started in turn,
lie in the cue area, the same one or apart, and no end is pending on the deck that is started in turn. -/
def State.followable (s : State) (d : DeckId) (c : Cue) : Prop :=
  inCueArea c.address ∧ ∀ m ∈ s.followed d c,
    inCueArea m.address ∧ (apart c.address m.address ∨ c.address = m.address) ∧
      (s.decks.get d.other).pendingEnd = .none

/-- A deck may start a cue: no read holds it and no end is pending (R64, R67, R76). -/
def State.startable (s : State) (d : DeckId) (c : Cue) : Prop :=
  s.followable d c ∧ (s.decks.get d).pendingEnd = .none ∧ (s.decks.get d).reading = none

/-- A deck held by a read has taken its command in port A's mailbox into its inbox, where it waits (R64, R84). -/
def State.commandWaits (s : State) (d : DeckId) : State :=
  let r := s.decks.get d
  { s with decks := s.decks.set d { r with inbox := r.inbox ++ [⟨r.played, .command⟩] } }

/-- The target and length of a cue's first RAMP (R67): to its gain over the fade-in, or to 0 over the fade-out if that covers
the cue. -/
def Cue.firstTarget (c : Cue) : Nat := if 0 < c.fadeOut ∧ c.length ≤ c.fadeOut then 0 else min c.gain 32768
def Cue.firstLength (c : Cue) : Nat :=
  min (if 0 < c.fadeOut ∧ c.length ≤ c.fadeOut then c.fadeOut else c.fadeIn) 480000

/-- A deck's record as it starts a cue (R67): PLAYING, or HELD where the RAMP is deferred, its source being HELD, or OFF
under hold, where it falls silent at once (R8, R82). -/
def DeckRec.startedBy (r : DeckRec) (c : Cue) (a : SourceRec) (hold : Bool) : DeckRec :=
  let deferred := hold = true ∧ a.state = .off ∧ c.firstTarget ≠ 0
  { r with
    state := if a.state = .held ∨ deferred then .held else .playing
    heldSilent := if deferred then true else r.heldSilent
    current := some
      { c with played := 0, fadeDone := decide (0 < c.fadeOut ∧ c.length ≤ c.fadeOut), segueDone := c.signals } }

/-- The other deck's record once the segue signal of a start, if it sends one, has reached it (R64, R80). -/
def State.signalled (s : State) (d : DeckId) (c : Cue) : DeckRec :=
  let o := s.decks.get d.other
  match s.followed d c with
  | some m => o.startedBy m (s.air.sources.get (.deck d.other)) s.air.hold
  | none =>
    if c.signals = false then o
    else if o.reading.isSome = true then { o with inbox := o.inbox ++ [⟨o.played, .segue⟩] }
    else if o.state = .loading then { o with playPending := true } else o

/-- A deck has started a cue in a step (R67): PLAYING is written with a played count of 0, the source has the cue's first
RAMP, and the segue signal of a cue whose segue point is 0 has reached the other deck, which has started its own cue by it,
or taken it as its state says (R80). `r` is the deck's record but for the start. -/
def State.started (s t : State) (d : DeckId) (c : Cue) (r : DeckRec) : Prop :=
  let a := s.air.ramped (.deck d) c.firstTarget c.firstLength
  t.completion c.address .playing 0 none ∧ (∀ m ∈ s.followed d c, t.completion m.address .playing 0 none) ∧
    t.air = (match s.followed d c with
      | some m => a.ramped (.deck d.other) m.firstTarget m.firstLength
      | none => a) ∧
    t.decks.get d = r.startedBy c (s.air.sources.get (.deck d)) s.air.hold ∧
    t.decks.get d.other = s.signalled d c ∧
    (s.signalMissed d c = true → ∀ p, t.hasEvent p .segueMissed) ∧
    t.counters = if s.signalMissed d c = true then (s.count .segueMissed).counters else s.counters

/-- The words the start of a cue writes outside the status region. -/
def State.startWord (s : State) (d : DeckId) (c : Cue) (b : Nat) : Prop :=
  completionWord c.address b ∨ (∃ m ∈ s.followed d c, completionWord m.address b) ∨
    (s.signalMissed d c = true ∧ eventWord b)

/-- A deck's record at rest, IDLE or SUSPENDED with a resume address (R74). -/
def DeckRec.atRest (r : DeckRec) (resume : Option Nat) : DeckRec :=
  { r with
    state := if resume.isSome then .suspended else .idle
    current := none, next := none, buffer := [], playPending := false, pendingEnd := .none, heldSilent := false
    resumeAddress := resume }

/-- The clip table with one lock of a clip released that does not free it (R53). -/
def State.lockReleased (s : State) (i : Fin 128) : ClipStore :=
  { s.clips with table := s.clips.table.set i { s.clip i with locks := (s.clip i).locks - 1 } }

/-- Releasing a lock of a clip is one lock less, no more: no page search runs, and the clip is locked and not about to be
freed (R43, R53). -/
def State.keepsClip (s : State) (i : Fin 128) : Prop :=
  s.storeFree ∧ (s.clip i).locks ≠ 0 ∧ ((s.clip i).locks ≠ 1 ∨ (s.clip i).state ≠ .retiring)

/-- A clip table with one lock of each clip of a list released. -/
def ClipStore.released (c : ClipStore) : List (Fin 128) → ClipStore
  | [] => c
  | i :: l => ClipStore.released { c with table := c.table.set i { c.table[i] with locks := c.table[i].locks - 1 } } l

/-- Releasing one lock of each clip of a list frees none of them: no page search runs, and each is locked as often as the
list names it, once more if it is RETIRING (R43, R53). -/
def State.keepsClips (s : State) (l : List (Fin 128)) : Prop :=
  s.storeFree ∧ ∀ i ∈ l, l.count i ≤ (s.clip i).locks ∧ (l.count i < (s.clip i).locks ∨ (s.clip i).state ≠ .retiring)

/-- The clips of the cues a deck holds, current first. -/
def DeckRec.clips (r : DeckRec) : List (Fin 128) := (r.current.toList ++ r.next.toList).map Cue.clip

/-- The next cue a deck would give up stands in the cue area, apart from the record at an address (R63, R74). -/
def DeckRec.nextApart (r : DeckRec) (a : Nat) : Prop := ∀ n ∈ r.next, inCueArea n.address ∧ apart a n.address

/-- The next cue a deck has given up is written PENDING (R63, R74). -/
def State.abandons (t : State) (r : DeckRec) : Prop := ∀ n ∈ r.next, t.completion n.address .pending 0 none

/-- The words of the completion fields of the next cue's record. -/
def DeckRec.nextWord (r : DeckRec) (b : Nat) : Prop := ∃ n ∈ r.next, completionWord n.address b

/-- The clip table with one lock of a clip released and then one taken on another, or on the same. -/
def State.lockMoved (s : State) (i j : Fin 128) : ClipStore :=
  { s.lockReleased i with
    table := (s.lockReleased i).table.set j
      { (s.lockReleased i).table[j] with locks := (s.lockReleased i).table[j].locks + 1 } }

/-- The first eleven words of the record at an address are none of the completion fields of another (R63). -/
def readApart (a link : Nat) : Prop := ∀ k ≤ 10, ¬ completionWord a (link + k)

/-- A step completes a deck's stop or skip (R76, R78): the source has come OFF, has fallen silent under hold, or is OFF or
silent as the command comes, or the cue's last pair is taken. `r` is the deck's record as the end meets it. -/
def State.completes (s : State) (d : DeckId) (e : PendingEnd) (n : Instr) (r : DeckRec) : Prop :=
  let q := s.decks.get d
  let a := s.air.sources.get (.deck d)
  q.reading = none ∧
    ((∃ L, n = .stateNotice (.deck d) ⟨.off, L⟩ ∧ s.runs ∧ q.pendingEnd = e ∧ a.state = .off ∧
        ((q.state = .playing ∧ r = q) ∨ (q.state = .held ∧ r = { q with state := .playing, heldSilent := false }))) ∨
      (n = .silentNotice (.deck d) ∧ s.runs ∧ q.pendingEnd = e ∧ (q.state = .playing ∨ q.state = .held) ∧
        r = { q with heldSilent := true }) ∨
      (n = .cueEnd d ∧ s.runsOwing ∧ q.pendingEnd = e ∧ (q.state = .playing ∨ q.state = .held) ∧ r = q ∧
        ∀ c, q.current = some c → c.length ≤ c.played ∧ (q.lookahead ≠ .notMade ∨ c.holds = true)) ∨
      ∃ deck fade : Word, s.accepts .a ∧ deck.toNat = d.number ∧ (q.state = .playing ∨ q.state = .held) ∧
        ((a.state = .off ∧ a.level = 0) ∨ (a.state = .held ∧ q.heldSilent = true)) ∧
        r = { q with pendingFade := min fade.toNat 10000 } ∧
        ((e = .stop ∧ n = .deckStop .a deck fade) ∨ (e = .skip ∧ n = .deckSkip .a deck fade ∧ q.pendingEnd ≠ .stop)))

/-- What a step answers that completes a deck's stop or skip: a command, with the state the deck is left in (R76, R84). -/
def State.endAnswer (t : State) (d : DeckId) (n : Instr) : Prop :=
  ∀ deck fade : Word,
    (n = .deckStop .a deck fade →
      t.doneWith .a 0x0012 [d.number, deckCode (t.decks.get d).state, min fade.toNat 10000]) ∧
    (n = .deckSkip .a deck fade →
      t.doneWith .a 0x0013 [d.number, deckCode (t.decks.get d).state, min fade.toNat 10000])

/-- The words of port A's page that such a step's answer writes. -/
def endPage (n : Instr) (b : Nat) : Prop :=
  (∃ deck fade : Word, n = .deckStop .a deck fade ∨ n = .deckSkip .a deck fade) ∧ ownPage .a b

/-- The record at an address is good to a deck (R64): in the cue area, its clip READY, its start inside the sealed length,
and no page search in the way. `i` is its clip. -/
def State.goodRecord (s : State) (a : Nat) (i : Fin 128) : Prop :=
  inCueArea a ∧ s.storeFree ∧ (s.xm.read (a + 2)).toNat = i.val ∧ (s.clip i).state = .ready ∧
    (s.xm.read (a + 3)).toNat * 65536 + (s.xm.read (a + 4)).toNat < (s.clip i).sealed

/-- The fault of the record at an address, where it has one (R63, R64). -/
def State.faultyRecord (s : State) (a : Nat) (f : CueFault) : Prop :=
  (¬ inCueArea a ∧ f = .badAddress) ∨
  (inCueArea a ∧ 128 ≤ (s.xm.read (a + 2)).toNat ∧ f = .badClip) ∨
  ∃ i : Fin 128, inCueArea a ∧ s.storeFree ∧ (s.xm.read (a + 2)).toNat = i.val ∧
    (((s.clip i).state ≠ .ready ∧ f = .notReady) ∨
     ((s.clip i).state = .ready ∧
       (s.clip i).sealed ≤ (s.xm.read (a + 3)).toNat * 65536 + (s.xm.read (a + 4)).toNat ∧ f = .outOfRange))

/-- A deck has marked a faulty record (R64): the fault in the record, if there is one, CUE_FAULT raised and counted. -/
def State.marksFault (s t : State) (a : Nat) (f : CueFault) : Prop :=
  (f ≠ .badAddress → t.completion a .fault 0 (some f)) ∧ (∀ p, t.hasEvent p .cueFault) ∧
    t.counters = (s.count .cueFault).counters

/-- The words of the clip record that an OUT_OF_RANGE record's lock, taken and given back, rewrites (R41, R64). -/
def State.lockedWord (s : State) (a : Nat) (f : CueFault) (b : Nat) : Prop :=
  ∃ i : Fin 128, f = .outOfRange ∧ (s.xm.read (a + 2)).toNat = i.val ∧ inRecord (.clip i) b

/-- The clip table with one lock more on a clip (R52). -/
def State.lockTaken (s : State) (i : Fin 128) : ClipStore :=
  { s.clips with table := s.clips.table.set i { s.clip i with locks := (s.clip i).locks + 1 } }

/-- The line controller with a call of a line left the queue and the screener, its record replaced, and its seat given up if
its source is not OFF (R99, R102). -/
def State.callLeft (s : State) (k : Line) (r : LineRec) : LineControl where
  recs := s.lines.recs.set k r
  queue := s.lines.queue.filter (· ≠ k)
  screener := if s.lines.screener = some k then none else s.lines.screener
  seats := if (s.air.sources.get (.line k)).state = .off then s.lines.seats else s.lines.seats.set k false

/-- A line's record as it enters RELEASING (R94, R99, R105). -/
def LineRec.releasing (r : LineRec) (seize : Bool) : LineRec :=
  { r with state := .releasing, seize := seize, answerGrace := none, loopLoss := none, releaseGuard := some 24000 }

/-- The air map with a source CUT unless it is OFF (R9). -/
def AirMap.cutOff (a : AirMap) (src : Source) : AirMap :=
  if (a.sources.get src).state = .off then a
  else a.withSource src ⟨.off, 0, { (a.sources.get src).ramp with target := 0, running := false }, none⟩

/-- A record has left the alert queue with an outcome (R118, R134): its history entry, ALERT_OUTCOME, its clip's lock given
back, and the counter the outcome names. -/
def State.alertLeft (s t : State) (r : AlertRec) (o : AlertOutcome) : Prop :=
  t.alert.history =
      (⟨r.id, r.cls, o, r.forwarded, o == .aired && s.alert.truncated⟩ :: s.alert.history).take 8 ∧
    (∀ p, t.hasEvent p .alertOutcome) ∧ t.clips = s.lockReleased r.clip ∧
    ∀ c : Counter,
      (o = .aired ∧ c = .alertsAired) ∨ (o = .expired ∧ c = .alertsExpired) ∨ (o = .displaced ∧ c = .alertsDisplaced) →
      t.counters[c.index] = min 4294967295 (s.counters[c.index] + 1)

/-- The records of the queue but that of an id. -/
def AlertEngine.others (e : AlertEngine) (id : Nat) : List AlertRec := e.queue.filter fun x => decide (x.id ≠ id)

/-- A record as it becomes AIRING (R125). -/
def AlertRec.aired (r : AlertRec) : AlertRec := { r with state := .airing, forwardTimer := none, expiryTimer := none }

/-- An airing of a record has its length and reader (R129, R132): nothing taken or fetched yet. -/
def State.airsRecord (s t : State) (r : AlertRec) : Prop :=
  t.alert.messageLength = min r.sealed (s.alert.maxMessage * 48000) ∧
    t.alert.truncated = decide (s.alert.maxMessage * 48000 < r.sealed) ∧ t.alert.pairsTaken = 0 ∧
    t.alert.reader = ⟨some r.first, 0, []⟩ ∧ ∀ p, t.hasEvent p .alertOnAir

/-- The message's last pair has been taken (R129). -/
def AlertEngine.messageTaken (e : AlertEngine) : Prop := e.phase = .message ∧ e.messageLength ≤ e.pairsTaken

/-- The STARTED or ENDED notice of a record as a frame (R155, R158). -/
def AlertRec.notice (r : AlertRec) (started : Bool) (o : AlertOutcome) (truncated : Bool) (number : Word) : Frame :=
  ⟨.alertNotice, 7, number,
    [byte (r.id / 256), byte r.id, byte (classCode r.cls), byte r.priority, byte r.tone, byte (if started then 1 else 2),
     byte (outcomeCode o), byte (flag r.forwarded + 2 * flag truncated)]⟩

/-- The STUDIO_STATUS frames that phases taken one after another make (R155, R159). -/
def StudioValues.phaseFrames : StudioValues → Word → List Phase → List Frame
  | _, _, [] => []
  | v, number, p :: ps =>
    if v.phase = p then v.phaseFrames number ps
    else
      ⟨.studioStatus, 4, number, { v with phase := p }.payload⟩ :: { v with phase := p }.phaseFrames (number + 1) ps

/-- Frames have been formed in a step and offered to the priority queue in order, STUDIO_STATUS frames behind them if the
step made more (R158, R160, R163): queued behind a frame being sent, the first of them started by a transmitter with nothing
else to send, each dropped and counted by a full queue, and none formed while the link is disabled. -/
def State.announces (s t : State) (fs : List Frame) : Prop :=
  (s.link.enabled = false → t.link.priorityQueue = s.link.priorityQueue ∧ t.link.sequence = s.link.sequence) ∧
  (s.link.enabled = true → s.link.sending.isSome = true → s.link.priorityQueue.length + fs.length ≤ 4 →
    t.link.sending = s.link.sending ∧
      ∃ more, t.link.priorityQueue = s.link.priorityQueue ++ fs ++ more ∧ ∀ f ∈ more, f.kind = .studioStatus) ∧
  (s.link.enabled = true → s.link.sending.isSome = true → 4 ≤ s.link.priorityQueue.length →
    t.link.priorityQueue = s.link.priorityQueue ∧
      min 4294967295 (s.counters[Counter.noticeDropped.index] + fs.length) ≤ t.counters[Counter.noticeDropped.index]) ∧
  (s.link.enabled = true → s.link.sending = none → s.link.pause = none → s.link.priorityQueue = [] →
    s.link.programQueue = [] →
    t.link.sending = (fs.head?.map fun f => ⟨f, s.link.fast, f.wire, (8 + f.payload.length + 2 + 12) * 8⟩) ∧
      ∃ more, t.link.priorityQueue = fs.tail ++ more ∧ ∀ f ∈ more, f.kind = .studioStatus)

/-- An airing ends by a command with an outcome (R123, R129, R130): its last pair is taken and MESSAGE_END, or an ALERT_CANCEL
of no other record in the queue, comes next; or an ALERT_CANCEL of the record comes before that pair is taken. -/
def State.endsAiring (s : State) (r : AlertRec) (i : Instr) (o : AlertOutcome) (id : Word) : Prop :=
  (i = .messageEnd ∧ o = .aired ∧ s.runsEnding ∧ s.alert.messageTaken) ∨
  (i = .alertCancel .c id ∧ id ≠ 0 ∧ s.acceptsEnding .c ∧
    ((o = .aired ∧ s.alert.messageTaken ∧ ∀ x ∈ s.alert.others r.id, x.id ≠ id.toNat) ∨
     (o = .cancelled ∧ ¬ s.alert.messageTaken ∧ r.id = id.toNat)))

/-- What such a command answers: an ALERT_CANCEL finds no record that has left as AIRED (R123). -/
def State.endingAnswer (t : State) (i : Instr) (o : AlertOutcome) (id : Word) : Prop :=
  (o = .cancelled → t.doneWith .c 0x0051 [id.toNat, 3, 1]) ∧
  (o = .aired → i ≠ .messageEnd → t.refusedWith .c 0x0051 .notFound)

/-- The words such a command writes outside the status region. -/
def endingWord (i : Instr) (a : Nat) : Prop := eventWord a ∨ (i ≠ .messageEnd ∧ ownPage .c a)

/-- The engine has entered PREEMPT with a record (R125, R126): the record airs at the head of the queue, the rest behind it,
every other source that is not OFF is held, ALERT is on its way to the alert gain, the STARTED notice is handed over behind
the STUDIO_STATUS frames of the phases taken (R158, log 20), and the framer has taken the departure from STANDBY (R162). -/
def State.preempts (s t : State) (r : AlertRec) (rest : List AlertRec) (phases : List Phase) : Prop :=
  let status := s.link.studio.phaseFrames s.link.sequence phases
  s.announces t
      (status ++ [r.notice true .none (decide (s.alert.maxMessage * 48000 < r.sealed))
        (s.link.sequence + BitVec.ofNat 16 status.length)]) ∧
  t.alert.phase = .preempt ∧ t.alert.phaseEvents = 0 ∧ t.alert.phaseLength = max 1 (s.alert.preemptFade * 48) ∧
    t.alert.queue = r.aired :: rest ∧ s.airsRecord t r ∧ t.air.hold = true ∧
    t.air.sources.alert =
      s.air.sources.alert.rampTo (min s.alert.alertGain 32768) (min (s.alert.preemptFade * 48) 480000) ∧
    (∀ src, src ≠ .alert → (s.air.sources.get src).state ≠ .off → (t.air.sources.get src).state = .held) ∧
    t.link.studio.phase = .preempt ∧ t.link.departed = true

/-- The parts an airing's start or end reaches. -/
def airingParts : List Part := [.air, .alert, .clips, .decks, .lines, .deadAir, .arbiter, .link, .lamps, .counters]

/-- A source's owner takes the air map's notices without a request of its own: no deck with an end pending is free to act,
and the fallback, if it is on the air, is engaged (R76, R78, R143). -/
def State.ownersRest (s : State) : Prop :=
  (∀ d, (s.decks.get d).calm)
    ∧ (s.air.sources.fallback.state = .off ∨ s.deadAir.state = .engaged)

/-- The state in which everything that was due has acted and been published: the one a program sample event begins in. -/
def State.caughtUp (s : State) : State := s.takeDue.settle

/-! ## Invariants -/

/-- Both memories stand in their canonical form. -/
def State.canonical (s : State) : Prop := s.xm.wf = true ∧ s.sdram.wf = true

/-- Every word a port's read-ahead holds is the word of exchange memory at its address (R176). -/
def State.aheadCurrent (s : State) : Prop :=
  ∀ p, ∀ e ∈ (s.ports.get p).readAhead, e.2 = s.xm.read e.1

/-- A ramp in its ranges (R2, R4): gains from 0 to 32768, and while it is in flight a length of at least 1, a position up to
the length, and the level the ramp law gives at that position. -/
def Ramp.inRange (r : Ramp) (level : Nat) : Prop :=
  r.start ≤ 32768 ∧ r.target ≤ 32768 ∧
    (r.running = true → 1 ≤ r.length ∧ r.position ≤ r.length ∧ level = r.levelAt r.position)

/-- A source record in the ranges of R2: gains from 0 to 32768, its ramp in range, and OFF with L = 0 and no ramp. -/
def SourceRec.inRange (r : SourceRec) : Prop :=
  r.level ≤ 32768 ∧ r.ramp.inRange r.level ∧ (∀ x ∈ r.saved, x ≤ 32768)
    ∧ (r.state = .off → r.level = 0 ∧ r.ramp.running = false)

/-- The air map in range: every source, the duck factor with its ramp, the duck depth and the microphone gain (R2, R15,
R16, R19). -/
def AirMap.inRange (a : AirMap) : Prop :=
  (∀ src, (a.sources.get src).inRange) ∧ a.duck ≤ 32768 ∧ a.duckRamp.inRange a.duck ∧ a.duckDepth ≤ 32768
    ∧ a.micGain ≤ 32768

/-- Every cue copy of a deck, and the record it is reading, was read from the cue area (R64). -/
def DeckRec.placed (r : DeckRec) : Prop :=
  (∀ c ∈ r.current, inCueArea c.address) ∧ (∀ c ∈ r.next, inCueArea c.address) ∧ (∀ q ∈ r.reading, inCueArea q.address)

/-- Both decks hold only cues of the cue area. -/
def State.cuesPlaced (s : State) : Prop := ∀ d, (s.decks.get d).placed

/-- Runs of pages in rising order that do not meet, from a page on. -/
def runsFrom : Nat → List PageRun → Prop
  | _, [] => True
  | lo, r :: t => lo ≤ r.first ∧ 1 ≤ r.count ∧ runsFrom (r.first + r.count) t

/-- The page map gives no page to two clips (R40), the store has pages, and a page search looks for at least one pair
(R42). -/
def ClipStore.inOrder (c : ClipStore) : Prop :=
  runsFrom 0 c.pages ∧ 1 ≤ c.totalPages ∧ ∀ q ∈ c.search, 1 ≤ q.pairs

/-- The caller queue holds each WAITING line once and no other, and the screener binding names the line in SCREEN (R100,
R101). -/
def LineControl.inOrder (c : LineControl) : Prop :=
  c.queue.Nodup ∧ (∀ k, k ∈ c.queue ↔ (c.recs.get k).state = .waiting)
    ∧ (∀ k, c.screener = some k ↔ (c.recs.get k).state = .screen)

/-- No counter stands above its largest value (R197). -/
def State.countersInRange (s : State) : Prop := ∀ c : Counter, s.counters[c.index] ≤ Config.counterMax

end Sys2Proof.Machine
end

