-- ==== Sys2Proof/WellFormed.lean ====
section
/-!
DEFINITION. WellFormed.lean: what each row of the table names beyond its operands' types, and the mailbox command a row
issues, with its parameter words.
-/
namespace Sys2Proof

open Sys2Proof.Machine

/-- The payload length the header of a received frame names (R153). -/
def headerLength (bytes : List Byte) : Nat := (bytes.getD 4 0).toNat * 256 + (bytes.getD 5 0).toNat

/-- The bytes are one received frame: the header alone if its length ends the frame there, else header, payload and check
(R168). -/
def oneFrame (bytes : List Byte) : Bool :=
  if 288 < headerLength bytes then bytes.length == 6 else bytes.length == 8 + headerLength bytes

/-- The bytes are one valid PAUSE frame (R166, R168). -/
def isPause (bytes : List Byte) : Bool :=
  oneFrame bytes && match judge bytes with
    | .pause _ _ _ => true
    | _ => false
/-- The bytes are one valid SITE_STATUS frame (R168, R169). -/
def isSiteStatus (bytes : List Byte) : Bool :=
  oneFrame bytes && match judge bytes with
    | .siteStatus _ _ _ _ => true
    | _ => false

/-- A notice the alert engine can hand over: an id, a priority and a tone in range, no outcome at STARTED, AIRED or
CANCELLED at ENDED (R113, R155). -/
def AlertNotice.wellFormed (n : AlertNotice) : Bool :=
  n.id != 0 && decide (n.priority ≤ 7) && decide (n.tone ≤ 30)
    && (if n.started then n.outcome == .none else n.outcome == .aired || n.outcome == .cancelled)

/-- Whether a command names what its row means. Operands the part clamps or refuses are well-formed: the rules say what
becomes of them. -/
def Instr.wellFormed : Instr → Bool
  | .highwayMap _ words => words.length == 23
  | .alertPolicy _ _ values => decide (values.length ≤ 23)
  | .unknownCommand _ v => (commandOf v).isNone
  | .portClear _ v => v.getLsbD 15
  | .stateNotice src n => !(src == .alert && n.state == .held) && decide (n.level ≤ 32768)
  | .forwardTimerExpiry id | .expiryTimerExpiry id => id != 0
  | .alertNoticeHanded n => n.wellFormed
  | .pauseFrame bytes => isPause bytes
  | .siteStatusFrame bytes => isSiteStatus bytes
  | .rxBadCheck bytes => oneFrame bytes && judge bytes == .badCheck
  | .rxBadFrame bytes => oneFrame bytes && judge bytes == .badFrame
  | .flashTimerExpiry l => l == .alert || l == .link
  | .resetNAssert | .resetNRelease _ _ | .startUpEnd | .programSampleEvent | .rampEnd _ | .duckRampEnd
  | .millisecondRewrite | .windowEnd | .clipAlloc _ _ | .pageSearchEnd | .clipCursor _ _ _ | .clipSeal _ _ _
  | .sealTaken _ | .clipFree _ _ | .arbiterSet _ _ _ _ | .deckLoad _ _ _ | .deckPlay _ _ | .deckStop _ _ _
  | .deckSkip _ _ _ | .deckResume _ _ | .deckNotify _ _ _ | .fallbackSet _ _ _ _ | .deadairSet _ _ _ _ _
  | .linkSet _ _ _ _ | .micOpen _ | .micClose _ | .micGain _ _ _ | .duckSet _ _ _ | .lineAnswer _ _ _
  | .lineQueue _ _ | .lineScreen _ _ | .lineTake _ _ | .lineBack _ _ | .lineDrop _ _ | .linePromote _ _
  | .lineGain _ _ _ _ | .alertPost _ _ _ _ _ _ _ | .alertCancel _ _ | .alertRelease _ _ | .alertDecline _ _
  | .countersClear _ | .lampSet _ _ _ | .mailboxOverrun _ _ | .xmPointerWrite _ _ | .xmDataRead _ | .xmDataWrite _ _
  | .eventWordWrite _ _ | .eventMaskWrite _ _ | .clipDataWrite _ _ | .clipDataRead _ | .heldWriteReleased _
  | .heldReadReleased _ | .ramp _ _ _ | .cut _ | .hold _ | .restore _ | .silentNotice _ | .lockRequest _ | .unlock _
  | .arbiterGrant | .burstEnd | .deckPrimed _ | .lookahead _ | .cueFadeOutPoint _ | .cueSeguePoint _ | .segueSignal _
  | .cueEnd _ | .slotWordArrival _ _ | .transmitFrame | .ringQualifyExpiry _ | .ringGapExpiry _ | .answerGraceExpiry _
  | .loopLossExpiry _ | .releaseGuardExpiry _ | .preemptEnd | .toneGeneratorOverflow _ | .toneEnd | .messageEnd
  | .restoreEnd | .programFrameFormed | .studioValueChange _ | .standbyDeparture | .transmitGapEnd | .lossTimerExpiry
  | .pauseTimerExpiry | .lampInputChange _ | .counterIncrement _ | .startPatternFound _ => true

/-- The mailbox command a row issues: its port, its command and its parameter words in the order of R200. -/
def Instr.issued : Instr → Option (Port × Command × List Word)
  | .clipAlloc p pairs => some (p, .clipAlloc, longWords pairs)
  | .clipCursor p clip offset => some (p, .clipCursor, clip :: longWords offset)
  | .clipSeal p clip length => some (p, .clipSeal, clip :: longWords length)
  | .clipFree p clip => some (p, .clipFree, [clip])
  | .arbiterSet p alert deck fallback => some (p, .arbiterSet, [alert, deck, fallback])
  | .deckLoad p deck address => some (p, .deckLoad, [deck, address])
  | .deckPlay p deck => some (p, .deckPlay, [deck])
  | .deckStop p deck fade => some (p, .deckStop, [deck, fade])
  | .deckSkip p deck fade => some (p, .deckSkip, [deck, fade])
  | .deckResume p deck => some (p, .deckResume, [deck])
  | .deckNotify p deck mode => some (p, .deckNotify, [deck, mode])
  | .fallbackSet p clip gain armed => some (p, .fallbackSet, [clip, gain, armed])
  | .deadairSet p threshold limit recovery fade =>
    some (p, .deadairSet, longWords threshold ++ [limit, recovery, fade])
  | .linkSet p enable rate timeout => some (p, .linkSet, [enable, rate, timeout])
  | .micOpen p => some (p, .micOpen, [])
  | .micClose p => some (p, .micClose, [])
  | .micGain p gain fade => some (p, .micGain, [gain, fade])
  | .duckSet p depth time => some (p, .duckSet, [depth, time])
  | .highwayMap p words => some (p, .highwayMap, words)
  | .lineAnswer p line destination => some (p, .lineAnswer, [line, destination])
  | .lineQueue p line => some (p, .lineQueue, [line])
  | .lineScreen p line => some (p, .lineScreen, [line])
  | .lineTake p line => some (p, .lineTake, [line])
  | .lineBack p line => some (p, .lineBack, [line])
  | .lineDrop p line => some (p, .lineDrop, [line])
  | .linePromote p line => some (p, .linePromote, [line])
  | .lineGain p line gain fade => some (p, .lineGain, [line, gain, fade])
  | .alertPost p id priority cls clip tone expiry => some (p, .alertPost, [id, priority, cls, clip, tone, expiry])
  | .alertCancel p id => some (p, .alertCancel, [id])
  | .alertPolicy p part values => some (p, .alertPolicy, part :: values)
  | .alertRelease p id => some (p, .alertRelease, [id])
  | .alertDecline p id => some (p, .alertDecline, [id])
  | .countersClear p => some (p, .countersClear, [])
  | .lampSet p lamp duty => some (p, .lampSet, [lamp, duty])
  | .resetNAssert | .resetNRelease _ _ | .startUpEnd | .programSampleEvent | .rampEnd _ | .duckRampEnd
  | .millisecondRewrite | .windowEnd | .pageSearchEnd | .sealTaken _ | .unknownCommand _ _ | .mailboxOverrun _ _
  | .xmPointerWrite _ _ | .xmDataRead _ | .xmDataWrite _ _ | .eventWordWrite _ _ | .eventMaskWrite _ _
  | .clipDataWrite _ _ | .clipDataRead _ | .heldWriteReleased _ | .heldReadReleased _ | .portClear _ _ | .ramp _ _ _
  | .cut _ | .hold _ | .restore _ | .stateNotice _ _ | .silentNotice _ | .lockRequest _ | .unlock _ | .arbiterGrant
  | .burstEnd | .deckPrimed _ | .lookahead _ | .cueFadeOutPoint _ | .cueSeguePoint _ | .segueSignal _ | .cueEnd _
  | .slotWordArrival _ _ | .transmitFrame | .ringQualifyExpiry _ | .ringGapExpiry _ | .answerGraceExpiry _
  | .loopLossExpiry _ | .releaseGuardExpiry _ | .forwardTimerExpiry _ | .expiryTimerExpiry _ | .preemptEnd
  | .toneGeneratorOverflow _ | .toneEnd | .messageEnd | .restoreEnd | .programFrameFormed | .alertNoticeHanded _
  | .studioValueChange _ | .standbyDeparture | .transmitGapEnd | .pauseFrame _ | .siteStatusFrame _ | .rxBadCheck _
  | .rxBadFrame _ | .lossTimerExpiry | .pauseTimerExpiry | .lampInputChange _ | .flashTimerExpiry _
  | .counterIncrement _ | .startPatternFound _ => none

end Sys2Proof
end

