-- ==== Sys2Proof/Certificates/Slice0/Obligations.lean ====
section
/-!
DEFINITION. Certificates/Slice0/Obligations.lean: the statements for the provers, OBLIGATIONS.json's list in order. Each
docstring names the rules of spec/ it rests on, and the log entries where it states a choice of the model.
-/

open Sys2Proof Sys2Proof.Machine

/-! ## The machine as a whole -/

/-- A step runs the command at the front of the queue on the state with the queue's rest. That the part idles on an empty
queue is the model's choice (log 1). -/
def Obligations.StepRunsTheFrontCommand : Prop :=
  (∀ (c : Instr) (rest : List Instr) (s : State),
    Sys2Proof.Machine.step { s with pending := c :: rest } = Sys2Proof.Machine.exec c { s with pending := rest }) ∧
  ∀ s : State, s.pending = [] → Sys2Proof.Machine.step s = .next s

/-- A step takes one command off the queue and puts none on it, changes none of the free words of log 4, and from a state between steps ends
between steps: every notice delivered, every rewrite made (logs 4 and 10). -/
def Obligations.StepTakesOneCommandAndEndsQuiet : Prop :=
  ∀ s t : State, Sys2Proof.Machine.step s = .next t →
    t.pending = s.pending.tail ∧ t.unstated = s.unstated ∧ (s.quiet → t.quiet)

/-- The state right after reset holds every register of R3, R39, R62, R91, R93, R111, R138, R150 and R192 at the value its
chapter gives after RESET_N, the arbiter (R60), the ports and their event words (R191) at theirs, and meets the invariants the
next statements are about. A deck's reader position, none without a current cue, is held in that cue's copy. -/
def Obligations.ResetStateIsTheManuals : Prop :=
  (State.reset.quiet ∧ State.reset.canonical ∧ State.reset.aheadCurrent ∧ State.reset.air.inRange ∧
    State.reset.lines.inOrder ∧ State.reset.clips.inOrder ∧ State.reset.cuesPlaced ∧ State.reset.countersInRange) ∧
  let s := State.reset
  s.pending = [] ∧ s.clock.power = .reset ∧
  (∀ src, (s.air.sources.get src).state = .off ∧ (s.air.sources.get src).level = 0 ∧
    (s.air.sources.get src).ramp = ⟨0, 0, 0, 0, false⟩ ∧ (s.air.sources.get src).saved = none) ∧
  s.air.hold = false ∧ s.air.duck = 32768 ∧ s.air.duckRamp.target = 32768 ∧ s.air.duckRamp.running = false ∧
  s.air.duckDepth = 8192 ∧ s.air.duckTime = 200 ∧ s.air.micGain = 32768 ∧ s.air.micFade = 50 ∧
  (∀ i : Fin 128, s.clips.table[i] = ⟨.free, none, 0, 0, 0, 0, 0⟩) ∧
  s.clips.pages = [] ∧ s.clips.search = none ∧ s.clips.waiting = [] ∧
  (∃ n, s.arbiter = ⟨64, 64, 64, none, false, none, false, none, n⟩) ∧
  (∀ d, let r := s.decks.get d
    r.state = .idle ∧ r.playPending = false ∧ r.notify = .onStop ∧ r.current = none ∧ r.next = none ∧
    r.lookahead = .notMade ∧ r.pendingEnd = .none ∧ r.heldSilent = false ∧ r.faultStreak = 0 ∧ r.resumeAddress = none ∧
    r.lastFault = none ∧ r.buffer = [] ∧ r.reading = none ∧ r.inbox = [] ∧ r.skipReply = none) ∧
  s.highway.map = ⟨none, none, none, none, none, .all none, .all none, 0, 0⟩ ∧ (∀ n : Fin 16, s.highway.kept[n] = 0) ∧
  (∀ k, s.lines.recs.get k = ⟨.idle, false, false, 32768, 20, false, false, none, none, none, none, none⟩) ∧
  s.lines.queue = [] ∧ s.lines.screener = none ∧ s.lines.seatCount = 0 ∧
  s.alert.policy.get .immediate = ⟨.airAuto, 0⟩ ∧ s.alert.policy.get .watch = ⟨.airOnRelease, 60⟩ ∧
  s.alert.policy.get .statement = ⟨.airOnRelease, 0⟩ ∧ s.alert.policy.get .test = ⟨.logOnly, 0⟩ ∧
  s.alert.preemptFade = 100 ∧ s.alert.restoreFade = 500 ∧ s.alert.alertGain = 32768 ∧ s.alert.maxMessage = 120 ∧
  s.alert.tone1 = ⟨0, 232, 2097152⟩ ∧ s.alert.tone2 = ⟨0, 208, 2097152⟩ ∧
  s.alert.phase = .standby ∧ s.alert.queue = [] ∧ s.alert.history = [] ∧ s.alert.reader = ⟨none, 0, []⟩ ∧
  s.alert.milliseconds = 0 ∧
  s.deadAir.state = .disarmed ∧ s.deadAir.silence = 0 ∧ s.deadAir.reported = false ∧ s.deadAir.recoveryCount = 0 ∧
  s.deadAir.threshold = 8389 ∧ s.deadAir.limit = 150 ∧ s.deadAir.recovery = 2 ∧ s.deadAir.fade = 500 ∧
  s.deadAir.binding = none ∧ s.deadAir.gain = 32768 ∧ s.deadAir.buffer = [] ∧ s.deadAir.peaks = ⟨0, 0, 0⟩ ∧
  s.deadAir.windowEvents = 0 ∧ s.deadAir.windows = 0 ∧ s.deadAir.meters = ⟨0, 0, 0⟩ ∧
  s.link.enabled = false ∧ s.link.fast = false ∧ s.link.lossTimeout = 500 ∧ s.link.state = .down ∧
  s.link.lossTimer = none ∧ s.link.pause = none ∧ s.link.assembly = [] ∧ s.link.programQueue = [] ∧
  s.link.priorityQueue = [] ∧ s.link.sending = none ∧ s.link.sequence = 0 ∧
  s.link.studio = ⟨.standby, .disarmed, false, .all false⟩ ∧ s.link.site = ⟨false, false, 0, 0, 0⟩ ∧
  s.link.receiver = .stopped ∧
  (∀ l, let r := s.lamps.lamps.get l
    r.mode = .off ∧ r.half = false ∧ r.timer = none ∧ r.duty = 192) ∧
  s.lamps.inputs = ⟨.off, .all false, .standby, false, .down, false⟩ ∧
  (∀ c : Counter, s.counters[c.index] = 0) ∧
  ∀ p, (s.ports.get p).pointer = 0 ∧ (s.ports.get p).readAhead = [] ∧ (s.ports.get p).clipAhead = [] ∧
    (s.ports.get p).partialPair = [] ∧ (s.ports.get p).writeBuffer = [] ∧ (s.ports.get p).cursor = none ∧
    (s.ports.get p).wordsRead = 0 ∧ (s.ports.get p).fetching = false ∧ (s.ports.get p).running = none ∧
    (s.ports.get p).sealing = none ∧ s.waitOutput p = false ∧ s.atn p = false ∧ s.pageWord p 51 = 0 ∧ s.pageWord p 52 = 0

/-- Every step keeps exchange memory and the clip store's SDRAM in their canonical form (addresses rising, no entry an
unlisted address reads as; log 3). -/
def Obligations.StepKeepsTheMemoriesCanonical : Prop :=
  ∀ s t : State, s.canonical → Sys2Proof.Machine.step s = .next t → t.canonical

/-- Every step keeps each word a port's read-ahead holds equal to the word of exchange memory it stands for, whoever writes
that word (R176). -/
def Obligations.StepKeepsTheReadAheadsCurrent : Prop :=
  ∀ s t : State, s.aheadCurrent → Sys2Proof.Machine.step s = .next t → t.aheadCurrent

/-- Every step keeps the air map in the ranges of R2, R15, R16 and R19: gains from 0 to 32768, an OFF source at L = 0 with no
ramp, and the level of a ramp in flight the one the ramp law gives at its position (R4). -/
def Obligations.StepKeepsTheAirMapInRange : Prop :=
  ∀ s t : State, s.air.inRange → Sys2Proof.Machine.step s = .next t → t.air.inRange

/-- Every step keeps the caller queue holding each WAITING line once and no other, and the screener binding naming the line
in SCREEN (R100, R101). -/
def Obligations.StepKeepsTheCallersInOrder : Prop :=
  ∀ s t : State, s.lines.inOrder → Sys2Proof.Machine.step s = .next t → t.lines.inOrder

/-- Every step keeps the page map giving no page to two clips (R40, R42). -/
def Obligations.StepKeepsThePagesInOrder : Prop :=
  ∀ s t : State, s.clips.inOrder → Sys2Proof.Machine.step s = .next t → t.clips.inOrder

/-- Every step keeps every cue a deck holds one that was read from the cue area, words 64 to 4080 (R64), and every counter
from 0 to 4,294,967,295 (R197). -/
def Obligations.StepKeepsCuesPlacedAndCountersInRange : Prop :=
  (∀ s t : State, s.cuesPlaced → Sys2Proof.Machine.step s = .next t → t.cuesPlaced) ∧
  ∀ s t : State, s.countersInRange → Sys2Proof.Machine.step s = .next t → t.countersInRange

/-- The records of the status region stand apart and below word 16384, and the end of a step rewrites each record as often as
the step asked for it: both counts so much above the old first count, the content words those of the state the step leaves,
and no word of any other record (R188). Once the records have begun, each change of what an owner's rule names asks for one
rewrite of that record: a clip's entry (R41), a deck's state, current cue, next cue or pending end (R86), a line's record, the
caller queue and the line summary (R109), the alert engine and alert queue records (R135), the dead-air record (R148), the
link record (R172) and the lamps (R196). That the values one update sets together make one change is the model's choice
(log 9), and that before the first millisecond after start-up only the clip store's records are written is its reading
(log 18). -/
def Obligations.PublicationRewritesTheDueRecords : Prop :=
  (∀ (q r : RecordId) (a : Nat), inRecord q a → inRecord r a → q = r) ∧
  (∀ (r : RecordId) (a : Nat), inRecord r a → 12288 ≤ a ∧ a < 16384) ∧
  (∀ (s : State) (r : RecordId),
    (r ∈ s.forced →
      s.publish.xm.read r.place = s.xm.read r.place + word (s.forced.count r) ∧
      s.publish.xm.read (r.place + r.size - 1) = s.xm.read r.place + word (s.forced.count r) ∧
      ∀ i < (s.content r).length, s.publish.xm.read (r.place + 1 + i) = word ((s.content r).getD i 0)) ∧
    (r ∉ s.forced → ∀ a, inRecord r a → s.publish.xm.read a = s.xm.read a)) ∧
  (∀ (s : State) (i : Fin 128) (f : ClipEntry → ClipEntry), f (s.clip i) ≠ s.clip i →
    (s.onClip i f).forced = s.forced ++ [.clip i]) ∧
  (∀ (s : State) (rs : List RecordId), s.clock.begun = false →
    ∀ r ∈ (s.force rs).forced, r ∈ s.forced ∨ r = .storeSummary ∨ ∃ i, r = .clip i) ∧
  ∀ s : State, s.clock.begun = true →
    (∀ rs, (s.force rs).forced = s.forced ++ rs) ∧
    (∀ d f, deckKey (f (s.decks.get d)) ≠ deckKey (s.decks.get d) → (s.onDeck d f).forced = s.forced ++ [.deck d]) ∧
    (∀ k f, lineKey (f (s.lines.recs.get k)) ≠ lineKey (s.lines.recs.get k) →
      (s.onLine k f).forced = s.forced ++ [.line k]) ∧
    (∀ f, f s.lines.queue ≠ s.lines.queue → (s.onQueue f).forced = s.forced ++ [.callerQueue]) ∧
    (∀ f, callersKey (f s.lines) ≠ callersKey s.lines → (s.onCallers f).forced = s.forced ++ [.lineSummary]) ∧
    (∀ f, alertQueueKey (f s.alert) ≠ alertQueueKey s.alert →
      (s.onAlert f).forced.count .alertQueue = s.forced.count .alertQueue + 1) ∧
    (∀ f, engineKey (f s.alert) ≠ engineKey s.alert →
      (s.onAlert f).forced.count .alertEngine = s.forced.count .alertEngine + 1) ∧
    (∀ f, deadAirKey (f s.deadAir) ≠ deadAirKey s.deadAir → (s.onDeadAir f).forced = s.forced ++ [.deadAir]) ∧
    (∀ f, linkKey (f s.link) ≠ linkKey s.link → (s.onLink f).forced = s.forced ++ [.link]) ∧
    ∀ f, lampWords (f s.lamps) ≠ lampWords s.lamps → (s.onLamps f).forced = s.forced ++ [.lamps]

/-! ## Mailboxes -/

/-- A command from a port the table of R182 does not permit is REFUSED with NOT_PERMITTED, and a value that is no command
code with UNKNOWN; either way nothing but the port's mailbox page changes (R182, R183). -/
def Obligations.ForbiddenAndUnknownCommandsAreRefused : Prop :=
  (∀ (i : Instr) (p : Port) (c : Command) (ws : List Word) (s : State), i.issued = some (p, c, ws) →
    c.permits p = false → s.accepts p →
    ∃ t, Sys2Proof.Machine.exec i s = .next t ∧ s.refusedOnly t p c.code .notPermitted) ∧
  ∀ (p : Port) (v : Word) (s : State), commandOf v = none → s.accepts p →
    ∃ t, Sys2Proof.Machine.exec (.unknownCommand p v) s = .next t ∧ s.refusedOnly t p v .unknown

/-- A command issued while the port's mailbox is BUSY, or a bare write of its command word then, is an overrun: the counter
rises, the event is raised in that port's word, and of exchange memory only the parameter words the processor wrote and that
event word change; the running command stays (R185). Issued during start-up, the code is stored in the command word and not
taken (R189). That a command's row itself writes its parameter words, also then, is the model's choice (log 15). -/
def Obligations.BusyMailboxesOverrun : Prop :=
  (∀ (i : Instr) (p : Port) (c : Command) (ws : List Word) (s : State), i.issued = some (p, c, ws) →
    s.runs → (s.ports.get p).wait = none → (s.ports.get p).running.isSome = true →
    ∃ t, Sys2Proof.Machine.exec i s = .next t ∧
      t.blocks = (s.count (.mailboxOverruns p)).blocks ∧ s.samePorts t ∧
      t.pageWord p 51 = s.pageWord p 51 ||| Event.mailboxOverrun.mask ∧
      (∀ n, n < ws.length → n < 24 → t.pageWord p (n + 1) = ws.getD n 0) ∧
      s.sameXmBut t (fun a => (base p + 1 ≤ a ∧ a < base p + 1 + min 24 ws.length) ∨ a = base p + 51)) ∧
  (∀ (p : Port) (v : Word) (s : State), s.clock.power ≠ .reset → (s.ports.get p).wait = none →
    (s.ports.get p).running.isSome = true →
    ∃ t, Sys2Proof.Machine.exec (.mailboxOverrun p v) s = .next t ∧
      t.blocks = (s.count (.mailboxOverruns p)).blocks ∧ s.samePorts t ∧
      t.pageWord p 51 = s.pageWord p 51 ||| Event.mailboxOverrun.mask ∧ s.sameXmBut t (fun a => a = base p + 51)) ∧
  ∀ (i : Instr) (p : Port) (c : Command) (ws : List Word) (s : State), i.issued = some (p, c, ws) →
    s.clock.power = .startUp → s.quiet → s.nothingOwed → (s.ports.get p).wait = none →
    ∃ t, Sys2Proof.Machine.exec i s = .next t ∧ t.blocks = s.blocks ∧ s.samePorts t ∧ t.pageWord p 0 = c.code ∧
      s.sameXmBut t (fun a => base p ≤ a ∧ a < base p + 1 + min 24 ws.length)

/-! ## Reset and time -/

/-- RESET_N_ASSERT puts every block, port and counter at its value after RESET_N, empties no memory but the event words and
masks, and keeps the queue; pairs that a running grant has written so far stand in the SDRAM (R57, R60), how many being a
free value (log 22); until the release no other command changes anything. RESET_N_RELEASE starts start-up: the
command words and the status region are 0, every counter is 0, and the straps give 8192 pages for 0 1, 16384 for 1 0 and
4096 otherwise (R37, R189, R191). That every other row is without effect while RESET_N is asserted, and that event words and
masks are 0 already at the assertion, the model reads from R189 and R191 (log 17). -/
def Obligations.ResetIsAssertedAndReleased : Prop :=
  (∀ (c : Instr) (s : State), s.clock.power = .reset → c ≠ .resetNAssert → (∀ a b, c ≠ .resetNRelease a b) →
    Sys2Proof.Machine.exec c s = .next s) ∧
  (∀ s : State, ∃ t, Sys2Proof.Machine.exec .resetNAssert s = .next t ∧
    (∀ u, u = s.writtenSoFar (fun _ => true) →
      t.blocks = ({ State.reset with
        pending := s.pending, sdram := u.sdram, unstated := s.unstated
        arbiter := { State.reset.arbiter with cuts := u.arbiter.cuts } } : State).blocks) ∧
    ((∀ g ∈ s.arbiter.grant, g.writes = false) → t.sdram = s.sdram ∧ t.arbiter.cuts = s.arbiter.cuts) ∧
    t.ports = State.reset.ports ∧
    ∀ a, t.xm.read a =
      if a = 51 ∨ a = 52 ∨ a = 4147 ∨ a = 4148 ∨ a = 8243 ∨ a = 8244 then 0 else s.xm.read a) ∧
  ∀ (s : State) (sz1 sz0 : Bool), s.clock.power = .reset →
    ∃ t, Sys2Proof.Machine.exec (.resetNRelease sz1 sz0) s = .next t ∧
      t.blocks = ({ s with
        clock := ⟨.startUp, 0, 0, false, false⟩
        counters := Vector.replicate 29 0
        clips := { s.clips with
          totalPages := if sz1 = false ∧ sz0 = true then 8192 else if sz1 = true ∧ sz0 = false then 16384 else 4096 }
        } : State).blocks ∧ s.samePorts t ∧
      ∀ a, t.xm.read a = if a = 0 ∨ a = 4096 ∨ a = 8192 ∨ 12288 ≤ a then 0 else s.xm.read a

/-- START_UP_END, when the first millisecond since the release is complete: the part runs, and each port's page holds 0 in
words 25 to 53, the identification block in words 54 to 63 and READY in word 0; parameter words and the rest of the port
regions stay, and of the status region only the store summary is written (R41, R189, R190). -/
def Obligations.StartUpEnds : Prop :=
  ∀ s : State, s.clock.power = .startUp → 48 ≤ s.clock.startUpEvents → s.quiet → s.nothingOwed →
    ∃ t, Sys2Proof.Machine.exec .startUpEnd s = .next t ∧
      t.blocks = ({ s with clock := { s.clock with power := .running, msEvents := 0 } } : State).blocks ∧
      s.samePorts t ∧
      (∀ p, t.pageWord p 0 = 0x8003 ∧ (∀ n, 25 ≤ n → n ≤ 53 → t.pageWord p n = 0) ∧
        t.pageWord p 54 = 0x0AC3 ∧ t.pageWord p 55 = 1 ∧
        t.pageWord p 56 = (match p with | .a => 0 | .b => 1 | .c => 2) ∧ t.pageWord p 57 = word (base p) ∧
        t.pageWord p 58 = 4096 ∧ t.pageWord p 59 = 12288 ∧ t.pageWord p 60 = 4096 ∧
        t.pageWord p 61 = word s.clips.totalPages ∧ t.pageWord p 62 = word (s.clips.totalPages / 16) ∧
        t.pageWord p 63 = 0) ∧
      s.sameXmBut t (fun a =>
        (∃ p, a = base p ∨ (base p + 25 ≤ a ∧ a ≤ base p + 63)) ∨ inRecord .storeSummary a)

/-- PROGRAM_SAMPLE_EVENT steps every ramp in flight by the ramp law and leaves every other record as the acts that were due
left it: k rises by one and L becomes G0 + trunc((T - G0) k / S); K steps the same way, and no setting or target of the air
map changes (R4, R6, R15, R21). That the record of a source whose k comes to S shows its settled state only from the next act
on is the model's reading of R5 (log 27). Every timer, phase and page search is one event older, and the clock moves on: the
event that completes a millisecond leaves its rewrite due and adds one to the alert engine's count (R14, R43, R94, R113,
R124, R166, R170, R189, R194; log 8). Whatever was due has acted first (log 7). -/
def Obligations.SampleEventStepsRampsAndTimers : Prop :=
  (∀ s v : State, s.clock.power ≠ .reset → s.caughtUp = v →
    ∃ u, Sys2Proof.Machine.exec .programSampleEvent s = .next u ∧
      (∀ (src : Source) (r : SourceRec), v.air.sources.get src = r →
        u.air.sources.get src =
          if r.ramp.running = true ∧ r.ramp.position < r.ramp.length then
            { r with
              level := ((r.ramp.start : Int) +
                Int.tdiv (((r.ramp.target : Int) - r.ramp.start) * (r.ramp.position + 1 : Nat)) r.ramp.length).toNat
              ramp := { r.ramp with position := r.ramp.position + 1 } }
          else r) ∧
      (∀ r : Ramp, v.air.duckRamp = r →
        u.air = { v.air with
          sources := u.air.sources
          duck :=
            if r.running = true ∧ r.position < r.length then
              ((r.start : Int) + Int.tdiv (((r.target : Int) - r.start) * (r.position + 1 : Nat)) r.length).toNat
            else v.air.duck
          duckRamp := if r.running = true ∧ r.position < r.length then { r with position := r.position + 1 } else r }) ∧
      u.lines = { v.lines with
        recs := v.lines.recs.mapWith fun _ r =>
          { r with
            ringQualify := r.ringQualify.map (· - 1), ringGap := r.ringGap.map (· - 1)
            answerGrace := r.answerGrace.map (· - 1), loopLoss := r.loopLoss.map (· - 1)
            releaseGuard := r.releaseGuard.map (· - 1) } } ∧
      (u.alert.phase = v.alert.phase ∧ u.alert.phaseLength = v.alert.phaseLength ∧
        u.alert.phaseEvents = v.alert.phaseEvents + 1 ∧
        u.alert.queue = v.alert.queue.map fun r =>
          { r with forwardTimer := r.forwardTimer.map (· - 1), expiryTimer := r.expiryTimer.map (· - 1) }) ∧
      (u.link.lossTimer = v.link.lossTimer.map (· - 1) ∧
        u.link.pause = v.link.pause.map fun x => { x with timer := x.timer.map (· - 1) }) ∧
      u.lamps = { v.lamps with
        lamps := v.lamps.lamps.mapWith fun _ r => { r with timer := r.timer.map (· - 1) } } ∧
      u.clips = { v.clips with search := v.clips.search.map fun q => { q with age := q.age + 1 } } ∧
      u.clock = (match v.clock.power with
        | .reset => v.clock
        | .startUp => { v.clock with startUpEvents := v.clock.startUpEvents + 1 }
        | .running =>
          if v.clock.msEvents + 1 < 48 then { v.clock with msEvents := v.clock.msEvents + 1 }
          else { v.clock with msEvents := 0, rewriteDue := true }) ∧
      u.alert.milliseconds =
        (if v.clock.power = .running ∧ 48 ≤ v.clock.msEvents + 1 then (v.alert.milliseconds + 1) % 4294967296
         else v.alert.milliseconds)) ∧
  ∀ s : State, s.quiet → (∀ f ∈ dueActions, f s = s) → s.caughtUp = s

/-- PROGRAM_SAMPLE_EVENT forms the program from the inputs it gathers: effective gains floor(L K / 32768) for the decks and
FALLBACK and L for the rest; exact sums over the sources that are not OFF; the program and primary samples the sums over
32768, rounded with halves up and clamped to 24 bits; and CLIP_EVENTS one higher if a program sample is clamped (R25 to R29).
A line's feed is by its state and its source's: its mix-minus send, the program without the line's own term, the waiting
feed, the screener's sample, or 0; the screener hears the line in SCREEN (R30 to R32). The pair goes to the window peaks,
which count one event, and to the frame assembly of an enabled link (R34, R35, R137, R157). Whether a source is OFF is read
with the state its ended ramp settles in at this event (R5; log 27). -/
def Obligations.SampleEventMixesTheProgram : Prop :=
  ∀ (s v : State) (out : Int → Int) (slot : Option (Fin 16) → Int), s.clock.power ≠ .reset → s.caughtUp = v →
    (∀ a, out a = max (-8388608) (min 8388607 ((a + 16384) / 32768))) →
    (∀ x, slot x = match x with
      | none => 0
      | some n => if v.highway.map.rxEnable.getLsbD n = true then v.highway.kept[n].toInt else 0) →
    ∃ u, Sys2Proof.Machine.exec .programSampleEvent s = .next u ∧
      (∀ src, u.mixer.gains.get src = match src with
        | .deck _ | .fallback => (u.air.sources.get src).level * u.air.duck / 32768
        | _ => (u.air.sources.get src).level) ∧
      (∀ (on : Source → Bool) (left right : Source → Int),
        (∀ src, on src = decide ((u.air.sources.get src).now ≠ .off)) →
        (∀ src, left src = if on src = true then (u.mixer.inputs.get src).1 * (u.mixer.gains.get src : Int) else 0) →
        (∀ src, right src = if on src = true then (u.mixer.inputs.get src).2 * (u.mixer.gains.get src : Int) else 0) →
        u.mixer.sumLeft = (allSources.map left).sum ∧ u.mixer.sumRight = (allSources.map right).sum ∧
        u.mixer.fallbackLeft = left .fallback ∧ u.mixer.fallbackRight = right .fallback ∧
        ∀ k, u.mixer.lineOut.get k = BitVec.ofInt 24
          (match (v.lines.recs.get k).state with
            | .onAir =>
              if on (.line k) = true then
                (out (u.mixer.sumLeft - left (.line k)) + out (u.mixer.sumRight - right (.line k))) / 2
              else (out u.mixer.sumLeft + out u.mixer.sumRight) / 2
            | .releasing =>
              if on (.line k) = true then
                (out (u.mixer.sumLeft - left (.line k)) + out (u.mixer.sumRight - right (.line k))) / 2
              else 0
            | .waiting => (out u.mixer.sumLeft + out u.mixer.sumRight) / 2
            | .screen => slot v.highway.map.screenerRx
            | .idle | .ringing => 0)) ∧
      u.mixer.screenerOut = BitVec.ofInt 24
        (match v.lines.screener with
          | some k => slot (v.highway.map.lineRx.get k)
          | none => 0) ∧
      (u.mixer.program = ⟨BitVec.ofInt 24 (out u.mixer.sumLeft), BitVec.ofInt 24 (out u.mixer.sumRight)⟩ ∧
        u.mixer.primary =
          ⟨BitVec.ofInt 24 (out (u.mixer.sumLeft - u.mixer.fallbackLeft)),
            BitVec.ofInt 24 (out (u.mixer.sumRight - u.mixer.fallbackRight))⟩) ∧
      u.counters[Counter.clipEvents.index] =
        (if (∃ a ∈ [u.mixer.sumLeft, u.mixer.sumRight],
            (a + 16384) / 32768 < -8388608 ∨ 8388607 < (a + 16384) / 32768) then
          min 4294967295 (v.counters[Counter.clipEvents.index] + 1)
        else v.counters[Counter.clipEvents.index]) ∧
      (u.deadAir.windowEvents = (if v.clock.power = .running then v.deadAir.windowEvents + 1 else v.deadAir.windowEvents) ∧
        u.deadAir.peaks =
          if v.clock.power = .running then
            ⟨max v.deadAir.peaks.left u.mixer.program.left.toInt.natAbs,
              max v.deadAir.peaks.right u.mixer.program.right.toInt.natAbs,
              max v.deadAir.peaks.primary
                (max u.mixer.primary.left.toInt.natAbs u.mixer.primary.right.toInt.natAbs)⟩
          else v.deadAir.peaks) ∧
      u.link = { v.link with
        lossTimer := u.link.lossTimer, pause := u.link.pause
        assembly :=
          if v.link.enabled = true then v.link.assembly ++ [u.mixer.program] else v.link.assembly }

/-- PROGRAM_SAMPLE_EVENT gathers the inputs. A deck that is PLAYING, or HELD and not held silent, gives the oldest pair of its
buffer and counts it played, or gives 0 and counts a starve if its buffer is empty; a deck that does not take gives 0 (R22,
R71). MIC and the lines give the kept sample of their receive slot (R23). ALERT gives in TONE the sum of its generators,
which step, and in MESSAGE its reader's oldest pair, counted toward the message, or 0 and a starve (R24, R127, R129).
FALLBACK takes while it is not OFF, and HELD only above L = 0, its play position going round the clip (R22, R146). The slot
map, the kept samples and the clip store's SDRAM stay (R21). Three points are the model's reading, not the rules': the L and
the state FALLBACK is taken by are those the event's own step leaves, so at the event whose step brings a HELD one to 0 no
pair is taken (log 26), and one whose ramp ends at the event counts with the state it settles in (log 27); and the event
begins in the state that everything due before it has left (log 7). -/
def Obligations.SampleEventGathersTheInputs : Prop :=
  ∀ (s v : State) (slot : Option (Fin 16) → Int), s.clock.power ≠ .reset → s.caughtUp = v →
    (∀ x, slot x = match x with
      | none => 0
      | some n => if v.highway.map.rxEnable.getLsbD n = true then v.highway.kept[n].toInt else 0) →
    ∃ u, Sys2Proof.Machine.exec .programSampleEvent s = .next u ∧
      (∀ (d : DeckId) (r : DeckRec), v.decks.get d = r →
        (r.state = .playing ∨ (r.state = .held ∧ r.heldSilent = false) →
          match r.buffer with
          | [] => u.decks.get d = r ∧ u.mixer.inputs.get (.deck d) = (0, 0) ∧
              u.counters[(Counter.starve d).index] = min 4294967295 (v.counters[(Counter.starve d).index] + 1)
          | p :: t => u.decks.get d =
                { r with buffer := t, current := r.current.map fun c => { c with played := c.played + 1 } } ∧
              u.mixer.inputs.get (.deck d) = (p.left.toInt, p.right.toInt) ∧
              u.counters[(Counter.starve d).index] = v.counters[(Counter.starve d).index]) ∧
        (¬ (r.state = .playing ∨ (r.state = .held ∧ r.heldSilent = false)) →
          u.decks.get d = r ∧ u.mixer.inputs.get (.deck d) = (0, 0) ∧
            u.counters[(Counter.starve d).index] = v.counters[(Counter.starve d).index])) ∧
      u.mixer.inputs.mic = (slot v.highway.map.mic, slot v.highway.map.mic) ∧
      (∀ k, u.mixer.inputs.get (.line k) = (slot (v.highway.map.lineRx.get k), slot (v.highway.map.lineRx.get k))) ∧
      (∀ (tone : Int) (sign : ToneState → Int) (next : ToneState → ToneState),
        (∀ g, sign g = if g.positive = true then (g.settings.amplitude : Int) else -(g.settings.amplitude : Int)) →
        tone = max (-8388608) (min 8388607 (sign v.alert.gen1 + sign v.alert.gen2)) →
        (∀ g, next g =
          if g.prescale + 1 < 2 ^ g.settings.exponent then { g with prescale := g.prescale + 1 }
          else { g with prescale := 0, counter := g.counter + 1 }) →
        (v.alert.phase = .tone →
          u.mixer.inputs.alert = (tone, tone) ∧ u.alert.gen1 = next v.alert.gen1 ∧ u.alert.gen2 = next v.alert.gen2) ∧
        (v.alert.phase ≠ .tone → u.alert.gen1 = v.alert.gen1 ∧ u.alert.gen2 = v.alert.gen2) ∧
        (v.alert.phase = .message →
          match v.alert.reader.buffer with
          | [] => u.mixer.inputs.alert = (0, 0) ∧ u.alert.reader = v.alert.reader ∧
              u.alert.pairsTaken = v.alert.pairsTaken ∧
              u.counters[Counter.alertStarve.index] = min 4294967295 (v.counters[Counter.alertStarve.index] + 1)
          | p :: t => u.mixer.inputs.alert = (p.left.toInt, p.right.toInt) ∧
              u.alert.reader = { v.alert.reader with buffer := t } ∧ u.alert.pairsTaken = v.alert.pairsTaken + 1 ∧
              u.counters[Counter.alertStarve.index] = v.counters[Counter.alertStarve.index]) ∧
        (v.alert.phase ≠ .message →
          u.alert.reader = v.alert.reader ∧ u.alert.pairsTaken = v.alert.pairsTaken ∧
            u.counters[Counter.alertStarve.index] = v.counters[Counter.alertStarve.index]) ∧
        (v.alert.phase ≠ .tone → v.alert.phase ≠ .message → u.mixer.inputs.alert = (0, 0))) ∧
      (∀ (a : SourceRec) (heard : DeadAir), u.air.sources.fallback = a →
        heard = { v.deadAir with peaks := u.deadAir.peaks, windowEvents := u.deadAir.windowEvents } →
        ((a.now ≠ .off ∧ (a.now = .held → 0 < a.level)) →
          match v.deadAir.buffer with
          | [] => u.mixer.inputs.fallback = (0, 0) ∧ u.deadAir = heard ∧
              u.counters[Counter.fallbackStarve.index] = min 4294967295 (v.counters[Counter.fallbackStarve.index] + 1)
          | p :: t => u.mixer.inputs.fallback = (p.left.toInt, p.right.toInt) ∧
              (∀ b, v.deadAir.binding = some b →
                u.deadAir = { heard with buffer := t, playPosition := (v.deadAir.playPosition + 1) % b.sealed }) ∧
              u.deadAir.buffer = t ∧
              u.counters[Counter.fallbackStarve.index] = v.counters[Counter.fallbackStarve.index]) ∧
        (¬ (a.now ≠ .off ∧ (a.now = .held → 0 < a.level)) →
          u.mixer.inputs.fallback = (0, 0) ∧ u.deadAir = heard ∧
            u.counters[Counter.fallbackStarve.index] = v.counters[Counter.fallbackStarve.index])) ∧
      (∀ c : Counter, c ∉ [.starve .d1, .starve .d2, .alertStarve, .fallbackStarve, .clipEvents] →
        u.counters[c.index] = v.counters[c.index]) ∧
      u.highway = v.highway ∧ u.sdram = v.sdram ∧ u.arbiter = v.arbiter ∧ v.samePorts u

/-! ## The air map -/

/-- RAMP_END at k = S gives a RISING or FALLING source its settled state, ON for a target above 0 and OFF for 0, and ends the
ramp; MIC opening or closing by it retargets K (R5, R12, R15). DUCK_RAMP_END leaves K at its target (R15). The settled state
is taken at the event itself (R5): a command, a request on the air map, a notice or a rewrite that comes before RAMP_END acts
on the state with every ended ramp settled and its notices delivered, which is what RAMP_END leaves (log 27). -/
def Obligations.RampEndsSettle : Prop :=
  (∀ (src : Source) (s : State), s.clock.power = .running → s.quiet →
    (s.air.sources.get src).ramp.running = true →
    (s.air.sources.get src).ramp.length ≤ (s.air.sources.get src).ramp.position →
    (∀ d, src = .deck d → (s.decks.get d).calm) →
    ∃ t, Sys2Proof.Machine.exec (.rampEnd src) s = .next t ∧
      t.air = s.air.withSource src (s.air.sources.get src).settled ∧
      (t.air.sources.get src).ramp.running = false ∧
      s.within t (noticeParts src) (fun _ => False)) ∧
  (∀ s : State, s.clock.power ≠ .reset → s.air.duckRamp.running = true →
    s.air.duckRamp.length ≤ s.air.duckRamp.position →
    Sys2Proof.Machine.exec .duckRampEnd s = .next
      { s with air :=
        { s.air with duck := s.air.duckRamp.target, duckRamp := { s.air.duckRamp with running := false } } }) ∧
  (∀ (src : Source) (s : State), s.clock.power = .running →
    (∀ x, x ≠ src → (s.air.sources.get x).ramp.running = false ∨
      (s.air.sources.get x).ramp.position < (s.air.sources.get x).ramp.length) →
    Sys2Proof.Machine.exec (.rampEnd src) s = .next s.landed.publish) ∧
  ∀ (c : Instr) (s : State), s.clock.power = .running → s.landed.rampsSettled →
    c.issued.isSome = true ∨ (∃ src T S, c = .ramp src T S) ∨ (∃ src, c = .cut src) ∨
      (∃ n, c = .hold n ∨ c = .restore n) ∨ (∃ src n, c = .stateNotice src n) ∨ (∃ src, c = .silentNotice src) ∨
      c = .millisecondRewrite ∨ c = .transmitFrame ∨ (∃ d, c = .cueEnd d ∨ c = .cueFadeOutPoint d) ∨
      (∃ k, c = .releaseGuardExpiry k) →
    ∃ t u, Sys2Proof.Machine.exec c s = .next t ∧ Sys2Proof.Machine.exec c s.landed = .next u ∧
      t.blocks = u.blocks ∧ u.samePorts t ∧ ∀ a < 12288, t.xm.read a = u.xm.read a

/-- MILLISECOND_REWRITE starts the PWM cycle of every lamp, lit lamps for the first n of its steps, and rewrites the air map,
both decks, the eight lines, the alert engine, the link and the counters; the first one after start-up writes every record
but those of the clip store (R14, R86, R109, R135, R172, R189, R195, R199). That the first counter and lamp records show the
values as they stand is the model's choice (log 48). -/
def Obligations.MillisecondsRewriteTheRecords : Prop :=
  ∀ (s : State) (due : RecordId → Prop), s.runs → s.clock.rewriteDue = true →
    (∀ r, due r ↔ if s.clock.begun = true then
        r ∈ [RecordId.airMap, .deck .d1, .deck .d2, .alertEngine, .link, .counters] ∨ ∃ k, r = .line k
      else r ≠ .storeSummary ∧ ∀ c, r ≠ .clip c) →
    ∃ t, Sys2Proof.Machine.exec .millisecondRewrite s = .next t ∧
      t.blocks =
        ({ s with
          clock := { s.clock with rewriteDue := false, begun := true }
          lamps := { s.lamps with
            lamps := s.lamps.lamps.mapWith fun _ r =>
              { r with onSteps := if r.mode = .steady ∨ (r.mode = .flash ∧ r.half = true) then r.duty else 0 } }
          } : State).blocks ∧
      s.samePorts t ∧ (∀ r, due r → s.rewrites t r) ∧ s.sameXmBut t (fun a => ∃ r, due r ∧ inRecord r a)

/-- WINDOW_END publishes the peaks as the meters and counts the window. A window is judged in STANDBY alone; in WATCHING one
at or above the threshold clears the run of silent windows and one below it lengthens it, until at the limit the monitor
reports and counts dead air once and, armed, engages: RAMP of FALLBACK to its gain over the fade, from whatever state and
level FALLBACK has (R137, R140, R141, R148). In ENGAGED one below the threshold clears the recovery count and one at or above
it counts, until AIR_RESTORED is raised, FALLBACK ramped to 0 over the fade and the monitor WATCHING with its counts 0 (R142).
A RAMP that leaves FALLBACK OFF at once rewinds its bound reader (R7, R12, R146). Two points are the model's reading, not the
rules': while an arming FALLBACK_SET waits for its lock, the window waits behind it with its peaks (log 21), and the count of
windows passes from 65535 to 0 (log 30). -/
def Obligations.WindowsJudgeTheAir : Prop :=
  (∀ s : State, s.runs → 4800 ≤ s.deadAir.windowEvents → s.deadAir.arming = true →
    ∃ t, Sys2Proof.Machine.exec .windowEnd s = .next t ∧
      s.changedTo t
        { s with deadAir :=
          { s.deadAir with
            peaks := ⟨0, 0, 0⟩, windowEvents := 0
            inbox := s.deadAir.inbox ++ [.window s.deadAir.peaks (decide (s.alert.phase = .standby))] } }
        (fun _ => False)) ∧
  (∀ (s : State) (m : DeadAir) (w : Nat → Prop), s.runs → 4800 ≤ s.deadAir.windowEvents → s.deadAir.arming = false →
    m = { s.deadAir with
      meters := s.deadAir.peaks, windows := (s.deadAir.windows + 1) % 65536, peaks := ⟨0, 0, 0⟩, windowEvents := 0 } →
    (∀ a, w a ↔ inRecord .meters a ∨ inRecord .deadAir a) →
    (s.alert.phase ≠ .standby ∨ s.deadAir.state = .disarmed →
      ∃ t, Sys2Proof.Machine.exec .windowEnd s = .next t ∧ s.changedTo t { s with deadAir := m } w ∧
        (s.clock.begun = true → s.rewrites t .meters ∧ s.rewrites t .deadAir)) ∧
    (s.alert.phase = .standby → s.deadAir.state = .watching →
      (s.deadAir.threshold ≤ s.deadAir.peaks.primary →
        ∃ t, Sys2Proof.Machine.exec .windowEnd s = .next t ∧
          s.changedTo t { s with deadAir := { m with silence := 0, reported := false } } w) ∧
      (s.deadAir.peaks.primary < s.deadAir.threshold → s.deadAir.silence + 1 < s.deadAir.limit →
        ∃ t, Sys2Proof.Machine.exec .windowEnd s = .next t ∧
          s.changedTo t { s with deadAir := { m with silence := s.deadAir.silence + 1 } } w) ∧
      (s.deadAir.peaks.primary < s.deadAir.threshold →
        s.deadAir.silence + 1 = s.deadAir.limit ∨ s.deadAir.silence = s.deadAir.limit →
        (s.deadAir.binding = none → s.deadAir.reported = true →
          ∃ t, Sys2Proof.Machine.exec .windowEnd s = .next t ∧
            s.changedTo t { s with deadAir := { m with silence := s.deadAir.limit } } w) ∧
        (s.deadAir.binding = none → s.deadAir.reported = false →
          ∃ t, Sys2Proof.Machine.exec .windowEnd s = .next t ∧ (∀ p, t.hasEvent p .deadAir) ∧
            s.changedTo t
              { s.count .deadAirEvents with deadAir := { m with silence := s.deadAir.limit, reported := true } }
              (fun a => w a ∨ eventWord a)) ∧
        (s.deadAir.binding.isSome = true →
          ∃ t, Sys2Proof.Machine.exec .windowEnd s = .next t ∧
            t.air = s.air.ramped .fallback s.deadAir.gain (s.deadAir.fade * 48) ∧
            s.fallbackRewound t (decide (s.deadAir.gain = 0))
              { m with state := .engaged, silence := s.deadAir.limit, reported := true, recoveryCount := 0 } ∧
            t.link.studio = { s.link.studio with monitor := .engaged } ∧
            (s.deadAir.reported = false → ∀ p, t.hasEvent p .deadAir) ∧
            t.counters[Counter.deadAirEvents.index] =
              (if s.deadAir.reported = true then s.counters[Counter.deadAirEvents.index]
               else min 4294967295 (s.counters[Counter.deadAirEvents.index] + 1)) ∧
            s.within t [.deadAir, .air, .arbiter, .link, .counters] eventWord)))) ∧
  ∀ (s : State) (m : DeadAir) (w : Nat → Prop), s.runs → 4800 ≤ s.deadAir.windowEvents → s.alert.phase = .standby →
    s.deadAir.state = .engaged → s.deadAir.arming = false →
    m = { s.deadAir with
      meters := s.deadAir.peaks, windows := (s.deadAir.windows + 1) % 65536, peaks := ⟨0, 0, 0⟩, windowEvents := 0 } →
    (∀ a, w a ↔ inRecord .meters a ∨ inRecord .deadAir a) →
    (s.deadAir.peaks.primary < s.deadAir.threshold →
      ∃ t, Sys2Proof.Machine.exec .windowEnd s = .next t ∧
        s.changedTo t { s with deadAir := { m with recoveryCount := 0 } } w) ∧
    (s.deadAir.threshold ≤ s.deadAir.peaks.primary → s.deadAir.recoveryCount + 1 < s.deadAir.recovery →
      ∃ t, Sys2Proof.Machine.exec .windowEnd s = .next t ∧
        s.changedTo t { s with deadAir := { m with recoveryCount := s.deadAir.recoveryCount + 1 } } w) ∧
    (s.deadAir.threshold ≤ s.deadAir.peaks.primary → s.deadAir.recovery ≤ s.deadAir.recoveryCount + 1 →
      ∃ t, Sys2Proof.Machine.exec .windowEnd s = .next t ∧
        t.air = s.air.ramped .fallback 0 (s.deadAir.fade * 48) ∧
        s.fallbackRewound t s.deadAir.binding.isSome
          { m with state := .watching, silence := 0, reported := false, recoveryCount := 0 } ∧
        t.link.studio = { s.link.studio with monitor := .watching } ∧ (∀ p, t.hasEvent p .airRestored) ∧
        s.within t [.deadAir, .air, .arbiter, .link, .counters] eventWord)

/-- RAMP takes T up to 32768 and S up to 480,000. A source not held by an alert goes RISING, FALLING or at once to ON or OFF
by L against T; a HELD one only takes T as its saved target; under hold an OFF one takes T above 0 as HELD at L = 0 (R7,
R8). ALERT ramps under hold too. The answer is STARTED, SETTLED where L is T already, or DEFERRED; for this row, whose owner
is outside, the model keeps it (log 45). -/
def Obligations.RampMovesASource : Prop :=
  ∀ (src : Source) (target length T S : Nat) (r : SourceRec) (s : State), s.runs →
    T = min target 32768 → S = min length 480000 → s.air.sources.get src = r →
    (∀ d, src = .deck d → (s.decks.get d).calm) →
    (src = .alert ∨ (r.state ≠ .held ∧ (s.air.hold = false ∨ r.state ≠ .off)) →
      ∃ t, Sys2Proof.Machine.exec (.ramp src target length) s = .next t ∧
        t.air = s.air.withSource src
          (if r.level < T then ⟨.rising, r.level, ⟨r.level, T, max 1 S, 0, true⟩, none⟩
           else if T < r.level then ⟨.falling, r.level, ⟨r.level, T, max 1 S, 0, true⟩, none⟩
           else ⟨if T = 0 then .off else .on, r.level, { r.ramp with target := T, running := false }, none⟩) ∧
        t.airAnswer = some (if r.level = T then .settled else .started) ∧
        s.within t (.answer :: noticeParts src) (fun _ => False)) ∧
    (src ≠ .alert → r.state = .held →
      ∃ t, Sys2Proof.Machine.exec (.ramp src target length) s = .next t ∧
        s.changedTo t
          { s with air := s.air.withSource src { r with saved := some T }, airAnswer := some .deferred }
          (fun _ => False)) ∧
    (src ≠ .alert → r.state = .off → s.air.hold = true → T = 0 →
      Sys2Proof.Machine.exec (.ramp src target length) s = .next { s with airAnswer := some .settled }) ∧
    (src ≠ .alert → r.state = .off → s.air.hold = true → T ≠ 0 → (src = .fallback → s.deadAir.state = .engaged) →
      ∃ t, Sys2Proof.Machine.exec (.ramp src target length) s = .next t ∧
        t.air = s.air.withSource src ⟨.held, 0, { r.ramp with target := 0, running := false }, some T⟩ ∧
        t.airAnswer = some .deferred ∧ s.within t (.answer :: noticeParts src) (fun _ => False))

/-- CUT makes a source OFF at L = T = 0 with no ramp and no saved target, and is answered CUT_DONE (R9), which the model keeps
for this row (log 45). HOLD holds every source but ALERT that is not OFF, saving its target and ramping it to 0; RESTORE
ramps every HELD source to its saved target by the cases of R7 (R10, R11). MIC's closing or opening by them retargets K
(R15). -/
def Obligations.CutHoldAndRestore : Prop :=
  (∀ (src : Source) (s : State), s.runs → (∀ d, src = .deck d → (s.decks.get d).calm) →
    ∃ t, Sys2Proof.Machine.exec (.cut src) s = .next t ∧
      t.air = s.air.withSource src
        ⟨.off, 0, { (s.air.sources.get src).ramp with target := 0, running := false }, none⟩ ∧
      t.airAnswer = some .cutDone ∧ s.within t (.answer :: noticeParts src) (fun _ => False)) ∧
  (∀ (n : Nat) (s : State), s.runs → s.ownersRest →
    ∃ t, Sys2Proof.Machine.exec (.hold n) s = .next t ∧
      (∀ (src : Source) (r : SourceRec), s.air.sources.get src = r →
        t.air.sources.get src =
          if src = .alert ∨ r.state = .off then r
          else
            { r with
              state := .held
              saved :=
                match r.state with
                | .rising | .falling => some r.ramp.target
                | .on => some r.level
                | .held => r.saved
                | .off => none
              ramp :=
                if r.level = 0 then { r.ramp with target := 0, running := false }
                else ⟨r.level, 0, max 1 (min n 480000), 0, true⟩ }) ∧
      t.air =
        { s.air.withSource .mic t.air.sources.mic with sources := t.air.sources, hold := true } ∧
      s.within t [.air, .decks, .lines, .deadAir, .arbiter, .link, .lamps, .counters] (fun _ => False)) ∧
  ∀ (n : Nat) (s : State), s.runs → s.ownersRest →
    ∃ t, Sys2Proof.Machine.exec (.restore n) s = .next t ∧
      (∀ (src : Source) (r : SourceRec), s.air.sources.get src = r →
        t.air.sources.get src = if r.state = .held then r.rampTo (r.saved.getD 0) (min n 480000) else r) ∧
      t.air =
        { s.air.withSource .mic t.air.sources.mic with sources := t.air.sources, hold := false } ∧
      s.within t [.air, .decks, .lines, .deadAir, .arbiter, .link, .lamps, .counters] (fun _ => False)

/-- What an owner does on a notice. A deck: HELD holds a PLAYING deck, any other state lets a HELD one play on, the silent
notice is kept, and a deck held by a read takes it afterwards; a line: its seat follows its source, and OFF clears SEIZE of a
RELEASING line; FALLBACK: OFF rewinds a bound reader, HELD outside ENGAGED is cut, and while an arming FALLBACK_SET waits the
notice waits behind it; MIC and ALERT: nothing (R12, R64, R76, R82, R83, R102, R106, R107, R143, R146, R147). That a notice
waits for a deck held by a read (log 25) and behind an arming FALLBACK_SET (log 21) is the model's reading, not the rules'. -/
def Obligations.OwnersTakeNotices : Prop :=
  (∀ (d : DeckId) (n : StateNotice) (r : DeckRec) (s : State), s.runs → s.decks.get d = r →
    (r.reading = none → r.pendingEnd = .none →
      ∃ t, Sys2Proof.Machine.exec (.stateNotice (.deck d) n) s = .next t ∧
        s.changedTo t
          { s with
            decks :=
              s.decks.set d
                (if n.state = .held then (if r.state = .playing then { r with state := .held } else r)
                 else if r.state = .held then { r with state := .playing, heldSilent := false }
                 else if r.state = .loading then { r with heldSilent := false } else r) }
          (inRecord (.deck d))) ∧
    (r.reading = none → r.pendingEnd = .none →
      ∃ t, Sys2Proof.Machine.exec (.silentNotice (.deck d)) s = .next t ∧
        s.changedTo t { s with decks := s.decks.set d { r with heldSilent := true } } (fun _ => False)) ∧
    (r.reading.isSome = true →
      (∃ t, Sys2Proof.Machine.exec (.stateNotice (.deck d) n) s = .next t ∧
        s.changedTo t { s with decks := s.decks.set d { r with inbox := r.inbox ++ [⟨r.played, .state n⟩] } } (fun _ => False)) ∧
      ∃ t, Sys2Proof.Machine.exec (.silentNotice (.deck d)) s = .next t ∧
        s.changedTo t { s with decks := s.decks.set d { r with inbox := r.inbox ++ [⟨r.played, .silent⟩] } } (fun _ => False))) ∧
  (∀ (k : Line) (n : StateNotice) (r : LineRec) (s : State), s.runs → s.lines.recs.get k = r →
    ∃ t, Sys2Proof.Machine.exec (.stateNotice (.line k) n) s = .next t ∧
      s.changedTo t
        { s with lines := { s.lines with
            seats := s.lines.seats.set k (decide (n.state ≠ .off))
            recs := s.lines.recs.set k (if n.state = .off ∧ r.state = .releasing then { r with seize := false } else r) } }
        (fun a => inRecord (.line k) a ∨ inRecord .lineSummary a)) ∧
  (∀ (n : StateNotice) (s : State), s.runs →
    (s.deadAir.arming = false →
      ((n.state = .off → s.deadAir.binding = none) → (n.state = .held → s.deadAir.state = .engaged) →
        Sys2Proof.Machine.exec (.stateNotice .fallback n) s = .next s) ∧
      (n.state = .off → s.deadAir.binding.isSome = true →
        ∃ t, Sys2Proof.Machine.exec (.stateNotice .fallback n) s = .next t ∧
          s.changedTo t
            { s.endGrantOf .fallback false with
              deadAir := { s.deadAir with buffer := [], fetchPosition := 0, playPosition := 0 } } (fun _ => False)) ∧
      (n.state = .held → s.deadAir.state ≠ .engaged →
        ∃ t, Sys2Proof.Machine.exec (.stateNotice .fallback n) s = .next t ∧
          t.air = s.air.withSource .fallback
            ⟨.off, 0, { s.air.sources.fallback.ramp with target := 0, running := false }, none⟩ ∧
          s.within t [.air, .deadAir, .arbiter] (fun _ => False))) ∧
    (s.deadAir.arming = true →
      ∃ t, Sys2Proof.Machine.exec (.stateNotice .fallback n) s = .next t ∧
        s.changedTo t { s with deadAir := { s.deadAir with inbox := s.deadAir.inbox ++ [.notice n] } }
          (fun _ => False))) ∧
  (∀ (n : StateNotice) (s : State), s.runs →
    Sys2Proof.Machine.exec (.stateNotice .mic n) s = .next s ∧
    Sys2Proof.Machine.exec (.stateNotice .alert n) s = .next s) ∧
  ∀ (src : Source) (s : State), s.runs → (∀ d, src ≠ .deck d) →
    Sys2Proof.Machine.exec (.silentNotice src) s = .next s

/-- MIC_OPEN without a receive slot is refused BAD_STATE; with one it leaves an open MIC alone, ramps a closed one to the
microphone gain over the fade, and under hold saves the gain. MIC_CLOSE ramps an open MIC to 0, a HELD one keeps 0 to
restore, a closed one is left alone. MIC_GAIN stores gain and fade, clamped, and gives an open MIC its new gain (R17 to
R19). -/
def Obligations.MicrophoneCommands : Prop :=
  ∀ (s : State) (r : SourceRec) (T S : Nat) (ps : List Part) (rs : State → List Nat), s.accepts .b →
    s.air.sources.mic = r → T = min s.air.micGain 32768 → S = min (s.air.micFade * 48) 480000 →
    ps = [.air, .link, .lamps, .counters] →
    (∀ t : State, rs t = [sourceCode t.air.sources.mic.state, t.air.sources.mic.level, t.air.micGain, t.air.micFade]) →
    (s.highway.map.mic = none →
      ∃ t, Sys2Proof.Machine.exec (.micOpen .b) s = .next t ∧ s.refusedOnly t .b 0x0030 .badState) ∧
    (s.highway.map.mic.isSome = true → r.state = .rising ∨ r.state = .on →
      ∃ t, Sys2Proof.Machine.exec (.micOpen .b) s = .next t ∧ s.doneOnly t .b 0x0030 (rs s) s (fun _ => False)) ∧
    (s.highway.map.mic.isSome = true → r.state = .falling ∨ (r.state = .off ∧ s.air.hold = false) →
      ∃ t, Sys2Proof.Machine.exec (.micOpen .b) s = .next t ∧ t.air = s.air.withSource .mic (r.rampTo T S) ∧
        s.doneWithin t .b 0x0030 (rs t) ps (fun _ => False)) ∧
    (s.highway.map.mic.isSome = true → r.state = .held →
      ∃ t, Sys2Proof.Machine.exec (.micOpen .b) s = .next t ∧ t.air = s.air.withSource .mic { r with saved := some T } ∧
        s.doneWithin t .b 0x0030 (rs t) [.air] (fun _ => False)) ∧
    (s.highway.map.mic.isSome = true → r.state = .off → s.air.hold = true → T ≠ 0 →
      ∃ t, Sys2Proof.Machine.exec (.micOpen .b) s = .next t ∧
        t.air = s.air.withSource .mic ⟨.held, 0, { r.ramp with target := 0, running := false }, some T⟩ ∧
        s.doneWithin t .b 0x0030 (rs t) ps (fun _ => False)) ∧
    (s.highway.map.mic.isSome = true → r.state = .off → s.air.hold = true → T = 0 →
      ∃ t, Sys2Proof.Machine.exec (.micOpen .b) s = .next t ∧ s.doneOnly t .b 0x0030 (rs s) s (fun _ => False)) ∧
    (r.state = .rising ∨ r.state = .on →
      ∃ t, Sys2Proof.Machine.exec (.micClose .b) s = .next t ∧ t.air = s.air.withSource .mic (r.rampTo 0 S) ∧
        s.doneWithin t .b 0x0031 (rs t) ps (fun _ => False)) ∧
    (r.state = .held →
      ∃ t, Sys2Proof.Machine.exec (.micClose .b) s = .next t ∧ t.air = s.air.withSource .mic { r with saved := some 0 } ∧
        s.doneWithin t .b 0x0031 (rs t) [.air] (fun _ => False)) ∧
    (r.state = .falling ∨ r.state = .off →
      ∃ t, Sys2Proof.Machine.exec (.micClose .b) s = .next t ∧ s.doneOnly t .b 0x0031 (rs s) s (fun _ => False)) ∧
    ∀ (gain fade : Word) (G F : Nat) (a : AirMap), G = min gain.toNat 32768 → F = min fade.toNat 2000 →
      a = { s.air with micGain := G, micFade := F } →
      ∃ t, Sys2Proof.Machine.exec (.micGain .b gain fade) s = .next t ∧
        t.air = (match r.state with
          | .rising | .on => a.withSource .mic (r.rampTo G (F * 48))
          | .held => if 0 < r.saved.getD 0 then a.withSource .mic { r with saved := some G } else a
          | .falling | .off => a) ∧
        s.doneWithin t .b 0x0032 (rs t) ps (fun _ => False)

/-- The plain settings commands. DUCK_SET stores D and the duck time, clamped, and retargets K only while MIC is open and D
differs from the running target (R16); ARBITER_SET stores the burst limits, 16 to 256 (R58); LAMP_SET a lamp's duty, up to
255 (R196); DECK_NOTIFY a deck's notify mode, waiting BUSY with a deck held by a read (R64, R75, R84); ALERT_POLICY a
class's mode and forward delay, the airing settings, or a generator's tone settings, clamped (R112). A lamp, deck, mode,
part, class or generator that does not exist is BAD_PARAM. -/
def Obligations.SettingsCommands : Prop :=
  (∀ (s : State) (part : Word) (v1 v2 v3 v4 v5 : Word) (rest vs : List Word), s.accepts .c → rest.length ≤ 18 →
    vs = v1 :: v2 :: v3 :: v4 :: v5 :: rest →
    (2 < part.toNat ∨ (part = 0 ∧ (3 < v1.toNat ∨ 2 < v2.toNat)) ∨ (part = 2 ∧ 1 < v1.toNat) →
      ∃ t, Sys2Proof.Machine.exec (.alertPolicy .c part vs) s = .next t ∧ s.refusedOnly t .c 0x0052 .badParam) ∧
    (∀ (c : AlertClass) (m : ClassMode), part = 0 → v1.toNat = classCode c → v2.toNat = classModeCode m →
      ∃ t, Sys2Proof.Machine.exec (.alertPolicy .c part vs) s = .next t ∧
        s.doneOnly t .c 0x0052 [0, v1.toNat, v2.toNat, min v3.toNat 900]
          { s with alert := { s.alert with policy := s.alert.policy.set c ⟨m, min v3.toNat 900⟩ } }
          (inRecord .alertEngine)) ∧
    (part = 1 →
      ∃ t, Sys2Proof.Machine.exec (.alertPolicy .c part vs) s = .next t ∧
        s.doneOnly t .c 0x0052
          [1, min v1.toNat 500, min v2.toNat 2000, min v3.toNat 32768, min 600 (max 1 v4.toNat)]
          { s with alert :=
            { s.alert with
              preemptFade := min v1.toNat 500, restoreFade := min v2.toNat 2000, alertGain := min v3.toNat 32768
              maxMessage := min 600 (max 1 v4.toNat) } }
          (inRecord .alertEngine)) ∧
    ∀ (g : Generator) (t' : ToneSettings), part = 2 → v1.toNat = (match g with | .t1 => 0 | .t2 => 1) →
      t' = ⟨min v2.toNat 7, min v3.toNat 255, min (v4.toNat * 65536 + v5.toNat) 8388607⟩ →
      ∃ t, Sys2Proof.Machine.exec (.alertPolicy .c part vs) s = .next t ∧
        s.doneOnly t .c 0x0052 ([2, v1.toNat, t'.exponent, t'.reload] ++ words2 t'.amplitude)
          { s with alert := match g with
            | .t1 => { s.alert with tone1 := t' }
            | .t2 => { s.alert with tone2 := t' } }
          (inRecord .alertEngine)) ∧
  (∀ (s : State) (depth time : Word) (a : AirMap), s.accepts .b →
    a = { s.air with duckDepth := min depth.toNat 32768, duckTime := min time.toNat 2000 } →
    ∃ t, Sys2Proof.Machine.exec (.duckSet .b depth time) s = .next t ∧
      s.doneOnly t .b 0x0033 [min depth.toNat 32768, min time.toNat 2000]
        { s with air :=
          if (a.sources.mic.state = .rising ∨ a.sources.mic.state = .on) ∧ a.duckDepth ≠ a.duckRamp.target then
            { a with duckRamp := ⟨a.duck, a.duckDepth, max 1 (a.duckTime * 48), 0, true⟩ }
          else a } (fun _ => False)) ∧
  (∀ (s : State) (alert deck fallback : Word) (l1 l2 l3 : Nat), s.accepts .a →
    l1 = min 256 (max 16 alert.toNat) → l2 = min 256 (max 16 deck.toNat) → l3 = min 256 (max 16 fallback.toNat) →
    ∃ t, Sys2Proof.Machine.exec (.arbiterSet .a alert deck fallback) s = .next t ∧
      s.doneOnly t .a 0x0005 [l1, l2, l3]
        { s with arbiter := { s.arbiter with alertLimit := l1, deckLimit := l2, fallbackLimit := l3 } }
        (inRecord .storeSummary)) ∧
  (∀ (s : State) (lamp duty : Word) (l : Lamp), s.accepts .a →
    lamp = (match l with | .onAir => 0 | .caller => 1 | .alert => 2 | .link => 3) →
    ∃ t, Sys2Proof.Machine.exec (.lampSet .a lamp duty) s = .next t ∧
      s.doneOnly t .a 0x0061 [lamp.toNat, min duty.toNat 255]
        { s with lamps := { s.lamps with
            lamps := s.lamps.lamps.set l { s.lamps.lamps.get l with duty := min duty.toNat 255 } } }
        (inRecord .lamps)) ∧
  (∀ (s : State) (lamp duty : Word), s.accepts .a → 4 ≤ lamp.toNat →
    ∃ t, Sys2Proof.Machine.exec (.lampSet .a lamp duty) s = .next t ∧ s.refusedOnly t .a 0x0061 .badParam) ∧
  (∀ (s : State) (d : DeckId) (deck mode : Word) (m : NotifyMode), s.accepts .a → deck.toNat = d.number →
    (s.decks.get d).reading = none → mode = (match m with | .onStop => 0 | .onIdle => 1) →
    ∃ t, Sys2Proof.Machine.exec (.deckNotify .a deck mode) s = .next t ∧
      s.doneOnly t .a 0x0015 [deck.toNat, mode.toNat]
        { s with decks := s.decks.set d { s.decks.get d with notify := m } } (fun _ => False)) ∧
  (∀ (s : State) (d : DeckId) (deck mode : Word), s.accepts .a → deck.toNat = d.number →
    (s.decks.get d).reading.isSome = true →
    ∃ t, Sys2Proof.Machine.exec (.deckNotify .a deck mode) s = .next t ∧
      s.busyOnly t .a 0x0015 [deck, mode] (s.commandWaits d)) ∧
  ∀ (s : State) (deck mode : Word), s.accepts .a →
    deck.toNat < 1 ∨ 2 < deck.toNat ∨ (2 ≤ mode.toNat ∧ ∀ d, (s.decks.get d).reading = none) →
    ∃ t, Sys2Proof.Machine.exec (.deckNotify .a deck mode) s = .next t ∧ s.refusedOnly t .a 0x0015 .badParam

/-! ## The clip store -/

/-- CLIP_ALLOC starts a page search for its pairs, 1 to the store capacity, and leaves the mailbox BUSY; any command on the
clip table waits behind a running search, in order (R42, R43). PAGE_SEARCH_END gives the lowest run of free pages that fits
and the lowest FREE entry to a LOADING clip of the port, or answers NO_SPACE (R42). The requests that waited are taken then,
first come first: a CLIP_ALLOC among them begins a search of its own, behind which the rest wait on (R43). -/
def Obligations.ClipAllocFindsThePages : Prop :=
  (∀ (s : State) (p : Port) (pairs : Long), s.accepts p → p ≠ .b → s.storeFree →
    ∃ t, Sys2Proof.Machine.exec (.clipAlloc p pairs) s = .next t ∧
      s.busyOnly t p 0x0001 (longWords pairs)
        { s with clips :=
          { s.clips with search := some ⟨p, min (s.clips.totalPages * 8192) (max 1 pairs.toNat), 0⟩ } }) ∧
  (∀ (i : Instr) (c : Command) (s : State) (p : Port) (ws : List Word), i.issued = some (p, c, ws) →
    c ∈ [Command.clipAlloc, .clipCursor, .clipSeal, .clipFree] → c.permits p = true → s.accepts p → ¬ s.storeFree →
    ∃ t, Sys2Proof.Machine.exec i s = .next t ∧
      s.busyOnly t p c.code ws
        { s with clips := { s.clips with waiting := s.clips.waiting ++ [.command p] } }) ∧
  ∀ (s : State) (q : Search) (v : Running), s.runs → s.clips.inOrder → s.clips.search = some q →
    (s.ports.get q.port).running = some v → s.pageWord q.port 53 = v.value →
    (s.clips.waiting = [] →
      ∃ t, Sys2Proof.Machine.exec .pageSearchEnd s = .next t ∧ s.searched t q v ∧
        t.clips.search = none ∧ t.clips.waiting = []) ∧
    (∀ (w : ClipRequest) (rest : List ClipRequest), s.clips.waiting = w :: rest →
      ∃ (u : State) (n : Nat), s.searched u q v ∧ u.clips.search = none ∧ u.clips.waiting = rest ∧ rest.length < n ∧
        Sys2Proof.Machine.exec .pageSearchEnd s = .next (State.takeWaiting n (u.takeRequest w)).settle) ∧
    ∀ (p : Port) (params : List Word) (k : Nat) (rest : List ClipRequest), s.clips.waiting = .command p :: rest →
      p ≠ q.port → (s.ports.get p).running = some ⟨0x0001, params, k⟩ →
      ∃ t, Sys2Proof.Machine.exec .pageSearchEnd s = .next t ∧ s.searched t q v ∧ t.clips.waiting = rest ∧
        t.clips.search =
          some ⟨p,
            min (s.clips.totalPages * 8192)
              (max 1 ((params.getD 0 0).toNat * 65536 + (params.getD 1 0).toNat)), 0⟩

/-- CLIP_CURSOR sets the port's cursor, the offset held to the capacity, and drops what the port had read or gathered (R44).
CLIP_SEAL makes a LOADING clip of the port READY with its length, 1 to the capacity, once every pair that was in the port's
write buffer at the take has left it; SEAL_TAKEN completes it then, and a write grant left with void pairs alone ends, the
pairs it has written so far standing (R46, R49, R57, R184; how many is a free value, log 22). Their refusals keep the order of R44 and R49. That SEAL_TAKEN does nothing while a counted pair is left is
the model's choice (log 6), as is that a seal does not wait for another port's page search (log 39). -/
def Obligations.ClipCursorsAndSeals : Prop :=
  (∀ (s : State) (p : Port) (clip : Word) (offset : Long) (i : Fin 128) (off : Nat), s.accepts p → s.storeFree →
    clip.toNat = i.val → (s.clip i).state ≠ .free → off = min offset.toNat (s.clip i).capacity →
    ∃ t, Sys2Proof.Machine.exec (.clipCursor p clip offset) s = .next t ∧
      t.blocks = (s.endGrantOf (.port p) false).blocks ∧
      t.doneWith p 0x0002 ([i.val] ++ words2 off ++ [clipCode (s.clip i).state] ++ words2 (s.clip i).capacity) ∧
      (∀ q, (t.ports.get q).bare =
        if q = p then
          { (s.ports.get p).bare with
            cursor := some ⟨i, off⟩, partialPair := [], clipAhead := [], fetching := false, wordsRead := 0 }
        else (s.ports.get q).bare) ∧
      s.sameXmBut t (ownPage p)) ∧
  (∀ (s : State) (p : Port) (clip : Word) (offset length : Long), s.accepts p → s.storeFree → 128 ≤ clip.toNat →
    (∃ t, Sys2Proof.Machine.exec (.clipCursor p clip offset) s = .next t ∧ s.refusedOnly t p 0x0002 .badParam) ∧
    (p ≠ .b → ∃ t, Sys2Proof.Machine.exec (.clipSeal p clip length) s = .next t ∧
      s.refusedOnly t p 0x0003 .badParam)) ∧
  (∀ (s : State) (p : Port) (clip : Word) (offset length : Long) (i : Fin 128), s.accepts p → s.storeFree →
    clip.toNat = i.val → (s.clip i).state = .free →
    (∃ t, Sys2Proof.Machine.exec (.clipCursor p clip offset) s = .next t ∧ s.refusedOnly t p 0x0002 .notFound) ∧
    (p ≠ .b → ∃ t, Sys2Proof.Machine.exec (.clipSeal p clip length) s = .next t ∧
      s.refusedOnly t p 0x0003 .notFound)) ∧
  (∀ (s : State) (p : Port) (clip : Word) (length : Long) (i : Fin 128) (e : ClipEntry) (len : Nat), s.accepts p →
    p ≠ .b → s.storeFree → clip.toNat = i.val → s.clip i = e → len = min e.capacity (max 1 length.toNat) →
    (e.state ≠ .free → e.owner ≠ some p →
      ∃ t, Sys2Proof.Machine.exec (.clipSeal p clip length) s = .next t ∧ s.refusedOnly t p 0x0003 .notOwner) ∧
    (e.state ≠ .free → e.owner = some p → e.state ≠ .loading →
      ∃ t, Sys2Proof.Machine.exec (.clipSeal p clip length) s = .next t ∧ s.refusedOnly t p 0x0003 .badState) ∧
    (e.state = .loading → e.owner = some p → (s.ports.get p).writeBuffer = [] →
      ∀ u, u = s.writtenSoFar (s.writesTo i) →
        ∃ t, Sys2Proof.Machine.exec (.clipSeal p clip length) s = .next t ∧ u.seals t p i len ∧
          t.doneWith p 0x0003 ([i.val] ++ words2 len ++ words2 e.capacity) ∧
          u.frame t [.clips, .arbiter, .counters] (fun a => ownPage p a ∨ u.deadWord i a) ∧
          u.sameXmBut t (fun a => ownPage p a ∨ u.deadWord i a ∨ inRecord (.clip i) a)) ∧
    (e.state = .loading → e.owner = some p → (s.ports.get p).writeBuffer ≠ [] →
      ∃ t, Sys2Proof.Machine.exec (.clipSeal p clip length) s = .next t ∧ t.blocks = s.blocks ∧
        t.busyWith p 0x0003 (clip :: longWords length) ∧
        (∀ q, (t.ports.get q).bare =
          if q = p then
            { (s.ports.get p).bare with
              running := (t.ports.get p).running, sealing := some ⟨i, len⟩ }
          else (s.ports.get q).bare) ∧
        (∀ v ∈ (t.ports.get p).running, v.pairsLeft = (s.ports.get p).writeBuffer.length) ∧
        s.sameXmBut t (ownPage p))) ∧
  ∀ (s : State) (p : Port) (z : Seal) (v : Running), s.runs → (s.ports.get p).sealing = some z →
    (s.ports.get p).running = some v → s.pageWord p 53 = v.value →
    (v.pairsLeft ≠ 0 → Sys2Proof.Machine.exec (.sealTaken p) s = .next s) ∧
    (v.pairsLeft = 0 →
      ∀ u, u = s.writtenSoFar (s.writesTo z.clip) →
        ∃ t, Sys2Proof.Machine.exec (.sealTaken p) s = .next t ∧ u.seals t p z.clip z.length ∧
          t.doneWith p v.value ([z.clip.val] ++ words2 z.length ++ words2 (s.clip z.clip).capacity) ∧
          u.frame t [.clips, .arbiter, .counters] (fun a => ownPage p a ∨ u.deadWord z.clip a) ∧
          u.sameXmBut t (fun a => ownPage p a ∨ u.deadWord z.clip a ∨ inRecord (.clip z.clip) a))

/-- CLIP_FREE of a clip with no lock makes it FREE at once, one with locks RETIRING; its refusals keep their order (R50,
R51). A clip that becomes FREE ends a grant that reads or writes for it alone; the pairs written so far stand, the first of
two or neither, and the rest are counted (R46, R57; how many is a free value, log 22). LOCK_REQUEST adds a lock to a READY clip
and is refused with the state otherwise (R52); UNLOCK takes one off, and the last one of a RETIRING clip frees it (R53). Both
wait behind a page search (R43). The answer to LOCK_REQUEST is kept in the clip store (log 11); that its count goes on past
255 and that UNLOCK of a clip with no lock changes nothing is the model's choice (log 34). -/
def Obligations.ClipsAreFreedAndLocked : Prop :=
  (∀ (s : State) (p : Port) (clip : Word), s.accepts p → p ≠ .b → s.storeFree →
    (128 ≤ clip.toNat →
      ∃ t, Sys2Proof.Machine.exec (.clipFree p clip) s = .next t ∧ s.refusedOnly t p 0x0004 .badParam) ∧
    ∀ (i : Fin 128) (e : ClipEntry), clip.toNat = i.val → s.clip i = e →
      (e.state = .free →
        ∃ t, Sys2Proof.Machine.exec (.clipFree p clip) s = .next t ∧ s.refusedOnly t p 0x0004 .notFound) ∧
      (e.state ≠ .free → e.owner ≠ some p →
        ∃ t, Sys2Proof.Machine.exec (.clipFree p clip) s = .next t ∧ s.refusedOnly t p 0x0004 .notOwner) ∧
      (e.state ≠ .free → e.owner = some p → e.locks = 0 → s.clips.inOrder →
        (∀ u, u = s.writtenSoFar (s.writesTo i) →
          ∃ t, Sys2Proof.Machine.exec (.clipFree p clip) s = .next t ∧ u.frees t i ∧ t.doneWith p 0x0004 [0] ∧
            u.frame t [.clips, .arbiter, .counters] (fun a => ownPage p a ∨ u.freedWord i a)) ∧
        ((∀ g ∈ s.arbiter.grant, g.writes = false) → s.writtenSoFar (s.writesTo i) = s) ∧
        ∀ (g : Grant) (b x : BoundPair) (rest : List BoundPair) (m : Nat), s.arbiter.grant = some g → e.state = .loading →
          g.holder = .port p → g.writes = true → g.pairs = 2 → (s.ports.get p).writeBuffer = b :: x :: rest →
          b.clip = i → b.live = true → x.clip = i → x.live = true →
          m = s.counters[(Counter.clipWriteFaults p).index] →
          ∃ t, Sys2Proof.Machine.exec (.clipFree p clip) s = .next t ∧ t.arbiter.grant = none ∧ t.hasEvent p .accessFault ∧
            (t.ports.get p).writeBuffer = (rest.map fun y => if y.clip = i then { y with live := false } else y) ∧
            ((t.sdram = s.sdram ∧ t.counters[(Counter.clipWriteFaults p).index] = min 4294967295 (m + 2)) ∨
             (t.sdram = s.sdram.write (pairAddress e.first b.offset) (packPair b.pair) ∧
              t.counters[(Counter.clipWriteFaults p).index] = min 4294967295 (m + 1)))) ∧
      (e.state ≠ .free → e.owner = some p → e.locks ≠ 0 →
        ∃ t, Sys2Proof.Machine.exec (.clipFree p clip) s = .next t ∧
          s.doneOnly t p 0x0004 [3, e.locks]
            { s with clips := { s.clips with table := s.clips.table.set i { e with state := .retiring } } }
            (inRecord (.clip i)))) ∧
  (∀ (s : State) (i : Fin 128) (e : ClipEntry), s.runs → s.storeFree → s.clip i = e →
    (e.state = .ready →
      ∃ t, Sys2Proof.Machine.exec (.lockRequest i) s = .next t ∧
        s.changedTo t
          { s with clips := { s.clips with
              table := s.clips.table.set i { e with locks := e.locks + 1 }
              lockAnswer := some (.granted e.first e.pages e.sealed) } } (inRecord (.clip i))) ∧
    (e.state ≠ .ready →
      ∃ t, Sys2Proof.Machine.exec (.lockRequest i) s = .next t ∧
        s.changedTo t { s with clips := { s.clips with lockAnswer := some (.refused e.state) } } (fun _ => False)) ∧
    (e.locks = 0 → Sys2Proof.Machine.exec (.unlock i) s = .next s) ∧
    (e.locks ≠ 0 → (e.locks ≠ 1 ∨ e.state ≠ .retiring) →
      ∃ t, Sys2Proof.Machine.exec (.unlock i) s = .next t ∧
        s.changedTo t
          { s with clips := { s.clips with table := s.clips.table.set i { e with locks := e.locks - 1 } } }
          (inRecord (.clip i))) ∧
    (e.locks = 1 → e.state = .retiring → s.clips.inOrder →
      ∃ t, Sys2Proof.Machine.exec (.unlock i) s = .next t ∧ s.frees t i ∧
        s.frame t [.clips, .arbiter, .counters] (s.freedWord i))) ∧
  ∀ (s : State) (i : Fin 128), s.runs → ¬ s.storeFree →
    (∃ t, Sys2Proof.Machine.exec (.lockRequest i) s = .next t ∧
      s.changedTo t { s with clips := { s.clips with waiting := s.clips.waiting ++ [.lock i] } } (fun _ => False)) ∧
    ∃ t, Sys2Proof.Machine.exec (.unlock i) s = .next t ∧
      s.changedTo t { s with clips := { s.clips with waiting := s.clips.waiting ++ [.unlock i] } } (fun _ => False)

/-- ARBITER_GRANT gives the free interface to the requester R56 names, for the lesser of its burst limit and the pairs it has
left, or for up to two pairs of a port, and notes it as granted last in its class (R55, R56, R59). BURST_END moves the
burst's pairs, of a port's write grant up to two of those that stand in its buffer by then, and the arbiter chooses again; if
no request waits the reader goes on with what it has room for (R46, R57, R66). That a burst's pairs all move at BURST_END,
and that a port's grant is timed as one of two pairs, is the model's choice (log 22), as is that ARBITER_GRANT with the
interface taken or nothing requested changes nothing (log 6). -/
def Obligations.GrantsAndBursts : Prop :=
  (∀ (s : State) (w : Requester), s.clock.power ≠ .reset → s.arbiter.grant = none → s.grants w →
    Sys2Proof.Machine.exec .arbiterGrant s = .next
      { s with arbiter :=
        match w with
        | .alert =>
          { s.arbiter with
            lastAlert := true
            grant := some ⟨.alert, min s.arbiter.alertLimit s.alert.pairsLeft, false,
              32 + 4 * min s.arbiter.alertLimit s.alert.pairsLeft⟩ }
        | .deck d =>
          { s.arbiter with
            lastDeck := some d
            grant := some ⟨.deck d, min s.arbiter.deckLimit (s.decks.get d).pairsLeft, false,
              32 + 4 * min s.arbiter.deckLimit (s.decks.get d).pairsLeft⟩ }
        | .fallback =>
          { s.arbiter with
            lastFallback := true
            grant := some ⟨.fallback, s.arbiter.fallbackLimit, false, 32 + 4 * s.arbiter.fallbackLimit⟩ }
        | .port p =>
          { s.arbiter with
            lastPort := some p
            grant := some ⟨.port p, 2, decide ((s.ports.get p).writeBuffer ≠ []), 40⟩ } }) ∧
  (∀ s : State, s.clock.power ≠ .reset → (s.arbiter.grant ≠ none ∨ ∀ w, s.requests w = false) →
    Sys2Proof.Machine.exec .arbiterGrant s = .next s) ∧
  ∀ (s u : State) (g : Grant), s.clock.power ≠ .reset → s.arbiter.grant = some g →
    (match g.holder with
      | .alert => u = { s with arbiter := { s.arbiter with grant := none }, alert := s.alert.fetch s.sdram g.pairs }
      | .fallback =>
        u = { s with arbiter := { s.arbiter with grant := none }, deadAir := s.deadAir.fetch s.sdram g.pairs }
      | .deck d =>
        u = { s with
          arbiter := { s.arbiter with grant := none }
          decks := s.decks.set d ((s.decks.get d).fetch s.sdram g.pairs) }
      | .port p =>
        if g.writes = true then
          (∀ b ∈ (s.ports.get p).writeBuffer.take g.pairs, b.live = true ∧ (s.clip b.clip).state = .loading) ∧
          u = { s with
            arbiter := { s.arbiter with grant := none }
            sdram := ((s.ports.get p).writeBuffer.take g.pairs).foldl
              (fun m b => m.write (pairAddress (s.clip b.clip).first b.offset) (packPair b.pair)) s.sdram
            ports := s.ports.set p
              { s.ports.get p with
                writeBuffer := (s.ports.get p).writeBuffer.drop g.pairs
                running := (s.ports.get p).running.map fun z => { z with
                  pairsLeft := z.pairsLeft - min g.pairs (s.ports.get p).writeBuffer.length } } }
        else
          ∃ c, (s.ports.get p).cursor = some c ∧
            u = { s with
              arbiter := { s.arbiter with grant := none }
              ports := s.ports.set p
                { s.ports.get p with
                  clipAhead := (s.ports.get p).clipAhead ++
                    (fetchPairs s.sdram (s.clip c.clip).first (s.ports.get p).fetchOffset
                      (min g.pairs (s.portRoom p))).flatMap pairWords
                  fetchOffset := (s.ports.get p).fetchOffset + min g.pairs (s.portRoom p) } }) →
    ((∃ w, u.requests w = true) → Sys2Proof.Machine.exec .burstEnd s = Sys2Proof.Machine.exec .arbiterGrant u) ∧
    ((∀ w, u.requests w = false) →
      ∀ n, n = min (min (u.arbiter.limit g.holder) (u.readerRoom g.holder)) (u.readerLeft g.holder) →
        Sys2Proof.Machine.exec .burstEnd s = .next
          (if 0 < n then
            { u with arbiter := { u.arbiter.noteLast g.holder with grant := some ⟨g.holder, n, false, 32 + 4 * n⟩ } }
           else u))

/-- A burst fetches in play order: a deck's goes on with the pairs of the current cue's clip and then, once that is fetched,
of the next cue's, as far as buffer and cue have room; the alert reader's with its message; the fallback reader's round its
clip (R37, R66, R132, R145). A pair whose clip has left LOADING is discarded and counted as it leaves the write buffer, and
ACCESS_FAULT is raised, while the other pair of its burst is written (R46); when it leaves is log 22. -/
def Obligations.FetchesFollowTheClips : Prop :=
  (∀ (m : Mem 48) (r : DeckRec) (c : Cue) (n k : Nat), r.current = some c → c.fetched < c.length →
    k = min (min n (4096 - r.buffer.length)) (c.length - c.fetched) →
    r.fetch m n =
      { r with
        buffer := r.buffer ++ (List.range k).map fun j =>
          ⟨(m.read ((c.first + (c.start + c.fetched + j) / 8192) * 65536 + (c.start + c.fetched + j) % 8192 * 8)).extractLsb'
              24 24,
            (m.read ((c.first + (c.start + c.fetched + j) / 8192) * 65536 + (c.start + c.fetched + j) % 8192 * 8)).extractLsb'
              0 24⟩
        current := some { c with fetched := c.fetched + k } }) ∧
  (∀ (m : Mem 48) (r : DeckRec) (c x : Cue) (n k : Nat), r.current = some c → c.length ≤ c.fetched → r.next = some x →
    k = min (min n (4096 - r.buffer.length)) (x.length - x.fetched) →
    r.fetch m n =
      { r with
        buffer := r.buffer ++ fetchPairs m x.first (x.start + x.fetched) k
        next := some { x with fetched := x.fetched + k } }) ∧
  (∀ (m : Mem 48) (e : AlertEngine) (f n k : Nat), e.reader.bound = some f →
    k = min (min n (4096 - e.reader.buffer.length)) (e.messageLength - e.reader.fetched) →
    e.fetch m n =
      { e with reader := ⟨some f, e.reader.fetched + k, e.reader.buffer ++ fetchPairs m f e.reader.fetched k⟩ }) ∧
  (∀ (m : Mem 48) (d : DeadAir) (b : FallbackBinding) (n k : Nat), d.binding = some b →
    k = min n (4096 - d.buffer.length) →
    d.fetch m n =
      { d with
        buffer := d.buffer ++ (List.range k).map fun j =>
          unpackPair (m.read (pairAddress b.first ((d.fetchPosition + j) % b.sealed)))
        fetchPosition := (d.fetchPosition + k) % b.sealed }) ∧
  ∀ (s : State) (p : Port) (g : Grant) (b x y z : BoundPair) (rest : List BoundPair), s.clock.power ≠ .reset →
    s.arbiter.grant = some g → g.holder = .port p → g.writes = true → g.pairs = 2 →
    (s.ports.get p).writeBuffer = b :: x :: rest → (y = b ∧ z = x) ∨ (y = x ∧ z = b) →
    y.live = false ∨ (s.clip y.clip).state ≠ .loading → z.live = true → (s.clip z.clip).state = .loading →
    ∃ t, Sys2Proof.Machine.exec .burstEnd s = .next t ∧ (t.ports.get p).writeBuffer = rest ∧ t.hasEvent p .accessFault ∧
      t.sdram = s.sdram.write (pairAddress (s.clip z.clip).first z.offset) (packPair z.pair) ∧
      t.counters = (s.count (.clipWriteFaults p)).counters ∧
      s.frame t [.counters, .arbiter, .sdram] (fun a => a = base p + 51)

/-- A word written through location 2 drops the port's read-ahead. The first three gather in the partial pair; the fourth
makes the pair, which enters the write buffer bound to the cursor and moves it on if the clip takes it, or else counts a
write fault; a full write buffer holds it by WAIT until HELD_WRITE_RELEASED, and the pair is then checked against the cursor
as it stands, which a freed clip has made none (R38, R45, R47, R48, R178; log 38). That HELD_WRITE_RELEASED with the buffer
still full changes nothing is the model's choice (log 6). -/
def Obligations.ClipDataWrites : Prop :=
  (∀ (s : State) (p : Port) (w : Word) (q : PortState), s.clock.power ≠ .reset → (s.ports.get p).wait = none →
    q = { s.ports.get p with clipAhead := [], fetching := false, wordsRead := 0 } →
    (q.partialPair.length < 3 →
      Sys2Proof.Machine.exec (.clipDataWrite p w) s = .next
        { s.endGrantOf (.port p) false with
          ports := s.ports.set p { q with partialPair := q.partialPair ++ [w] } }) ∧
    (∀ w1 w2 w3, q.partialPair = [w1, w2, w3] → 8 ≤ q.writeBuffer.length →
      Sys2Proof.Machine.exec (.clipDataWrite p w) s = .next
        { s.endGrantOf (.port p) false with
          ports := s.ports.set p
            { q with wait := some (.write ⟨w1 ++ w2.extractLsb' 8 8, w3 ++ w.extractLsb' 8 8⟩) } }) ∧
    (∀ w1 w2 w3, q.partialPair = [w1, w2, w3] → q.writeBuffer.length < 8 →
      (∀ c, s.accepting p c →
        Sys2Proof.Machine.exec (.clipDataWrite p w) s = .next
          { s.endGrantOf (.port p) false with
            ports := s.ports.set p
              { q with
                partialPair := []
                writeBuffer := q.writeBuffer ++
                  [⟨c.clip, c.offset, ⟨w1 ++ w2.extractLsb' 8 8, w3 ++ w.extractLsb' 8 8⟩, true⟩]
                cursor := some { c with offset := c.offset + 1 } } }) ∧
      ((∀ c, ¬ s.accepting p c) →
        ∃ t, Sys2Proof.Machine.exec (.clipDataWrite p w) s = .next t ∧
          t.blocks = ((s.endGrantOf (.port p) false).count (.clipWriteFaults p)).blocks ∧
          (∀ r, (t.ports.get r).bare =
            if r = p then { q.bare with partialPair := [] } else (s.ports.get r).bare) ∧
          t.hasEvent p .accessFault ∧ s.sameXmBut t (fun a => a = base p + 51)))) ∧
  ∀ (s : State) (p : Port) (v : Pair) (q : PortState), s.clock.power ≠ .reset → s.ports.get p = q →
    q.wait = some (.write v) →
    (8 ≤ q.writeBuffer.length → Sys2Proof.Machine.exec (.heldWriteReleased p) s = .next s) ∧
    (q.writeBuffer.length < 8 → ∀ c, s.accepting p c →
      Sys2Proof.Machine.exec (.heldWriteReleased p) s = .next
        { s with
          ports := s.ports.set p
            { q with
              wait := none, partialPair := [], writeBuffer := q.writeBuffer ++ [⟨c.clip, c.offset, v, true⟩]
              cursor := some { c with offset := c.offset + 1 } } }) ∧
    (q.writeBuffer.length < 8 → (∀ c, ¬ s.accepting p c) →
      ∃ t, Sys2Proof.Machine.exec (.heldWriteReleased p) s = .next t ∧
        t.blocks = (s.count (.clipWriteFaults p)).blocks ∧
        (∀ r, (t.ports.get r).bare =
          if r = p then { q.bare with wait := none, partialPair := [] } else (s.ports.get r).bare) ∧
        t.hasEvent p .accessFault ∧ s.sameXmBut t (fun a => a = base p + 51))

/-- A read through location 2 drops a partial pair uncounted. It returns 0 with no cursor or at the capacity, else the oldest
word of the read-ahead, the fourth word of a pair moving the cursor on; with no word there it starts fetching at the cursor
and WAIT holds it until HELD_READ_RELEASED, which returns the word that came, or 0 if the cursor went (R45, R47, R178) or
was set to its clip's capacity (log 43). That HELD_READ_RELEASED with no word there changes nothing is the model's choice
(log 6). -/
def Obligations.ClipDataReads : Prop :=
  (∀ (s : State) (p : Port) (q : PortState), s.clock.power ≠ .reset → (s.ports.get p).wait = none →
    q = { s.ports.get p with partialPair := [] } →
    ((∀ c, q.cursor = some c → (s.clip c.clip).capacity ≤ c.offset) →
      Sys2Proof.Machine.exec (.clipDataRead p) s = .next { s with ports := s.ports.set p { q with readData := 0 } }) ∧
    ∀ c, q.cursor = some c → c.offset < (s.clip c.clip).capacity →
      (q.fetching = false →
        Sys2Proof.Machine.exec (.clipDataRead p) s = .next
          { s with
            ports := s.ports.set p
              { q with
                fetching := true, fetchOffset := c.offset, clipAhead := [], wordsRead := 0, wait := some .read } }) ∧
      (q.fetching = true → q.clipAhead = [] →
        Sys2Proof.Machine.exec (.clipDataRead p) s = .next
          { s with ports := s.ports.set p { q with wait := some .read } }) ∧
      ∀ w t, q.fetching = true → q.clipAhead = w :: t →
        Sys2Proof.Machine.exec (.clipDataRead p) s = .next
          { s with
            ports := s.ports.set p
              { q with
                readData := w, clipAhead := t
                wordsRead := if q.wordsRead = 3 then 0 else q.wordsRead + 1
                cursor := some (if q.wordsRead = 3 then { c with offset := c.offset + 1 } else c) } }) ∧
  ∀ (s : State) (p : Port) (q : PortState), s.clock.power ≠ .reset → s.ports.get p = q → q.wait = some .read →
    ((∀ c, q.cursor = some c → (s.clip c.clip).capacity ≤ c.offset) →
      Sys2Proof.Machine.exec (.heldReadReleased p) s = .next
        { s with ports := s.ports.set p { q with readData := 0, wait := none } }) ∧
    ∀ c, q.cursor = some c → c.offset < (s.clip c.clip).capacity →
      (q.clipAhead = [] → Sys2Proof.Machine.exec (.heldReadReleased p) s = .next s) ∧
      ∀ w t, q.fetching = true → q.clipAhead = w :: t →
        Sys2Proof.Machine.exec (.heldReadReleased p) s = .next
          { s with
            ports := s.ports.set p
              { q with
                readData := w, clipAhead := t, wait := none
                wordsRead := if q.wordsRead = 3 then 0 else q.wordsRead + 1
                cursor := some (if q.wordsRead = 3 then { c with offset := c.offset + 1 } else c) } }

/-! ## The decks -/

/-- DECK_LOAD of an IDLE deck reads the record: a good one locks its clip, is written QUEUED and becomes the current cue of a
LOADING deck; a faulty one is marked, raised and counted and leaves the deck IDLE, and DONE reports the fault (R63, R64,
R69, R74). A deck that is not IDLE is BAD_STATE, no deck BAD_PARAM; behind a page search the deck waits with the record, and a
command that meets a deck so held waits, BUSY (R64, R84). An OUT_OF_RANGE record's clip is locked and given back in the act,
which rewrites its clip record twice (R41, R64). That a faulty record's DONE has 0xFFFF for the cue address is the model's
choice (log 23), and that a load leaves the fault streak 0 its reading of R62 (log 24). -/
def Obligations.DeckLoadReadsTheRecord : Prop :=
  ∀ (s : State) (deck address : Word) (a : Nat) (r : DeckRec), s.accepts .a → address.toNat = a →
    (deck.toNat < 1 ∨ 2 < deck.toNat →
      ∃ t, Sys2Proof.Machine.exec (.deckLoad .a deck address) s = .next t ∧ s.refusedOnly t .a 0x0010 .badParam) ∧
    (∀ d : DeckId, deck.toNat = d.number → (s.decks.get d).reading.isSome = true →
      ∃ t, Sys2Proof.Machine.exec (.deckLoad .a deck address) s = .next t ∧
        s.busyOnly t .a 0x0010 [deck, address] (s.commandWaits d)) ∧
    ∀ d : DeckId, deck.toNat = d.number → (s.decks.get d).reading = none →
      r = { s.decks.get d with faultStreak := 0, playPending := false, lookahead := .notMade } →
      (r.state ≠ .idle →
        ∃ t, Sys2Proof.Machine.exec (.deckLoad .a deck address) s = .next t ∧ s.refusedOnly t .a 0x0010 .badState) ∧
      (∀ (i : Fin 128) (e : ClipEntry) (c : Cue) (w : Nat → Nat), r.state = .idle → s.goodRecord a i → s.clip i = e →
        (∀ n, w n = (s.xm.read (a + n)).toNat) →
        c = { address := a
              ends := (s.xm.read (a + 1)).getLsbD 0, holds := (s.xm.read (a + 1)).getLsbD 1
              notifies := (s.xm.read (a + 1)).getLsbD 2, segues := (s.xm.read (a + 1)).getLsbD 3
              clip := i, first := e.first, pages := e.pages, start := w 3 * 65536 + w 4
              length :=
                if w 5 * 65536 + w 6 = 0 then e.sealed - (w 3 * 65536 + w 4)
                else min (w 5 * 65536 + w 6) (e.sealed - (w 3 * 65536 + w 4))
              gain := min (w 7) 32768
              fadeIn := min (w 8) 10000 * 48, fadeOut := min (w 9) 10000 * 48, segue := min (w 10) 10000 * 48
              played := 0, fetched := 0, fadeDone := false, segueDone := false } →
        ∃ t, Sys2Proof.Machine.exec (.deckLoad .a deck address) s = .next t ∧
          t.decks = s.decks.set d { r with state := .loading, current := some c, next := none } ∧
          t.clips = s.lockTaken i ∧ t.completion a .queued 0 none ∧
          s.doneWithin t .a 0x0010 [d.number, 1, a, 0] [.decks, .clips] (completionWord a)) ∧
      (∀ f : CueFault, r.state = .idle → s.faultyRecord a f →
        ∃ t, Sys2Proof.Machine.exec (.deckLoad .a deck address) s = .next t ∧ s.marksFault t a f ∧
          t.decks = s.decks.set d { r with lastFault := some (a, f) } ∧
          (r.notify = .onIdle → ∀ p, t.hasEvent p .deckStopped) ∧ t.clips = s.clips ∧
          (∀ i : Fin 128, f = .outOfRange → (s.xm.read (a + 2)).toNat = i.val →
            t.xm.read (RecordId.clip i).place = s.xm.read (RecordId.clip i).place + 2) ∧
          s.doneWithin t .a 0x0010 [d.number, 0, 0xFFFF, cueFaultCode f] [.decks, .counters]
            (fun b => eventWord b ∨ (f ≠ .badAddress ∧ completionWord a b) ∨ s.lockedWord a f b)) ∧
      (r.state = .idle → inCueArea a → (s.xm.read (a + 2)).toNat < 128 → ¬ s.storeFree →
        ∃ t, Sys2Proof.Machine.exec (.deckLoad .a deck address) s = .next t ∧
          s.busyOnly t .a 0x0010 [deck, address]
            { s with
              decks := s.decks.set d { r with reading := some ⟨a, s.xm.readBlock a 16, .load⟩ }
              clips := { s.clips with waiting := s.clips.waiting ++ [.deckRead d] } })

/-- DECK_PLAY of a CUED deck starts its cue, of a LOADING one sets play-pending; any other state is BAD_STATE (R67, R70).
DECK_PRIMED makes a LOADING deck with 2048 pairs, or all its pairs, CUED, or starts it if play is pending (R68). The segue
signal starts a CUED deck, sets play-pending on a LOADING one, and is missed, raised and counted, by any other (R80). A cue
that starts under hold is deferred and leaves its deck HELD (R8, R67, R82); one whose segue point is its first pair signals
the other deck as it starts, which may start a cue there in turn (R67, R80). No deck is BAD_PARAM, and a DECK_PLAY that meets
a deck held by a read waits, BUSY (R64, R84). That DECK_PRIMED out of turn changes nothing is the model's choice (log 6), and
that a signal waits for a deck a read holds its reading of R64 (log 25). -/
def Obligations.DecksStart : Prop :=
  (∀ (s : State) (deck : Word), s.accepts .a → deck.toNat < 1 ∨ 2 < deck.toNat →
    ∃ t, Sys2Proof.Machine.exec (.deckPlay .a deck) s = .next t ∧ s.refusedOnly t .a 0x0011 .badParam) ∧
  (∀ (s : State) (deck : Word) (d : DeckId), s.accepts .a → deck.toNat = d.number →
    (s.decks.get d).reading.isSome = true →
    ∃ t, Sys2Proof.Machine.exec (.deckPlay .a deck) s = .next t ∧ s.busyOnly t .a 0x0011 [deck] (s.commandWaits d)) ∧
  (∀ (s : State) (deck : Word) (d : DeckId) (r : DeckRec), s.accepts .a → deck.toNat = d.number → s.decks.get d = r →
    r.reading = none →
    (r.state ≠ .cued → r.state ≠ .loading →
      ∃ t, Sys2Proof.Machine.exec (.deckPlay .a deck) s = .next t ∧ s.refusedOnly t .a 0x0011 .badState) ∧
    (r.state = .loading →
      ∃ t, Sys2Proof.Machine.exec (.deckPlay .a deck) s = .next t ∧
        s.doneOnly t .a 0x0011 [d.number, 1, 1] { s with decks := s.decks.set d { r with playPending := true } }
          (fun _ => False)) ∧
    ∀ c, r.state = .cued → r.current = some c → s.startable d c →
      ∃ t, Sys2Proof.Machine.exec (.deckPlay .a deck) s = .next t ∧ s.started t d c r ∧
        s.doneWithin t .a 0x0011 [d.number, deckCode (t.decks.get d).state, flag r.playPending] [.air, .decks, .counters]
          (s.startWord d c)) ∧
  (∀ (s : State) (d : DeckId) (r : DeckRec) (c : Cue), s.runsOwing → s.decks.get d = r → r.current = some c →
    (r.state ≠ .loading ∨ r.reading ≠ none ∨ (r.buffer.length < 2048 ∧ c.fetched < c.length) →
      Sys2Proof.Machine.exec (.deckPrimed d) s = .next s) ∧
    (r.state = .loading → r.reading = none → 2048 ≤ r.buffer.length ∨ c.length ≤ c.fetched →
      (r.playPending = false →
        ∃ t, Sys2Proof.Machine.exec (.deckPrimed d) s = .next t ∧
          s.changedTo t { s with decks := s.decks.set d { r with state := .cued } } (inRecord (.deck d))) ∧
      (r.playPending = true → s.startable d c →
        ∃ t, Sys2Proof.Machine.exec (.deckPrimed d) s = .next t ∧ s.started t d c { r with playPending := false } ∧
          s.within t [.air, .decks, .counters] (s.startWord d c)))) ∧
  ∀ (s : State) (d : DeckId) (r : DeckRec), s.runs → s.decks.get d = r →
    (r.reading.isSome = true →
      ∃ t, Sys2Proof.Machine.exec (.segueSignal d) s = .next t ∧
        s.changedTo t { s with decks := s.decks.set d { r with inbox := r.inbox ++ [⟨r.played, .segue⟩] } } (fun _ => False)) ∧
    (∀ c, r.reading = none → r.state = .cued → r.current = some c → s.startable d c →
      ∃ t, Sys2Proof.Machine.exec (.segueSignal d) s = .next t ∧ s.started t d c r ∧
        s.within t [.air, .decks, .counters] (s.startWord d c)) ∧
    (r.reading = none → r.state = .loading →
      ∃ t, Sys2Proof.Machine.exec (.segueSignal d) s = .next t ∧
        s.changedTo t { s with decks := s.decks.set d { r with playPending := true } } (fun _ => False)) ∧
    (r.reading = none → r.state ≠ .cued → r.state ≠ .loading →
      ∃ t, Sys2Proof.Machine.exec (.segueSignal d) s = .next t ∧ (∀ p, t.hasEvent p .segueMissed) ∧
        s.changedTo t (s.count .segueMissed) eventWord)

/-- DECK_STOP and DECK_SKIP of a PLAYING deck ramp its source to 0 over the fade, up to 10,000 ms, and leave the end pending;
of a deck whose source is HELD and not yet silent they make 0 its saved target and leave the end pending (R8, R76, R78).
DECK_STOP of a LOADING or CUED deck ends at once: CUT with the played count, the locks of both cues given back, the next cue
PENDING again, the deck IDLE; of a SUSPENDED one it clears the resume address; IDLE is BAD_STATE, and so is a DECK_SKIP with
no cue on the air or a stop pending (R63, R74 to R78). A DECK_SKIP that completes at once and whose lookahead waits for a
lock leaves its mailbox BUSY (R84). No deck is BAD_PARAM, and a command that meets a deck held by a read waits, BUSY (R64,
R84). A deck takes each of the mixer's takes whole (R71, R84): a command behind the take of a cue's last pair finds the cue
ended, PLAYED, and one behind the take that reached the segue point finds the signal sent, also before CUE_END or
CUE_SEGUE_POINT comes; that no row need come between is the model's reading (log 49). -/
def Obligations.DeckStopsAndSkipsFade : Prop :=
  (∀ (s : State) (deck fade : Word) (d : DeckId) (r : DeckRec) (c : Cue), s.acceptsOwing .a → deck.toNat = d.number →
    s.decks.get d = r → (s.decks.get d.other).owes = false → r.reading = none → r.pendingEnd = .none →
    r.state = .playing ∨ r.state = .held → r.current = some c → r.fadeDue = false →
    (c.length ≤ c.played → r.segueDue = false → r.next = none → r.lookahead = .none → c.holds = false → c.ends = true →
      inCueArea c.address → s.keepsClip c.clip →
      ∀ n code, (n = Instr.deckStop .a deck fade ∧ code = 0x0012) ∨ (n = .deckSkip .a deck fade ∧ code = 0x0013) →
        ∃ t, Sys2Proof.Machine.exec n s = .next t ∧ t.completion c.address .played c.length none ∧
          (c.notifies = true → ∀ p, t.hasEvent p .cueDone) ∧ (∀ p, t.hasEvent p .deckStopped) ∧
          t.decks = s.decks.set d (r.atRest none) ∧ t.clips = s.lockReleased c.clip ∧
          (t.air.sources.get (.deck d)).state = .off ∧
          t.air = s.air.withSource (.deck d) (t.air.sources.get (.deck d)) ∧ t.refusedWith .a code .badState ∧
          s.samePorts t ∧ s.frame t [.air, .decks, .clips, .arbiter]
            (fun b => ownPage .a b ∨ eventWord b ∨ completionWord c.address b)) ∧
    ∀ (o : DeckRec) (a : SourceRec) (F : Nat), s.decks.get d.other = o → s.air.sources.get (.deck d) = a →
      F = min fade.toNat 10000 → c.played < c.length → r.segueDue = true → r.lookaheadDue = false → r.heldSilent = false →
      (r.state = .playing ∧ 0 < a.level ∧ a.state ≠ .off) ∨ a.state = .held →
      o.reading = none → o.state ≠ .cued → o.state ≠ .loading →
      ∀ n code e, (n = Instr.deckStop .a deck fade ∧ code = 0x0012 ∧ e = .stop) ∨
          (n = .deckSkip .a deck fade ∧ code = 0x0013 ∧ e = .skip) →
        ∃ t, Sys2Proof.Machine.exec n s = .next t ∧ (∀ p, t.hasEvent p .segueMissed) ∧
          t.counters = (s.count .segueMissed).counters ∧ t.air = s.air.ramped (.deck d) 0 (F * 48) ∧
          t.decks = s.decks.set d
            { r with current := some { c with segueDone := true }, pendingEnd := e, pendingFade := F } ∧
          s.doneWithin t .a code [d.number, deckCode r.state, F] [.air, .decks, .counters] eventWord) ∧
  (∀ (s : State) (deck fade : Word), s.accepts .a → deck.toNat < 1 ∨ 2 < deck.toNat →
    (∃ t, Sys2Proof.Machine.exec (.deckStop .a deck fade) s = .next t ∧ s.refusedOnly t .a 0x0012 .badParam) ∧
    ∃ t, Sys2Proof.Machine.exec (.deckSkip .a deck fade) s = .next t ∧ s.refusedOnly t .a 0x0013 .badParam) ∧
  (∀ (s : State) (deck fade : Word) (d : DeckId), s.accepts .a → deck.toNat = d.number →
    (s.decks.get d).reading.isSome = true →
    (∃ t, Sys2Proof.Machine.exec (.deckStop .a deck fade) s = .next t ∧
      s.busyOnly t .a 0x0012 [deck, fade] (s.commandWaits d)) ∧
    ∃ t, Sys2Proof.Machine.exec (.deckSkip .a deck fade) s = .next t ∧
      s.busyOnly t .a 0x0013 [deck, fade] (s.commandWaits d)) ∧
  ∀ (s : State) (deck fade : Word) (d : DeckId) (r : DeckRec) (a : SourceRec) (F : Nat), s.accepts .a →
    deck.toNat = d.number → s.decks.get d = r → r.reading = none → F = min fade.toNat 10000 →
    s.air.sources.get (.deck d) = a →
    (r.state = .idle →
      ∃ t, Sys2Proof.Machine.exec (.deckStop .a deck fade) s = .next t ∧ s.refusedOnly t .a 0x0012 .badState) ∧
    ((r.state ≠ .playing ∧ r.state ≠ .held) ∨ r.pendingEnd = .stop →
      ∃ t, Sys2Proof.Machine.exec (.deckSkip .a deck fade) s = .next t ∧ s.refusedOnly t .a 0x0013 .badState) ∧
    ((r.state = .playing ∧ 0 < a.level ∧ a.state ≠ .held ∧ a.state ≠ .off) ∨
        ((r.state = .playing ∨ r.state = .held) ∧ a.state = .held) →
      r.heldSilent = false →
      (∃ t, Sys2Proof.Machine.exec (.deckStop .a deck fade) s = .next t ∧ t.air = s.air.ramped (.deck d) 0 (F * 48) ∧
        t.decks = s.decks.set d { r with pendingEnd := .stop, pendingFade := F } ∧
        s.doneWithin t .a 0x0012 [d.number, deckCode r.state, F] [.air, .decks] (fun _ => False)) ∧
      (r.pendingEnd ≠ .stop →
        ∃ t, Sys2Proof.Machine.exec (.deckSkip .a deck fade) s = .next t ∧
          t.air = s.air.ramped (.deck d) 0 (F * 48) ∧
          t.decks = s.decks.set d { r with pendingEnd := .skip, pendingFade := F } ∧
          s.doneWithin t .a 0x0013 [d.number, deckCode r.state, F] [.air, .decks] (fun _ => False))) ∧
    (∀ c, r.state = .loading ∨ r.state = .cued → r.current = some c → inCueArea c.address → r.nextApart c.address →
      s.keepsClips r.clips →
      ∃ t, Sys2Proof.Machine.exec (.deckStop .a deck fade) s = .next t ∧ t.completion c.address .cut c.played none ∧
        t.abandons r ∧ t.decks = s.decks.set d (r.atRest none) ∧ t.clips = s.clips.released r.clips ∧
        (t.air.sources.get (.deck d)).state = .off ∧
        t.air = s.air.withSource (.deck d) (t.air.sources.get (.deck d)) ∧
        (c.notifies = true → ∀ p, t.hasEvent p .cueDone) ∧
        (r.notify = .onIdle → ∀ p, t.hasEvent p .deckStopped) ∧
        s.doneWithin t .a 0x0012 [d.number, 0, F] [.air, .decks, .clips, .arbiter]
          (fun b => eventWord b ∨ completionWord c.address b ∨ r.nextWord b)) ∧
    (r.state = .suspended → r.current = none → r.next = none → a.state = .off →
      ∃ t, Sys2Proof.Machine.exec (.deckStop .a deck fade) s = .next t ∧ t.decks = s.decks.set d (r.atRest none) ∧
        (r.notify = .onIdle → ∀ p, t.hasEvent p .deckStopped) ∧
        s.doneWithin t .a 0x0012 [d.number, 0, F] [.decks, .arbiter] eventWord) ∧
    ∀ (c : Cue) (link : Nat), r.state = .playing → r.pendingEnd = .none → a.state = .off → a.level = 0 →
      r.current = some c → r.next = none → r.lookahead = .notMade → c.holds = false → inCueArea c.address →
      ¬ s.storeFree → link = (s.xm.read c.address).toNat → inCueArea link → (s.xm.read (link + 2)).toNat < 128 →
      readApart c.address link →
      ∃ t, Sys2Proof.Machine.exec (.deckSkip .a deck fade) s = .next t ∧
        t.busyWith .a 0x0013 [deck, fade] ∧ t.completion c.address .cut c.played none ∧
        (∃ ws, (t.decks.get d).reading = some ⟨link, ws, .skip c.address c.ends⟩ ∧
          ∀ n ≤ 10, ws.getD n 0 = s.xm.read (link + n)) ∧
        (t.decks.get d).skipReply = some F ∧ (t.decks.get d).current = none ∧
        t.clips = { s.clips with waiting := s.clips.waiting ++ [.unlock c.clip, .deckRead d] } ∧
        s.frame t [.air, .decks, .clips, .arbiter]
          (fun b => ownPage .a b ∨ eventWord b ∨ completionWord c.address b)

/-- A stop or skip completes as the source comes OFF, as it falls silent under hold, as the cue's last pair is taken, or in
the command itself with the source OFF or silent: CUT with the played count, CUE_DONE for NOTIFY and the lock given back
(R73, R76, R78). A stop gives up the next cue too, which is PENDING again, and leaves the deck IDLE (R63, R74). A skip goes
on: a next cue starts, with the skipped cue's pairs dropped and, where it cuts the cue short, the deck's running grant ended,
its pairs already moved standing (R57, R66; how many is a free value, log 22), signalling the other deck if its segue point is its first pair (R67); with HOLD set, or the walk exhausted, the deck is
SUSPENDED at the skipped cue; at the end of a chain with END set it is IDLE, with END clear the link is read again, and a
lookahead not yet made is made then; a cue found there loads with play pending (R72, R73, R78). That a skip which completes
with every pair of the cue taken ends no grant is the model's reading of R66 (log 40). -/
def Obligations.StopsAndSkipsComplete : Prop :=
  ∀ (s : State) (d : DeckId) (e : PendingEnd) (n : Instr) (r x y : DeckRec) (c k : Cue) (link : Nat),
    s.completes d e n r → r.current = some c → inCueArea c.address → s.keepsClip c.clip →
    y = (if c.played < c.length then r.fetch s.sdram (s.cutPairs d) else r) → y.current = some k →
    x = { y with pendingEnd := .none, next := none, buffer := y.buffer.drop (k.fetched - k.played) } →
    link = (s.xm.read c.address).toNat →
    (e = .stop → r.nextApart c.address → s.keepsClips r.clips →
      ∃ t, Sys2Proof.Machine.exec n s = .next t ∧ t.completion c.address .cut c.played none ∧ t.abandons r ∧
        t.decks = s.decks.set d (r.atRest none) ∧ t.clips = s.clips.released r.clips ∧
        (t.air.sources.get (.deck d)).state = .off ∧
        t.air = s.air.withSource (.deck d) (t.air.sources.get (.deck d)) ∧
        t.arbiter = (s.endGrantOf (.deck d) false).arbiter ∧
        (c.notifies = true → ∀ p, t.hasEvent p .cueDone) ∧ (∀ p, t.hasEvent p .deckStopped) ∧ t.endAnswer d n ∧
        s.samePorts t ∧ s.frame t [.air, .decks, .clips, .arbiter]
          (fun b => endPage n b ∨ eventWord b ∨ completionWord c.address b ∨ r.nextWord b)) ∧
    (∀ m, e = .skip → y.next = some m → r.lookahead ≠ .notMade ∨ c.holds = true → apart c.address m.address →
      s.followable d m → (∀ q ∈ s.followed d m, apart c.address q.address) →
      ∃ t, Sys2Proof.Machine.exec n s = .next t ∧ t.completion c.address .cut c.played none ∧
        s.started t d m { x with lookahead := .notMade } ∧ t.clips = s.lockReleased c.clip ∧
        t.arbiter = (if c.played < c.length then s.cutDeck d else s).arbiter ∧
        (c.notifies = true → ∀ p, t.hasEvent p .cueDone) ∧ t.endAnswer d n ∧
        s.samePorts t ∧ s.frame t [.air, .decks, .clips, .arbiter, .counters]
          (fun b => endPage n b ∨ eventWord b ∨ completionWord c.address b ∨ s.startWord d m b)) ∧
    (∀ resume, e = .skip → r.next = none →
      (resume = some c.address ∧ (c.holds = true ∨ r.lookahead = .exhausted)) ∨
        (resume = none ∧ c.holds = false ∧ c.ends = true ∧
          (r.lookahead = .none ∨ (r.lookahead = .notMade ∧ link = 0xFFFF))) ∨
        (resume = some c.address ∧ c.holds = false ∧ c.ends = false ∧ link = 0xFFFF ∧
          (r.lookahead = .none ∨ r.lookahead = .notMade)) →
      ∃ t, Sys2Proof.Machine.exec n s = .next t ∧ t.completion c.address .cut c.played none ∧
        t.decks = s.decks.set d
          { r.atRest resume with
            lookahead := if r.lookahead = .notMade ∧ c.holds = false then .none else r.lookahead } ∧
        t.clips = s.lockReleased c.clip ∧ (t.air.sources.get (.deck d)).state = .off ∧
        t.air = s.air.withSource (.deck d) (t.air.sources.get (.deck d)) ∧
        t.arbiter = ((if c.played < c.length then s.cutDeck d else s).endGrantOf (.deck d) false).arbiter ∧
        (c.notifies = true → ∀ p, t.hasEvent p .cueDone) ∧
        (resume = none ∨ r.notify = .onStop → ∀ p, t.hasEvent p .deckStopped) ∧ t.endAnswer d n ∧
        s.samePorts t ∧ s.frame t [.air, .decks, .clips, .arbiter]
          (fun b => endPage n b ∨ eventWord b ∨ completionWord c.address b)) ∧
    ∀ i : Fin 128, e = .skip → r.next = none → c.holds = false →
      r.lookahead = .notMade ∨ (r.lookahead = .none ∧ c.ends = false) → s.goodRecord link i → readApart c.address link →
      ∃ t, Sys2Proof.Machine.exec n s = .next t ∧
        (apart c.address link → t.completion c.address .cut c.played none) ∧ t.completion link .queued 0 none ∧
        t.decks = s.decks.set d
          { x with
            state := .loading, playPending := true, lookahead := .notMade, resumeAddress := none, faultStreak := 0
            current :=
              some (cueOf link (s.xm.readBlock link 16) i (s.clip i).first (s.clip i).pages (s.clip i).sealed) } ∧
        t.clips = s.lockMoved c.clip i ∧ (c.notifies = true → ∀ p, t.hasEvent p .cueDone) ∧ t.endAnswer d n ∧
        t.arbiter = (if c.played < c.length then s.cutDeck d else s).arbiter ∧
        s.samePorts t ∧ s.frame t [.air, .decks, .clips, .arbiter]
          (fun b => endPage n b ∨ eventWord b ∨ completionWord c.address b ∨ completionWord link b)

/-- LOOKAHEAD, due once the last pair of a cue without HOLD is fetched, walks from its link: a good record is locked, written
QUEUED and becomes the next cue, a link of none makes the outcome NONE; a faulty record is marked and counted in the fault
streak, the fourth in a row makes the outcome EXHAUSTED, one before it is passed by its own link, and one outside the cue
area ends the walk; behind a page search the deck waits with the record (R64, R65, R72). DECK_RESUME of a SUSPENDED deck
walks so from its resume address: the cue found loads with play pending, none, or four faults, leaves the deck SUSPENDED; any
other deck is BAD_STATE, no deck BAD_PARAM, and a deck held by a read has the command wait, BUSY (R64, R79, R84). That
LOOKAHEAD out of turn changes nothing is the model's choice (log 6), as are the result
words of a DECK_RESUME that finds nothing (log 23). -/
def Obligations.LookaheadsAndResumes : Prop :=
  (∀ (s : State) (d : DeckId) (r : DeckRec) (c : Cue) (link : Nat), s.runsOwing → s.decks.get d = r →
    r.current = some c → link = (s.xm.read c.address).toNat →
    (r.lookahead ≠ .notMade ∨ c.holds = true ∨ c.fetched < c.length ∨ r.reading ≠ none →
      Sys2Proof.Machine.exec (.lookahead d) s = .next s) ∧
    (r.lookahead = .notMade → c.holds = false → c.length ≤ c.fetched → r.reading = none →
      (link = 0xFFFF →
        ∃ t, Sys2Proof.Machine.exec (.lookahead d) s = .next t ∧
          s.changedTo t { s with decks := s.decks.set d { r with lookahead := .none } } (fun _ => False)) ∧
      (∀ i : Fin 128, s.goodRecord link i →
        ∃ t, Sys2Proof.Machine.exec (.lookahead d) s = .next t ∧
          t.decks = s.decks.set d
            { r with
              faultStreak := 0, lookahead := .found
              next := some (cueOf link (s.xm.readBlock link 16) i (s.clip i).first (s.clip i).pages (s.clip i).sealed) } ∧
          t.clips = s.lockTaken i ∧ t.completion link .queued 0 none ∧
          s.within t [.decks, .clips] (completionWord link)) ∧
      (inCueArea link → (s.xm.read (link + 2)).toNat < 128 → ¬ s.storeFree →
        ∃ t, Sys2Proof.Machine.exec (.lookahead d) s = .next t ∧
          s.changedTo t
            { s with
              decks := s.decks.set d { r with reading := some ⟨link, s.xm.readBlock link 16, .lookahead⟩ }
              clips := { s.clips with waiting := s.clips.waiting ++ [.deckRead d] } } (fun _ => False)) ∧
      (∀ f : CueFault, s.faultyRecord link f → link ≠ 0xFFFF → 3 ≤ r.faultStreak ∨ f = .badAddress →
        ∃ t, Sys2Proof.Machine.exec (.lookahead d) s = .next t ∧ s.marksFault t link f ∧ t.clips = s.clips ∧
          t.decks = s.decks.set d
            { r with
              lookahead := if 3 ≤ r.faultStreak then .exhausted else .none
              faultStreak := r.faultStreak + 1, lastFault := some (link, f) } ∧
          s.within t [.decks, .counters]
            (fun b => eventWord b ∨ (f ≠ .badAddress ∧ completionWord link b) ∨ s.lockedWord link f b)) ∧
      (∀ (f : CueFault) (link' : Nat), s.faultyRecord link f → f ≠ .badAddress → r.faultStreak < 3 →
        link' = (s.xm.read link).toNat → readApart link link' →
        (link' = 0xFFFF →
          ∃ t, Sys2Proof.Machine.exec (.lookahead d) s = .next t ∧ s.marksFault t link f ∧ t.clips = s.clips ∧
            t.decks = s.decks.set d
              { r with lookahead := .none, faultStreak := r.faultStreak + 1, lastFault := some (link, f) } ∧
            s.within t [.decks, .counters] (fun b => eventWord b ∨ completionWord link b ∨ s.lockedWord link f b)) ∧
        ∀ i : Fin 128, s.goodRecord link' i → apart link link' →
          ∃ t, Sys2Proof.Machine.exec (.lookahead d) s = .next t ∧ s.marksFault t link f ∧
            t.decks = s.decks.set d
              { r with
                faultStreak := 0, lookahead := .found, lastFault := some (link, f)
                next := some
                  (cueOf link' (s.xm.readBlock link' 16) i (s.clip i).first (s.clip i).pages (s.clip i).sealed) } ∧
            t.clips = s.lockTaken i ∧ t.completion link' .queued 0 none ∧
            s.within t [.decks, .clips, .counters]
              (fun b => eventWord b ∨ completionWord link b ∨ completionWord link' b)))) ∧
  (∀ (s : State) (deck : Word), s.accepts .a → deck.toNat < 1 ∨ 2 < deck.toNat →
    ∃ t, Sys2Proof.Machine.exec (.deckResume .a deck) s = .next t ∧ s.refusedOnly t .a 0x0014 .badParam) ∧
  (∀ (s : State) (deck : Word) (d : DeckId), s.accepts .a → deck.toNat = d.number →
    (s.decks.get d).reading.isSome = true →
    ∃ t, Sys2Proof.Machine.exec (.deckResume .a deck) s = .next t ∧ s.busyOnly t .a 0x0014 [deck] (s.commandWaits d)) ∧
  ∀ (s : State) (deck : Word) (d : DeckId) (r : DeckRec), s.accepts .a → deck.toNat = d.number → s.decks.get d = r →
    r.reading = none →
    (r.state ≠ .suspended →
      ∃ t, Sys2Proof.Machine.exec (.deckResume .a deck) s = .next t ∧ s.refusedOnly t .a 0x0014 .badState) ∧
    ∀ (a link : Nat), r.state = .suspended → r.resumeAddress = some a → inCueArea a → link = (s.xm.read a).toNat →
      (link = 0xFFFF →
        ∃ t, Sys2Proof.Machine.exec (.deckResume .a deck) s = .next t ∧
          s.doneOnly t .a 0x0014 [d.number, 5, 0xFFFF, 0]
            { s with decks := s.decks.set d { r with faultStreak := 0 } } (fun _ => False)) ∧
      (∀ i : Fin 128, s.goodRecord link i →
        ∃ t, Sys2Proof.Machine.exec (.deckResume .a deck) s = .next t ∧
          t.decks = s.decks.set d
            { r with
              state := .loading, playPending := true, next := none, lookahead := .notMade, resumeAddress := none
              faultStreak := 0
              current := some
                (cueOf link (s.xm.readBlock link 16) i (s.clip i).first (s.clip i).pages (s.clip i).sealed) } ∧
          t.clips = s.lockTaken i ∧ t.completion link .queued 0 none ∧
          s.doneWithin t .a 0x0014 [d.number, 1, link, 0] [.decks, .clips] (completionWord link)) ∧
      (inCueArea link → (s.xm.read (link + 2)).toNat < 128 → ¬ s.storeFree →
        ∃ t, Sys2Proof.Machine.exec (.deckResume .a deck) s = .next t ∧
          s.busyOnly t .a 0x0014 [deck]
            { s with
              decks := s.decks.set d
                { r with faultStreak := 0, reading := some ⟨link, s.xm.readBlock link 16, .resume⟩ }
              clips := { s.clips with waiting := s.clips.waiting ++ [.deckRead d] } }) ∧
      (link ≠ 0xFFFF → ¬ inCueArea link →
        ∃ t, Sys2Proof.Machine.exec (.deckResume .a deck) s = .next t ∧ s.marksFault t link .badAddress ∧
          t.decks = s.decks.set d { r with faultStreak := 1, lastFault := some (link, .badAddress) } ∧
          s.doneWithin t .a 0x0014 [d.number, 5, 0xFFFF, cueFaultCode .badAddress] [.decks, .counters] eventWord) ∧
      ∀ (l : Fin 4 → Nat) (f : Fin 4 → CueFault), l 0 = link → (∀ i, s.faultyRecord (l i) (f i) ∧ f i ≠ .badAddress) →
        (∀ i j : Fin 4, j.val = i.val + 1 → l j = (s.xm.read (l i)).toNat) →
        (∀ i j, i ≠ j → apart (l i) (l j) ∧ readApart (l i) (l j)) →
        ∃ t, Sys2Proof.Machine.exec (.deckResume .a deck) s = .next t ∧
          (∀ i, t.completion (l i) .fault 0 (some (f i))) ∧ (∀ p, t.hasEvent p .cueFault) ∧ t.clips = s.clips ∧
          t.counters = (((s.count .cueFault).count .cueFault).count .cueFault |>.count .cueFault).counters ∧
          t.decks = s.decks.set d { r with faultStreak := 4, lastFault := some (l 3, f 3) } ∧
          s.doneWithin t .a 0x0014 [d.number, 5, 0xFFFF, cueFaultCode (f 3)] [.decks, .counters]
            (fun b => eventWord b ∨ ∃ i, completionWord (l i) b ∨ s.lockedWord (l i) (f i) b)

/-- CUE_END, due with the take of the cue's last pair and its lookahead made, writes PLAYED with the length, raises CUE_DONE
for NOTIFY and gives the lock back; then the next cue found starts, or a cue with HOLD, or an exhausted walk, suspends the
deck at it, or a chain that ends with END set leaves it IDLE, its source cut; with END clear the link is read again, and a
cue found there loads with play pending (R71, R73, R74). CUE_FADE_OUT_POINT, the fade-out length before a cue's end, ramps
the source to 0 over the fade-out; CUE_SEGUE_POINT, the segue length before it, signals the other deck if the cue has SEGUE
set; each acts once for a cue, and neither while an end is pending (R71, R80). A HELD deck does the same (R82). A cue started
here whose segue point is its first pair signals the other deck in turn (R67). A take is taken whole (R84): where the last
pair's take also reached the segue point, CUE_END sends the signal first, and a command, a request on the air map, a notice, a
signal, an alert's timer or a rewrite acts on the state in which what the takes reached has been acted on, which is what
CUE_END leaves, or MESSAGE_END where a message's last pair has been taken (R133; log 49). That the rows out of turn change nothing is the model's choice (log 6), and that the signal waits in the inbox of a deck
held by a read its reading of R64 (log 25). -/
def Obligations.CuePointsAndEnds : Prop :=
  (∀ (c : Instr) (s : State), s.clock.power = .running → s.found.nothingOwed →
    c.issued.isSome = true ∨ (∃ src T S, c = .ramp src T S) ∨ (∃ src, c = .cut src) ∨ (∃ n, c = .hold n ∨ c = .restore n) ∨
      (∃ src n, c = .stateNotice src n) ∨ (∃ src, c = .silentNotice src) ∨ (∃ d, c = .segueSignal d) ∨
      (∃ i, c = .lockRequest i ∨ c = .unlock i) ∨ (∃ id, c = .forwardTimerExpiry id ∨ c = .expiryTimerExpiry id) ∨
      c = .pageSearchEnd ∨ c = .millisecondRewrite →
    ∃ t, Sys2Proof.Machine.exec c s = .next t ∧ Sys2Proof.Machine.exec c s.found = .next t) ∧
  (∀ s u : State, s.runsEnding → Sys2Proof.Machine.exec .messageEnd s = .next u → u.nothingOwed →
    s.found.publish = u) ∧
  (∀ (s u : State) (d : DeckId) (r : DeckRec), s.runsOwing → s.decks.get d = r → (s.decks.get d.other).owes = false →
    r.lookaheadDue = false → r.fadeDue = false → r.segueDue = false →
    Sys2Proof.Machine.exec (.cueEnd d) s = .next u → u.nothingOwed → s.found.publish = u) ∧
  (∀ (s : State) (d : DeckId) (r o : DeckRec) (c : Cue), s.runsOwing → s.decks.get d = r → s.decks.get d.other = o →
    r.current = some c → r.reading = none → r.pendingEnd = .none → r.state = .playing ∨ r.state = .held →
    c.length ≤ c.played → r.fadeDue = false → r.segueDue = true → r.next = none → r.lookahead = .none → c.holds = false →
    c.ends = true → inCueArea c.address → s.keepsClip c.clip → o.reading = none → o.state ≠ .cued → o.state ≠ .loading →
    ∃ t, Sys2Proof.Machine.exec (.cueEnd d) s = .next t ∧ t.completion c.address .played c.length none ∧
      (∀ p, t.hasEvent p .segueMissed) ∧ t.counters = (s.count .segueMissed).counters ∧
      t.decks = s.decks.set d (r.atRest none) ∧ t.clips = s.lockReleased c.clip ∧
      s.within t [.air, .decks, .clips, .arbiter, .counters] (fun b => eventWord b ∨ completionWord c.address b)) ∧
  (∀ (s : State) (d : DeckId) (r : DeckRec) (c : Cue) (link : Nat), s.runsOwing → s.decks.get d = r →
    r.current = some c → link = (s.xm.read c.address).toNat →
    (r.reading ≠ none ∨ c.played < c.length ∨ (r.state ≠ .playing ∧ r.state ≠ .held) →
      Sys2Proof.Machine.exec (.cueEnd d) s = .next s) ∧
    (r.reading = none → c.length ≤ c.played → r.state = .playing ∨ r.state = .held → r.pendingEnd = .none →
      r.lookahead ≠ .notMade ∨ c.holds = true → r.fadeDue = false → r.segueDue = false → inCueArea c.address →
      s.keepsClip c.clip →
      (∀ n, r.next = some n → apart c.address n.address → s.followable d n →
        (∀ q ∈ s.followed d n, apart c.address q.address) →
        ∃ t, Sys2Proof.Machine.exec (.cueEnd d) s = .next t ∧ t.completion c.address .played c.length none ∧
          s.started t d n { r with next := none, lookahead := .notMade } ∧ t.clips = s.lockReleased c.clip ∧
          (c.notifies = true → ∀ p, t.hasEvent p .cueDone) ∧
          s.within t [.air, .decks, .clips, .counters]
            (fun b => eventWord b ∨ completionWord c.address b ∨ s.startWord d n b)) ∧
      (∀ resume, r.next = none →
        (resume = some c.address ∧ (c.holds = true ∨ r.lookahead = .exhausted)) ∨
          (resume = none ∧ c.holds = false ∧ r.lookahead = .none ∧ c.ends = true) ∨
          (resume = some c.address ∧ c.holds = false ∧ r.lookahead = .none ∧ c.ends = false ∧ link = 0xFFFF) →
        ∃ t, Sys2Proof.Machine.exec (.cueEnd d) s = .next t ∧ t.completion c.address .played c.length none ∧
          t.decks = s.decks.set d (r.atRest resume) ∧ t.clips = s.lockReleased c.clip ∧
          (t.air.sources.get (.deck d)).state = .off ∧
          t.air = s.air.withSource (.deck d) (t.air.sources.get (.deck d)) ∧
          (c.notifies = true → ∀ p, t.hasEvent p .cueDone) ∧
          (resume = none ∨ r.notify = .onStop → ∀ p, t.hasEvent p .deckStopped) ∧
          s.within t [.air, .decks, .clips, .arbiter] (fun b => eventWord b ∨ completionWord c.address b)) ∧
      ∀ i : Fin 128, r.next = none → c.holds = false → r.lookahead = .none → c.ends = false → s.goodRecord link i →
        readApart c.address link →
        ∃ t, Sys2Proof.Machine.exec (.cueEnd d) s = .next t ∧
          (apart c.address link → t.completion c.address .played c.length none) ∧ t.completion link .queued 0 none ∧
          t.decks = s.decks.set d
            { r with
              state := .loading, playPending := true, lookahead := .notMade, resumeAddress := none, faultStreak := 0
              current :=
                some (cueOf link (s.xm.readBlock link 16) i (s.clip i).first (s.clip i).pages (s.clip i).sealed) } ∧
          t.clips = s.lockMoved c.clip i ∧ (c.notifies = true → ∀ p, t.hasEvent p .cueDone) ∧
          s.within t [.decks, .clips] (fun b => eventWord b ∨ completionWord c.address b ∨ completionWord link b))) ∧
  ∀ (s : State) (d : DeckId) (r o : DeckRec) (c : Cue), s.runsOwing → s.decks.get d = r → r.current = some c →
    s.decks.get d.other = o →
    (r.reading ≠ none ∨ r.pendingEnd ≠ .none ∨ c.fadeDone = true ∨ c.fadeOut = 0 ∨ c.played < c.length - c.fadeOut ∨
        (r.state ≠ .playing ∧ r.state ≠ .held) →
      Sys2Proof.Machine.exec (.cueFadeOutPoint d) s = .next s) ∧
    (r.reading ≠ none ∨ r.pendingEnd ≠ .none ∨ c.segueDone = true ∨ c.segues = false ∨ c.segue = 0 ∨
        c.played < c.length - c.segue ∨ (r.state ≠ .playing ∧ r.state ≠ .held) →
      Sys2Proof.Machine.exec (.cueSeguePoint d) s = .next s) ∧
    (r.reading = none → r.pendingEnd = .none →
      (r.state = .playing ∨ (r.state = .held ∧ (s.air.sources.get (.deck d)).state = .held) →
        c.fadeDone = false → 0 < c.fadeOut → c.length - c.fadeOut ≤ c.played →
        ∃ t, Sys2Proof.Machine.exec (.cueFadeOutPoint d) s = .next t ∧ t.air = s.air.ramped (.deck d) 0 c.fadeOut ∧
          t.decks = s.decks.set d { r with current := some { c with fadeDone := true } } ∧
          s.within t [.air, .decks] (fun _ => False)) ∧
      (r.state = .playing ∨ r.state = .held → c.segueDone = false → c.segues = true → 0 < c.segue →
        c.length - c.segue ≤ c.played →
        (o.reading.isSome = true →
          ∃ t, Sys2Proof.Machine.exec (.cueSeguePoint d) s = .next t ∧
            s.changedTo t
              { s with
                decks := (s.decks.set d { r with current := some { c with segueDone := true } }).set d.other
                  { o with inbox := o.inbox ++ [⟨o.played, .segue⟩] } } (fun _ => False)) ∧
        (o.reading = none → o.state ≠ .cued → o.state ≠ .loading →
          ∃ t, Sys2Proof.Machine.exec (.cueSeguePoint d) s = .next t ∧ (∀ p, t.hasEvent p .segueMissed) ∧
            s.changedTo t
              { s.count .segueMissed with decks := s.decks.set d { r with current := some { c with segueDone := true } } }
              eventWord) ∧
        (o.reading = none → o.state = .loading →
          ∃ t, Sys2Proof.Machine.exec (.cueSeguePoint d) s = .next t ∧
            s.changedTo t
              { s with
                decks := (s.decks.set d { r with current := some { c with segueDone := true } }).set d.other
                  { o with playPending := true } } (fun _ => False)) ∧
        ∀ m, o.state = .cued → o.current = some m → s.startable d.other m →
          ∃ t, Sys2Proof.Machine.exec (.cueSeguePoint d) s = .next t ∧
            State.started { s with decks := s.decks.set d { r with current := some { c with segueDone := true } } } t
              d.other m o ∧
            s.within t [.air, .decks, .counters] (s.startWord d.other m)))

/-! ## The telephone lines -/

/-- HIGHWAY_MAP judges slot values, then that every line is IDLE and MIC is OFF, then that no slot is named twice in one
direction; an accepted map replaces the old one whole, stops every ring qualify timer and is reported back (R91, R92, R200).
That its words 6 to 21 give each line's receive slot and then its transmit slot, line by line, is the model's choice (log 50). -/
def Obligations.HighwayMapReplacesTheSlotMap : Prop :=
  ∀ (s : State) (words : List Word) (sl : Nat → Option (Fin 16)) (m : SlotMap), s.accepts .b → words.length = 23 →
    (∀ n, 1 ≤ n → n ≤ 21 → 16 ≤ (words.getD (n - 1) 0).toNat → words.getD (n - 1) 0 ≠ 0x00FF →
      ∃ t, Sys2Proof.Machine.exec (.highwayMap .b words) s = .next t ∧ s.refusedOnly t .b 0x0040 .badParam) ∧
    ((∀ n, 1 ≤ n → n ≤ 21 →
        (words.getD (n - 1) 0 = 0x00FF ∧ sl n = none) ∨
          ∃ x : Fin 16, (words.getD (n - 1) 0).toNat = x.val ∧ sl n = some x) →
      m = ⟨sl 1, sl 2, sl 3, sl 4, sl 5, ⟨sl 6, sl 8, sl 10, sl 12, sl 14, sl 16, sl 18, sl 20⟩,
        ⟨sl 7, sl 9, sl 11, sl 13, sl 15, sl 17, sl 19, sl 21⟩, words.getD 21 0, words.getD 22 0⟩ →
      ((∃ k, (s.lines.recs.get k).state ≠ .idle) ∨ s.air.sources.mic.state ≠ .off →
        ∃ t, Sys2Proof.Machine.exec (.highwayMap .b words) s = .next t ∧ s.refusedOnly t .b 0x0040 .badState) ∧
      ((∀ k, (s.lines.recs.get k).state = .idle) → s.air.sources.mic.state = .off →
        ((∃ a b, a ≠ b ∧ sl a = sl b ∧ sl a ≠ none ∧
            ((a ∈ [1, 2, 6, 8, 10, 12, 14, 16, 18, 20] ∧ b ∈ [1, 2, 6, 8, 10, 12, 14, 16, 18, 20]) ∨
             (a ∈ [3, 4, 5, 7, 9, 11, 13, 15, 17, 19, 21] ∧ b ∈ [3, 4, 5, 7, 9, 11, 13, 15, 17, 19, 21]))) →
          ∃ t, Sys2Proof.Machine.exec (.highwayMap .b words) s = .next t ∧ s.refusedOnly t .b 0x0040 .slotTaken) ∧
        ((∀ a b, a ≠ b → sl a = sl b → sl a ≠ none →
            ¬ (a ∈ [1, 2, 6, 8, 10, 12, 14, 16, 18, 20] ∧ b ∈ [1, 2, 6, 8, 10, 12, 14, 16, 18, 20]) ∧
            ¬ (a ∈ [3, 4, 5, 7, 9, 11, 13, 15, 17, 19, 21] ∧ b ∈ [3, 4, 5, 7, 9, 11, 13, 15, 17, 19, 21])) →
          ∃ t, Sys2Proof.Machine.exec (.highwayMap .b words) s = .next t ∧
            s.doneOnly t .b 0x0040 (words.map BitVec.toNat)
              { s with
                highway := { s.highway with map := m }
                lines := { s.lines with recs := s.lines.recs.mapWith fun _ r => { r with ringQualify := none } } }
              (inRecord .lineSummary))))

/-- LINE_ANSWER seizes a RINGING line and puts it in the queue's last place or in SCREEN, with the answer grace running;
LINE_QUEUE, LINE_SCREEN and LINE_PROMOTE move it between the screener and the queue. No other state allows it (BAD_STATE),
the screener takes one line (SCREENER_BUSY), and no other line or destination exists (BAD_PARAM) (R97, R100, R101). That the
place word of a LINE_ANSWER to SCREEN is 0 is the model's choice, by R183's rule for result words not used (log 28). -/
def Obligations.CallersAreAnsweredAndQueued : Prop :=
  (∀ (s : State) (line dest : Word) (k : Line) (r : LineRec), s.accepts .b → s.lines.inOrder → line.toNat = k.number →
    r = { s.lines.recs.get k with seize := true, ringGap := none, loopSeen := false, answerGrace := some 96000 } →
    (dest.toNat ≤ 1 → r.state ≠ .ringing →
      ∃ t, Sys2Proof.Machine.exec (.lineAnswer .b line dest) s = .next t ∧ s.refusedOnly t .b 0x0041 .badState) ∧
    (dest.toNat = 0 → r.state = .ringing → s.lines.screener.isSome = true →
      ∃ t, Sys2Proof.Machine.exec (.lineAnswer .b line dest) s = .next t ∧ s.refusedOnly t .b 0x0041 .screenerBusy) ∧
    (dest.toNat = 0 → r.state = .ringing → s.lines.screener = none →
      ∃ t, Sys2Proof.Machine.exec (.lineAnswer .b line dest) s = .next t ∧
        s.doneOnly t .b 0x0041 [k.number, 2]
          { s.count .callsAnswered with
            lines := { s.lines with recs := s.lines.recs.set k { r with state := .screen }, screener := some k } }
          (fun a => inRecord (.line k) a ∨ inRecord .lineSummary a)) ∧
    (dest.toNat = 1 → r.state = .ringing →
      ∃ t, Sys2Proof.Machine.exec (.lineAnswer .b line dest) s = .next t ∧
        s.doneOnly t .b 0x0041 [k.number, 3, s.lines.queue.length + 1]
          { s.count .callsAnswered with
            lines :=
              { s.lines with recs := s.lines.recs.set k { r with state := .waiting }, queue := s.lines.queue ++ [k] } }
          (fun a => inRecord (.line k) a ∨ inRecord .callerQueue a))) ∧
  (∀ (s : State) (line : Word) (k : Line) (r : LineRec), s.accepts .b → s.lines.inOrder → line.toNat = k.number →
    s.lines.recs.get k = r →
    (r.state ≠ .screen →
      ∃ t, Sys2Proof.Machine.exec (.lineQueue .b line) s = .next t ∧ s.refusedOnly t .b 0x0042 .badState) ∧
    (r.state = .screen →
      ∃ t, Sys2Proof.Machine.exec (.lineQueue .b line) s = .next t ∧
        s.doneOnly t .b 0x0042 [k.number, s.lines.queue.length + 1]
          { s with lines :=
            { s.lines with
              recs := s.lines.recs.set k { r with state := .waiting }
              queue := s.lines.queue ++ [k], screener := none } }
          (fun a => inRecord (.line k) a ∨ inRecord .callerQueue a ∨ inRecord .lineSummary a)) ∧
    (r.state ≠ .waiting →
      (∃ t, Sys2Proof.Machine.exec (.lineScreen .b line) s = .next t ∧ s.refusedOnly t .b 0x0043 .badState) ∧
      ∃ t, Sys2Proof.Machine.exec (.linePromote .b line) s = .next t ∧ s.refusedOnly t .b 0x0047 .badState) ∧
    (r.state = .waiting →
      (s.lines.screener.isSome = true →
        ∃ t, Sys2Proof.Machine.exec (.lineScreen .b line) s = .next t ∧ s.refusedOnly t .b 0x0043 .screenerBusy) ∧
      (s.lines.screener = none →
        ∃ t, Sys2Proof.Machine.exec (.lineScreen .b line) s = .next t ∧
          s.doneOnly t .b 0x0043 [k.number]
            { s with lines :=
              { s.lines with
                recs := s.lines.recs.set k { r with state := .screen }
                queue := s.lines.queue.filter (· ≠ k), screener := some k } }
            (fun a => inRecord (.line k) a ∨ inRecord .callerQueue a ∨ inRecord .lineSummary a)) ∧
      ∃ t, Sys2Proof.Machine.exec (.linePromote .b line) s = .next t ∧
        s.doneOnly t .b 0x0047 [k.number, s.lines.queue.length]
          { s with lines := { s.lines with queue := k :: s.lines.queue.filter (· ≠ k) } }
          (inRecord .callerQueue))) ∧
  ∀ (s : State) (line dest : Word), s.accepts .b →
    (line.toNat < 1 ∨ 8 < line.toNat ∨ 2 ≤ dest.toNat →
      ∃ t, Sys2Proof.Machine.exec (.lineAnswer .b line dest) s = .next t ∧ s.refusedOnly t .b 0x0041 .badParam) ∧
    (line.toNat < 1 ∨ 8 < line.toNat →
    (∃ t, Sys2Proof.Machine.exec (.lineQueue .b line) s = .next t ∧ s.refusedOnly t .b 0x0042 .badParam) ∧
    (∃ t, Sys2Proof.Machine.exec (.lineScreen .b line) s = .next t ∧ s.refusedOnly t .b 0x0043 .badParam) ∧
    ∃ t, Sys2Proof.Machine.exec (.linePromote .b line) s = .next t ∧ s.refusedOnly t .b 0x0047 .badParam)

/-- LINE_TAKE puts a line in SCREEN or WAITING, or the head of the queue for NEXT, ON_AIR and ramps its source to the line's
gain over its fade, which is deferred under hold, the source HELD; AIR_FULL with three seats taken, NOT_FOUND for NEXT on an
empty queue (R8, R102, R107). LINE_BACK cuts an ON_AIR line back to the queue's last place (R103). -/
def Obligations.CallersGoOnAirAndBack : Prop :=
  (∀ (s : State) (line : Word) (k : Line) (r : LineRec) (a : SourceRec), s.accepts .b →
    line.toNat = k.number ∨ (line = 0x00FF ∧ s.lines.queue.head? = some k) → s.lines.recs.get k = r →
    (s.air.ramped (.line k) r.gain (r.fade * 48)).sources.get (.line k) = a →
    (r.state ≠ .screen → r.state ≠ .waiting →
      ∃ t, Sys2Proof.Machine.exec (.lineTake .b line) s = .next t ∧ s.refusedOnly t .b 0x0044 .badState) ∧
    (r.state = .screen ∨ r.state = .waiting → 3 ≤ s.lines.seatCount →
      ∃ t, Sys2Proof.Machine.exec (.lineTake .b line) s = .next t ∧ s.refusedOnly t .b 0x0044 .airFull) ∧
    (r.state = .screen ∨ r.state = .waiting → s.lines.seatCount < 3 →
      ∃ t, Sys2Proof.Machine.exec (.lineTake .b line) s = .next t ∧
        t.air = s.air.ramped (.line k) r.gain (r.fade * 48) ∧
        t.lines =
          { recs := s.lines.recs.set k { r with state := .onAir }
            queue := s.lines.queue.filter (· ≠ k)
            screener := if s.lines.screener = some k then none else s.lines.screener
            seats := s.lines.seats.set k (decide (a.state ≠ .off)) } ∧
        s.doneWithin t .b 0x0044 [k.number, r.gain, r.fade, sourceCode a.state, t.lines.seatCount]
          [.air, .lines, .link, .lamps, .counters] (fun _ => False))) ∧
  (∀ s : State, s.accepts .b → s.lines.queue = [] →
    ∃ t, Sys2Proof.Machine.exec (.lineTake .b 0x00FF) s = .next t ∧ s.refusedOnly t .b 0x0044 .notFound) ∧
  (∀ (s : State) (line : Word) (k : Line) (r : LineRec), s.accepts .b → s.lines.inOrder → line.toNat = k.number →
    s.lines.recs.get k = r →
    (r.state ≠ .onAir →
      ∃ t, Sys2Proof.Machine.exec (.lineBack .b line) s = .next t ∧ s.refusedOnly t .b 0x0045 .badState) ∧
    (r.state = .onAir →
      ∃ t, Sys2Proof.Machine.exec (.lineBack .b line) s = .next t ∧ t.air = s.air.cutOff (.line k) ∧
        t.lines =
          { s.lines with
            recs := s.lines.recs.set k { r with state := .waiting }
            queue := s.lines.queue ++ [k]
            seats :=
              if (s.air.sources.get (.line k)).state = .off then s.lines.seats else s.lines.seats.set k false } ∧
        s.doneWithin t .b 0x0045 [k.number, s.lines.queue.length + 1] [.air, .lines, .link, .lamps, .counters]
          (fun _ => False))) ∧
  ∀ (s : State) (line : Word), s.accepts .b → line.toNat < 1 ∨ 8 < line.toNat →
    (line ≠ 0x00FF →
      ∃ t, Sys2Proof.Machine.exec (.lineTake .b line) s = .next t ∧ s.refusedOnly t .b 0x0044 .badParam) ∧
    ∃ t, Sys2Proof.Machine.exec (.lineBack .b line) s = .next t ∧ s.refusedOnly t .b 0x0045 .badParam

/-- LINE_GAIN stores a line's gain and fade, clamped, and ramps an ON_AIR line to it, AIR_FULL if that would take a fourth
seat (R104). LINE_DROP releases a line in SCREEN or WAITING at once; an ON_AIR one fades first with SEIZE still set, which is
clear at once if its source is OFF; the release guard runs (R94, R105). A line that an alert holds, or that is OFF under
hold, takes the new gain, or 0, as its saved target (R8, R104, R105, R107). -/
def Obligations.CallersGainAndDrop : Prop :=
  (∀ (s : State) (line gain fade : Word) (k : Line) (r : LineRec) (G F : Nat) (src a : SourceRec), s.accepts .b →
    line.toNat = k.number → G = min gain.toNat 32768 → F = min fade.toNat 250 →
    r = { s.lines.recs.get k with gain := G, fade := F } → s.air.sources.get (.line k) = src →
    (s.air.ramped (.line k) G (F * 48)).sources.get (.line k) = a →
    (r.state = .onAir → src.state = .off → 0 < G → 3 ≤ s.lines.seatCount →
      ∃ t, Sys2Proof.Machine.exec (.lineGain .b line gain fade) s = .next t ∧ s.refusedOnly t .b 0x0048 .airFull) ∧
    (r.state ≠ .onAir ∨ (src.state = .off ∧ G = 0) →
      ∃ t, Sys2Proof.Machine.exec (.lineGain .b line gain fade) s = .next t ∧
        s.doneOnly t .b 0x0048 [k.number, G, F, lineCode r.state, sourceCode src.state]
          { s with lines := { s.lines with recs := s.lines.recs.set k r } } (inRecord (.line k))) ∧
    (r.state = .onAir → src.state ≠ .off ∨ (0 < G ∧ s.lines.seatCount < 3) →
      ∃ t, Sys2Proof.Machine.exec (.lineGain .b line gain fade) s = .next t ∧
        t.air = s.air.ramped (.line k) G (F * 48) ∧
        t.lines =
          { s.lines with
            recs := s.lines.recs.set k r
            seats := s.lines.seats.set k (decide (a.state ≠ .off)) } ∧
        s.doneWithin t .b 0x0048 [k.number, G, F, 4, sourceCode a.state]
          [.air, .lines, .link, .lamps, .counters] (fun _ => False))) ∧
  (∀ (s : State) (line : Word) (k : Line) (r : LineRec) (a : SourceRec), s.accepts .b → line.toNat = k.number →
    s.lines.recs.get k = r → (s.air.ramped (.line k) 0 (r.fade * 48)).sources.get (.line k) = a →
    (r.state = .idle ∨ r.state = .ringing ∨ r.state = .releasing →
      ∃ t, Sys2Proof.Machine.exec (.lineDrop .b line) s = .next t ∧ s.refusedOnly t .b 0x0046 .badState) ∧
    (r.state = .screen ∨ r.state = .waiting →
      ∃ t, Sys2Proof.Machine.exec (.lineDrop .b line) s = .next t ∧
        s.doneOnly t .b 0x0046 [k.number, 5, 0]
          { s with lines := { s.callLeft k (r.releasing false) with seats := s.lines.seats } }
          (fun a => inRecord (.line k) a ∨ inRecord .callerQueue a ∨ inRecord .lineSummary a)) ∧
    (r.state = .onAir →
      ∃ t, Sys2Proof.Machine.exec (.lineDrop .b line) s = .next t ∧
        t.air = s.air.ramped (.line k) 0 (r.fade * 48) ∧
        t.lines =
          { s.lines with
            recs := s.lines.recs.set k (r.releasing (decide (a.state ≠ .off)))
            seats := s.lines.seats.set k (decide (a.state ≠ .off)) } ∧
        s.doneWithin t .b 0x0046 [k.number, 5, flag (decide (a.state ≠ .off))]
          [.air, .lines, .link, .lamps, .counters] (fun _ => False))) ∧
  ∀ (s : State) (line gain fade : Word), s.accepts .b → line.toNat < 1 ∨ 8 < line.toNat →
    (∃ t, Sys2Proof.Machine.exec (.lineGain .b line gain fade) s = .next t ∧ s.refusedOnly t .b 0x0048 .badParam) ∧
    ∃ t, Sys2Proof.Machine.exec (.lineDrop .b line) s = .next t ∧ s.refusedOnly t .b 0x0046 .badParam

/-- SLOT_WORD_ARRIVAL keeps the sample for its slot and hands RING and LOOP to the connected line the slot is assigned to,
whose timers start, stop and go on by its state; a slot not enabled for receiving reads as 0 (R23, R89, R94 to R96). A line
timer that has run out: ring qualify makes an IDLE line RINGING, ring gap makes a RINGING one IDLE as a missed call, answer
grace and loop loss hang up a call, the release guard ends RELEASING with SEIZE clear and the source cut (R95, R96, R99,
R106). A timer that has not run out does nothing (the model's choice, log 6). -/
def Obligations.ArrivalsAndLineTimers : Prop :=
  (∀ (s : State) (k : Line) (r : LineRec), s.runs → s.lines.recs.get k = r →
    (r.ringQualify = some 0 → r.state = .idle →
      ∃ t, Sys2Proof.Machine.exec (.ringQualifyExpiry k) s = .next t ∧ (∀ p, t.hasEvent p .lineRing) ∧
        s.changedTo t
          { s with lines := { s.lines with
              recs := s.lines.recs.set k { r with state := .ringing, ringQualify := none } } }
          (fun a => eventWord a ∨ inRecord (.line k) a)) ∧
    (r.ringGap = some 0 → r.state = .ringing →
      ∃ t, Sys2Proof.Machine.exec (.ringGapExpiry k) s = .next t ∧ (∀ p, t.hasEvent p .missedCall) ∧
        s.changedTo t
          { s.count .missedCalls with
            lines := { s.lines with recs := s.lines.recs.set k { r with state := .idle, ringGap := none } } }
          (fun a => eventWord a ∨ inRecord (.line k) a)) ∧
    (∀ i, (i = .answerGraceExpiry k ∧ r.answerGrace = some 0) ∨ (i = .loopLossExpiry k ∧ r.loopLoss = some 0) →
      r.state = .screen ∨ r.state = .waiting ∨ r.state = .onAir →
      ∃ t, Sys2Proof.Machine.exec i s = .next t ∧ (∀ p, t.hasEvent p .lineDropped) ∧
        t.air = s.air.cutOff (.line k) ∧ t.lines = s.callLeft k (r.releasing false) ∧
        ((s.air.sources.get (.line k)).state = .off → t.counters = (s.count .lineDrops).counters) ∧
        s.within t [.air, .lines, .link, .lamps, .counters] eventWord) ∧
    (r.releaseGuard = some 0 → r.state = .releasing →
      ∃ t, Sys2Proof.Machine.exec (.releaseGuardExpiry k) s = .next t ∧ t.air = s.air.cutOff (.line k) ∧
        t.lines =
          { s.lines with
            recs := s.lines.recs.set k { r with state := .idle, seize := false, releaseGuard := none }
            seats :=
              if (s.air.sources.get (.line k)).state = .off then s.lines.seats else s.lines.seats.set k false } ∧
        s.within t [.air, .lines, .link, .lamps, .counters] (fun _ => False)) ∧
    (r.ringQualify ≠ some 0 → Sys2Proof.Machine.exec (.ringQualifyExpiry k) s = .next s) ∧
    (r.ringGap ≠ some 0 → Sys2Proof.Machine.exec (.ringGapExpiry k) s = .next s) ∧
    (r.answerGrace ≠ some 0 → Sys2Proof.Machine.exec (.answerGraceExpiry k) s = .next s) ∧
    (r.loopLoss ≠ some 0 → Sys2Proof.Machine.exec (.loopLossExpiry k) s = .next s) ∧
    (r.releaseGuard ≠ some 0 → Sys2Proof.Machine.exec (.releaseGuardExpiry k) s = .next s)) ∧
  (∀ (s : State) (slot : Fin 16) (w : BitVec 32) (h : Highway), s.runs →
    h = { s.highway with
      kept := s.highway.kept.set slot
        (if s.highway.map.rxEnable.getLsbD slot = true then w.extractLsb' 8 24 else 0) } →
    (∀ k, s.highway.map.lineRx.get k = some slot → s.highway.map.lineTx.get k = none) →
    ∃ t, Sys2Proof.Machine.exec (.slotWordArrival slot w) s = .next t ∧
      s.changedTo t { s with highway := h } (fun _ => False)) ∧
  ∀ (s : State) (slot : Fin 16) (w : BitVec 32) (h : Highway) (k : Line) (ring loop : Bool) (r : LineRec), s.runs →
    h = { s.highway with
      kept := s.highway.kept.set slot
        (if s.highway.map.rxEnable.getLsbD slot = true then w.extractLsb' 8 24 else 0) } →
    s.highway.map.lineRx.get k = some slot → (s.highway.map.lineTx.get k).isSome = true →
    (∀ j, s.highway.map.lineRx.get j = some slot → j = k) →
    ring = (s.highway.map.rxEnable.getLsbD slot && w.getLsbD 7) →
    loop = (s.highway.map.rxEnable.getLsbD slot && w.getLsbD 6) →
    r = { s.lines.recs.get k with lastRing := ring, lastLoop := loop } →
    ∃ t, Sys2Proof.Machine.exec (.slotWordArrival slot w) s = .next t ∧
      s.changedTo t
        { s with
          highway := h
          lines :=
            { s.lines with
              recs := s.lines.recs.set k
                (match r.state with
                  | .idle =>
                    { r with
                      ringQualify :=
                        if ring = true then (if r.ringQualify.isSome = true then r.ringQualify else some 4800)
                        else none }
                  | .ringing =>
                    { r with
                      ringGap :=
                        if ring = true then none
                        else if r.ringGap.isSome = true then r.ringGap else some 288000 }
                  | .screen | .waiting | .onAir =>
                    if loop = true then
                      { r with
                        loopSeen := true, loopLoss := none
                        answerGrace := if r.loopSeen = true then r.answerGrace else none }
                    else if r.loopSeen = true then
                      { r with loopLoss := if r.loopLoss.isSome = true then r.loopLoss else some 19200 }
                    else r
                  | .releasing => r) } }
        (inRecord (.line k))

/-- TRANSMIT_FRAME drives each enabled slot the map assigns: the two program slots and the screener's with their sample, a
line's with its sample and its SEIZE flag, the rest of the word 0; every other slot is high impedance (R33, R90). The order
in which a slot named for two uses is taken is the model's choice (log 36). -/
def Obligations.TransmitFramesCarryTheOutputs : Prop :=
  ∀ s : State, s.clock.power ≠ .reset → s.quiet → s.nothingOwed →
    ∃ f : Vector (Option (BitVec 32)) 16,
      Sys2Proof.Machine.exec .transmitFrame s = .next { s with highway := { s.highway with transmitted := f } } ∧
      ∀ (n : Fin 16) (m : SlotMap), s.highway.map = m →
        (m.txEnable.getLsbD n = false → f[n] = none) ∧
        (m.txEnable.getLsbD n = true →
          (m.pgmLeft = some n → f[n] = some (s.mixer.program.left ++ 0#8)) ∧
          (m.pgmLeft ≠ some n → m.pgmRight = some n → f[n] = some (s.mixer.program.right ++ 0#8)) ∧
          (m.pgmLeft ≠ some n → m.pgmRight ≠ some n → m.screenerTx = some n →
            f[n] = some (s.mixer.screenerOut ++ 0#8)) ∧
          (m.pgmLeft ≠ some n → m.pgmRight ≠ some n → m.screenerTx ≠ some n →
            (∀ k, m.lineTx.get k = some n → (∀ j, m.lineTx.get j = some n → j = k) →
              f[n] = some (s.mixer.lineOut.get k ++
                (if (s.lines.recs.get k).seize = true then 0x80#8 else 0x00#8))) ∧
            ((∀ k, m.lineTx.get k ≠ some n) → f[n] = none)))

/-! ## Alerts -/

/-- ALERT_POST refuses an id of 0 or an unknown class or clip as BAD_PARAM and an id in the queue as DUPLICATE; a LOG_ONLY
class logs it; a clip that is not READY is BAD_STATE (R112, R115, R116). Else it is queued behind AIRING and all of its
priority or higher, WAITING_RELEASE or READY by its class's mode, and a full queue gives up a lower tail or answers NO_SPACE
(R114, R116, R117), its clip locked and given back, which rewrites the clip's record twice (R41). A READY record in STANDBY
airs at once: that is the statement ReadyAlertsPreempt. That a logged post's DONE has its outcome in the first result word
and 0 in the others is the model's choice (log 28). -/
def Obligations.AlertPostsAreJudged : Prop :=
  (∀ (s : State) (id prio cls clip tone expiry : Word), s.accepts .c →
    id = 0 ∨ 3 < cls.toNat ∨ 127 < clip.toNat →
    ∃ t, Sys2Proof.Machine.exec (.alertPost .c id prio cls clip tone expiry) s = .next t ∧
      s.refusedOnly t .c 0x0050 .badParam) ∧
  ∀ (s : State) (id prio cls clip tone expiry : Word) (c : AlertClass) (i : Fin 128) (P T X : Nat) (e : ClipEntry),
    s.accepts .c → id ≠ 0 → cls.toNat = classCode c → clip.toNat = i.val → P = min prio.toNat 7 →
    T = min tone.toNat 30 → X = max 1 expiry.toNat → s.clip i = e →
    ((∃ r ∈ s.alert.queue, r.id = id.toNat) →
      ∃ t, Sys2Proof.Machine.exec (.alertPost .c id prio cls clip tone expiry) s = .next t ∧
        s.refusedOnly t .c 0x0050 .duplicate) ∧
    ((∀ r ∈ s.alert.queue, r.id ≠ id.toNat) →
      ((s.alert.policy.get c).mode = .logOnly →
        ∃ t, Sys2Proof.Machine.exec (.alertPost .c id prio cls clip tone expiry) s = .next t ∧
          (∀ p, t.hasEvent p .alertOutcome) ∧
          s.doneOnly t .c 0x0050 [1]
            { s with alert := { s.alert with
                history := (⟨id.toNat, c, .logged, false, false⟩ :: s.alert.history).take 8 } }
            (fun a => eventWord a ∨ inRecord .alertHistory a)) ∧
      ((s.alert.policy.get c).mode ≠ .logOnly → s.storeFree → e.state ≠ .ready →
        ∃ t, Sys2Proof.Machine.exec (.alertPost .c id prio cls clip tone expiry) s = .next t ∧
          s.refusedOnly t .c 0x0050 .badState) ∧
      ((s.alert.policy.get c).mode ≠ .logOnly → ¬ s.storeFree →
        ∃ t, Sys2Proof.Machine.exec (.alertPost .c id prio cls clip tone expiry) s = .next t ∧
          s.busyOnly t .c 0x0050 [id, prio, cls, clip, tone, expiry]
            { s with clips := { s.clips with
                waiting := s.clips.waiting ++ [.alertPost ⟨id.toNat, P, c, i, T, X⟩] } }) ∧
      ∀ (r : AlertRec) (delay : Nat), s.storeFree → e.state = .ready → s.alert.queue.length < 8 →
        delay = (s.alert.policy.get c).delay →
        r = { id := id.toNat, priority := P, cls := c, clip := i, first := e.first, pages := e.pages, sealed := e.sealed
              tone := T, expiry := X, state := .ready, forwarded := false, timePosted := s.alert.milliseconds
              forwardDelay := 0, forwardTimer := none, expiryTimer := some (X * 1000 * 48) } →
        ∀ front back : List AlertRec, s.alert.queue = front ++ back →
          (∀ x ∈ front, x.state = .airing ∨ P ≤ x.priority) →
          (∀ x ∈ back.head?, x.state ≠ .airing ∧ x.priority < P) →
          ((s.alert.policy.get c).mode = .airOnRelease →
            ∃ t, Sys2Proof.Machine.exec (.alertPost .c id prio cls clip tone expiry) s = .next t ∧
              t.alert =
                { s.alert with
                  queue := front ++
                    [{ r with
                      state := .waitingRelease
                      forwardDelay := delay
                      forwardTimer := if delay = 0 then none else some (delay * 1000 * 48) }] ++ back } ∧
              t.clips = s.lockTaken i ∧ (∀ p, t.hasEvent p .alertWaiting) ∧
              s.doneWithin t .c 0x0050 [id.toNat, 7, 1, front.length + 1, 0, P, T, X] [.alert, .clips, .lamps]
                eventWord) ∧
          ((s.alert.policy.get c).mode = .airAuto → s.alert.phase ≠ .standby →
            ∃ t, Sys2Proof.Machine.exec (.alertPost .c id prio cls clip tone expiry) s = .next t ∧
              t.alert = { s.alert with queue := front ++ [r] ++ back } ∧ t.clips = s.lockTaken i ∧
              s.doneWithin t .c 0x0050 [id.toNat, 7, 2, front.length + 1, 0, P, T, X] [.alert, .clips, .lamps]
                (fun _ => False))) ∧
    ∀ (front : List AlertRec) (tail : AlertRec), s.storeFree → e.state = .ready →
      (∀ r ∈ s.alert.queue, r.id ≠ id.toNat) → s.alert.queue = front ++ [tail] → front.length = 7 →
      (s.alert.policy.get c).mode = .airOnRelease ∨
        ((s.alert.policy.get c).mode = .airAuto ∧ (s.alert.phase ≠ .standby ∨ P ≤ tail.priority)) →
      (P ≤ tail.priority →
        ∃ t, Sys2Proof.Machine.exec (.alertPost .c id prio cls clip tone expiry) s = .next t ∧ t.blocks = s.blocks ∧
          t.refusedWith .c 0x0050 .noSpace ∧ s.samePorts t ∧
          t.xm.read (RecordId.clip i).place = s.xm.read (RecordId.clip i).place + 2 ∧
          s.sameXmBut t (fun a => ownPage .c a ∨ inRecord (.clip i) a)) ∧
      (tail.priority < P → (∀ r ∈ front, r.id ≠ tail.id) → s.keepsClip tail.clip →
        ∃ t, Sys2Proof.Machine.exec (.alertPost .c id prio cls clip tone expiry) s = .next t ∧
          (∃ r ∈ t.alert.queue, r.id = id.toNat ∧
            r.state = (if (s.alert.policy.get c).mode = .airOnRelease then .waitingRelease else .ready)) ∧
          (∀ r ∈ t.alert.queue, r.id = id.toNat ∨ r ∈ front) ∧ (∀ r ∈ front, r ∈ t.alert.queue) ∧
          t.alert.history =
            (⟨tail.id, tail.cls, .displaced, tail.forwarded, false⟩ :: s.alert.history).take 8 ∧
          (∀ p, t.hasEvent p .alertOutcome) ∧
          ((s.alert.policy.get c).mode = .airOnRelease → ∀ p, t.hasEvent p .alertWaiting) ∧
          t.counters = (s.count .alertsDisplaced).counters ∧
          (∀ j, (t.clip j).locks = (s.clip j).locks + (if j = i then 1 else 0) - (if j = tail.clip then 1 else 0)) ∧
          t.pageWord .c 0 = doneWord ∧ t.pageWord .c 29 = word tail.id ∧
          s.within t [.alert, .clips, .lamps, .counters] (fun a => eventWord a ∨ ownPage .c a))

/-- ALERT_RELEASE makes a WAITING_RELEASE record READY, ALERT_DECLINE takes it out with DECLINED; of a record not waiting they
answer TOO_LATE if it was forwarded and BAD_STATE if not (R119, R120). ALERT_CANCEL takes out a record that is not AIRING
with CANCELLED (R123). An id of 0 is BAD_PARAM, an unknown one NOT_FOUND. A message whose last pair is taken ends first, so
that a command then finds its record gone as AIRED (R123, R130, R133): an ALERT_CANCEL takes out a record behind it, an
ALERT_POST of its id is taken as a new record, which waits READY during RESTORE, and an ALERT_RELEASE makes a record READY
that waits so too; that MESSAGE_END need not come between is the model's reading (log 49), and an ALERT_CANCEL of the AIRING
record is part of the statement AiringsRunTheirPhases. -/
def Obligations.AlertsAreReleasedDeclinedAndCancelled : Prop :=
  (∀ (s : State) (id : Word) (e : Reason), (id = 0 ∧ e = .badParam) ∨
      (id ≠ 0 ∧ (∀ r ∈ s.alert.queue, r.id ≠ id.toNat) ∧ e = .notFound) →
    (s.accepts .b →
      (∃ t, Sys2Proof.Machine.exec (.alertRelease .b id) s = .next t ∧ s.refusedOnly t .b 0x0053 e) ∧
      ∃ t, Sys2Proof.Machine.exec (.alertDecline .b id) s = .next t ∧ s.refusedOnly t .b 0x0054 e) ∧
    (s.accepts .c →
      ∃ t, Sys2Proof.Machine.exec (.alertCancel .c id) s = .next t ∧ s.refusedOnly t .c 0x0051 e)) ∧
  (∀ (s : State) (id : Word) (front back : List AlertRec) (r x : AlertRec), s.ownersRest → s.alert.messageTaken →
    s.alert.queue = r :: front ++ x :: back → r.state = .airing →
    (∀ y ∈ front ++ x :: back, y.id ≠ r.id ∧ y.state ≠ .ready ∧ y.state ≠ .airing) → (∀ y ∈ front ++ back, y.id ≠ x.id) →
    id ≠ 0 → x.id = id.toNat →
    (s.acceptsEnding .c → s.keepsClips [r.clip, x.clip] →
      ∃ t, Sys2Proof.Machine.exec (.alertCancel .c id) s = .next t ∧ t.alert.queue = front ++ back ∧
        t.alert.phase = .restore ∧ t.clips = s.clips.released [r.clip, x.clip] ∧
        t.alert.history =
          (⟨x.id, x.cls, .cancelled, x.forwarded, false⟩ :: ⟨r.id, r.cls, .aired, r.forwarded, s.alert.truncated⟩ ::
            s.alert.history).take 8 ∧
        s.doneWithin t .c 0x0051 [id.toNat, 3, 0] airingParts eventWord) ∧
    (s.acceptsEnding .b → x.state = .waitingRelease → s.keepsClip r.clip →
      ∃ t, Sys2Proof.Machine.exec (.alertRelease .b id) s = .next t ∧
        t.alert.queue = front ++ { x with state := .ready, forwardTimer := none } :: back ∧
        t.alert.phase = .restore ∧ s.alertLeft t r .aired ∧
        s.doneWithin t .b 0x0053 [id.toNat, 2, front.length + 1] airingParts eventWord)) ∧
  (∀ (s : State) (id prio cls clip tone expiry : Word) (c : AlertClass) (i : Fin 128) (P T X : Nat) (e : ClipEntry)
      (r x : AlertRec) (front back : List AlertRec),
    s.acceptsEnding .c → s.ownersRest → s.alert.messageTaken → s.alert.queue = r :: front ++ back → r.state = .airing →
    (∀ y ∈ front ++ back, y.id ≠ r.id ∧ y.state ≠ .ready ∧ y.state ≠ .airing) → (front ++ back).length < 8 →
    s.keepsClip r.clip → r.id = id.toNat → id ≠ 0 → cls.toNat = classCode c → clip.toNat = i.val → P = min prio.toNat 7 →
    T = min tone.toNat 30 → X = max 1 expiry.toNat → s.clip i = e → s.storeFree → e.state = .ready →
    (s.alert.policy.get c).mode = .airAuto → (∀ y ∈ front, P ≤ y.priority) → (∀ y ∈ back.head?, y.priority < P) →
    x = { id := id.toNat, priority := P, cls := c, clip := i, first := e.first, pages := e.pages, sealed := e.sealed
          tone := T, expiry := X, state := .ready, forwarded := false, timePosted := s.alert.milliseconds
          forwardDelay := 0, forwardTimer := none, expiryTimer := some (X * 1000 * 48) } →
    ∃ t, Sys2Proof.Machine.exec (.alertPost .c id prio cls clip tone expiry) s = .next t ∧
      t.alert.queue = front ++ x :: back ∧ t.alert.phase = .restore ∧ t.air.hold = false ∧
      t.alert.history = (⟨r.id, r.cls, .aired, r.forwarded, s.alert.truncated⟩ :: s.alert.history).take 8 ∧
      (∀ j, (t.clip j).locks = (s.clip j).locks + (if j = i then 1 else 0) - (if j = r.clip then 1 else 0)) ∧
      s.doneWithin t .c 0x0050 [id.toNat, 7, 2, front.length + 1, 0, P, T, X] airingParts eventWord) ∧
  ∀ (s : State) (id : Word) (front back : List AlertRec) (r : AlertRec), id ≠ 0 → s.alert.queue = front ++ r :: back →
    r.id = id.toNat → (∀ x ∈ front ++ back, x.id ≠ id.toNat) →
    (s.accepts .b → r.state ≠ .waitingRelease → ∀ e, e = (if r.forwarded = true then Reason.tooLate else .badState) →
      (∃ t, Sys2Proof.Machine.exec (.alertRelease .b id) s = .next t ∧ s.refusedOnly t .b 0x0053 e) ∧
      ∃ t, Sys2Proof.Machine.exec (.alertDecline .b id) s = .next t ∧ s.refusedOnly t .b 0x0054 e) ∧
    (s.accepts .b → r.state = .waitingRelease → s.alert.phase ≠ .standby →
      ∃ t, Sys2Proof.Machine.exec (.alertRelease .b id) s = .next t ∧
        t.alert = { s.alert with queue := front ++ { r with state := .ready, forwardTimer := none } :: back } ∧
        s.doneWithin t .b 0x0053 [id.toNat, 2, front.length + 1] [.alert, .lamps] (fun _ => False)) ∧
    (s.accepts .b → r.state = .waitingRelease → s.keepsClip r.clip →
      ∃ t, Sys2Proof.Machine.exec (.alertDecline .b id) s = .next t ∧ t.alert.queue = front ++ back ∧
        s.alertLeft t r .declined ∧
        s.doneWithin t .b 0x0054 [id.toNat, 6] [.alert, .clips, .lamps] eventWord) ∧
    (s.accepts .c → r.state ≠ .airing → s.keepsClip r.clip →
      ∃ t, Sys2Proof.Machine.exec (.alertCancel .c id) s = .next t ∧ t.alert.queue = front ++ back ∧
        s.alertLeft t r .cancelled ∧
        s.doneWithin t .c 0x0051 [id.toNat, 3, 0] [.alert, .clips, .lamps] eventWord)

/-- In STANDBY a record that becomes READY airs at once: an ALERT_POST of an AIR_AUTO class, also one that displaces the tail
of a full queue, ALERT_RELEASE, a forward timer that runs out, and the end of RESTORE with READY records waiting, put the
engine into PREEMPT with it, the other sources held and ALERT rising (R117, R119, R121, R125, R126, R131). The framer is
handed the STARTED notice (R126, R158) and has then taken the departure from STANDBY (R162); that the STUDIO_STATUS of the
phase stands before the notice is the model's choice (log 20). -/
def Obligations.ReadyAlertsPreempt : Prop :=
  (∀ (s : State) (id prio cls clip tone expiry : Word) (c : AlertClass) (i : Fin 128) (P T X : Nat) (e : ClipEntry)
      (r : AlertRec) (kept : List AlertRec),
    s.accepts .c → s.ownersRest → id ≠ 0 → cls.toNat = classCode c → clip.toNat = i.val → P = min prio.toNat 7 →
    T = min tone.toNat 30 → X = max 1 expiry.toNat → s.clip i = e → s.storeFree → e.state = .ready →
    s.alert.phase = .standby → (s.alert.policy.get c).mode = .airAuto → (∀ x ∈ s.alert.queue, x.id ≠ id.toNat) →
    (∀ x ∈ kept, x.state ≠ .ready) →
    r = { id := id.toNat, priority := P, cls := c, clip := i, first := e.first, pages := e.pages, sealed := e.sealed
          tone := T, expiry := X, state := .ready, forwarded := false, timePosted := s.alert.milliseconds
          forwardDelay := 0, forwardTimer := none, expiryTimer := some (X * 1000 * 48) } →
    (s.alert.queue = kept → kept.length < 8 →
      ∃ t, Sys2Proof.Machine.exec (.alertPost .c id prio cls clip tone expiry) s = .next t ∧ s.preempts t r kept [.preempt] ∧
        t.clips = s.lockTaken i ∧ s.doneWithin t .c 0x0050 [id.toNat, 7, 3, 1, 0, P, T, X] airingParts eventWord) ∧
    ∀ tail : AlertRec, s.alert.queue = kept ++ [tail] → kept.length = 7 → tail.priority < P →
      (∀ x ∈ kept, x.id ≠ tail.id) → s.keepsClip tail.clip →
      ∃ t, Sys2Proof.Machine.exec (.alertPost .c id prio cls clip tone expiry) s = .next t ∧ s.preempts t r kept [.preempt] ∧
        t.alert.history = (⟨tail.id, tail.cls, .displaced, tail.forwarded, false⟩ :: s.alert.history).take 8 ∧
        (∀ p, t.hasEvent p .alertOutcome) ∧
        (∀ j, (t.clip j).locks = (s.clip j).locks + (if j = i then 1 else 0) - (if j = tail.clip then 1 else 0)) ∧
        t.counters[Counter.alertsDisplaced.index] = min 4294967295 (s.counters[Counter.alertsDisplaced.index] + 1) ∧
        s.doneWithin t .c 0x0050 [id.toNat, 7, 3, 1, tail.id, P, T, X] airingParts eventWord) ∧
  (∀ (s : State) (id : Word) (r : AlertRec), s.ownersRest → s.alert.phase = .standby → id ≠ 0 → r ∈ s.alert.queue →
    r.id = id.toNat → (∀ x ∈ s.alert.queue, x.id = id.toNat → x = r) → (∀ x ∈ s.alert.queue, x.state ≠ .ready) →
    r.state = .waitingRelease →
    (s.accepts .b →
      ∃ t, Sys2Proof.Machine.exec (.alertRelease .b id) s = .next t ∧
        s.preempts t r (s.alert.others r.id) [.preempt] ∧
        s.doneWithin t .b 0x0053 [id.toNat, 3, 1] airingParts eventWord) ∧
    (s.runs → r.forwardTimer = some 0 →
      ∃ t, Sys2Proof.Machine.exec (.forwardTimerExpiry id) s = .next t ∧
        s.preempts t { r with forwarded := true } (s.alert.others r.id) [.preempt] ∧
        s.within t airingParts eventWord)) ∧
  ∀ (s : State) (r : AlertRec) (front back : List AlertRec), s.runs → s.ownersRest → s.alert.phase = .restore →
    s.alert.phaseLength ≤ s.alert.phaseEvents → s.alert.queue = front ++ r :: back → r.state = .ready →
    (∀ x ∈ front, x.state ≠ .ready) →
    ∃ t, Sys2Proof.Machine.exec .restoreEnd s = .next t ∧
      s.preempts t r (s.alert.others r.id) [.standby, .preempt] ∧ s.within t airingParts eventWord

/-- The phases of an airing: PREEMPT_END and TONE_END lead to TONE, its generators begun, or MESSAGE; MESSAGE_END, with the
last pair taken, ends the airing with AIRED; with no READY record left RESTORE follows, ALERT cut and the hold off, and
RESTORE_END leads to STANDBY (R126 to R131). ALERT_CANCEL of the AIRING record ends it the same way with CANCELLED, unless the
last pair is taken: then the record has left as AIRED, and the cancel is NOT_FOUND (R123, R130), also before MESSAGE_END (log
49). With a READY record left the
first one airs back to back, also after a cancel: its TONE, or its MESSAGE, begins with no new hold (R130). The framer is
handed the ENDED notice, before the STARTED notice of the next record (R130, R158). -/
def Obligations.AiringsRunTheirPhases : Prop :=
  (∀ (s : State) (front back : List AlertRec) (r x : AlertRec) (i : Instr) (o : AlertOutcome) (id : Word),
    s.endsAiring r i o id → s.alert.queue = r :: front ++ x :: back → r.state = .airing →
    (∀ y ∈ front ++ x :: back, y.id ≠ r.id) → (∀ y ∈ front ++ back, y.id ≠ x.id) → (∀ y ∈ front, y.state ≠ .ready) →
    x.state = .ready → s.keepsClip r.clip →
    ∃ t, Sys2Proof.Machine.exec i s = .next t ∧ t.alert.queue = x.aired :: (front ++ back) ∧
      s.alertLeft t r o ∧ s.airsRecord t x ∧ t.air = s.air ∧
      t.alert.phase = (if x.tone = 0 then .message else .tone) ∧ t.alert.phaseEvents = 0 ∧
      t.alert.phaseLength = x.tone * 48000 ∧
      s.announces t
        [r.notice false o s.alert.truncated s.link.sequence,
         x.notice true .none (decide (s.alert.maxMessage * 48000 < x.sealed)) (s.link.sequence + 1)] ∧
      t.endingAnswer i o id ∧
      s.within t [.alert, .clips, .arbiter, .link, .lamps, .counters] (endingWord i)) ∧
  (∀ (s : State) (front back : List AlertRec) (r : AlertRec), s.runs → s.alert.phase = .preempt →
    s.alert.phaseLength ≤ s.alert.phaseEvents → s.alert.queue = front ++ r :: back → r.state = .airing →
    (∀ x ∈ front, x.state ≠ .airing) →
    (r.tone = 0 →
      ∃ t, Sys2Proof.Machine.exec .preemptEnd s = .next t ∧
        t.alert = { s.alert with phase := .message, phaseEvents := 0, phaseLength := 0 } ∧
        s.within t [.alert, .link, .lamps, .counters] (fun _ => False)) ∧
    (r.tone ≠ 0 →
      ∃ t, Sys2Proof.Machine.exec .preemptEnd s = .next t ∧
        t.alert =
          { s.alert with
            phase := .tone, phaseEvents := 0, phaseLength := r.tone * 48000
            gen1 := ⟨s.alert.tone1, 0, s.alert.tone1.reload, true⟩
            gen2 := ⟨s.alert.tone2, 0, s.alert.tone2.reload, true⟩ } ∧
        s.within t [.alert, .link, .lamps, .counters] (fun _ => False))) ∧
  (∀ s : State, s.runs → s.alert.phaseLength ≤ s.alert.phaseEvents →
    (s.alert.phase = .tone →
      ∃ t, Sys2Proof.Machine.exec .toneEnd s = .next t ∧
        t.alert = { s.alert with phase := .message, phaseEvents := 0, phaseLength := 0 } ∧
        t.link.studio = { s.link.studio with phase := .message } ∧
        s.within t [.alert, .link, .lamps, .counters] (fun _ => False)) ∧
    (s.alert.phase = .restore → (∀ x ∈ s.alert.queue, x.state ≠ .ready) →
      ∃ t, Sys2Proof.Machine.exec .restoreEnd s = .next t ∧
        t.alert = { s.alert with phase := .standby, phaseEvents := 0, phaseLength := 0 } ∧
        t.link.studio = { s.link.studio with phase := .standby } ∧
        s.within t [.alert, .link, .lamps, .counters] (fun _ => False))) ∧
  ∀ (s : State) (rest : List AlertRec) (r : AlertRec) (o : AlertOutcome) (i : Instr) (id : Word), s.ownersRest →
    s.alert.queue = r :: rest → r.state = .airing → (∀ x ∈ rest, x.id ≠ r.id ∧ x.state ≠ .ready) → s.keepsClip r.clip →
    s.endsAiring r i o id →
    ∃ t, Sys2Proof.Machine.exec i s = .next t ∧ t.alert.queue = rest ∧ s.alertLeft t r o ∧ t.alert.phase = .restore ∧
      t.alert.phaseEvents = 0 ∧ t.alert.phaseLength = max 1 (s.alert.restoreFade * 48) ∧
      t.alert.reader = ⟨none, 0, []⟩ ∧ t.air.hold = false ∧ t.air.sources.alert.state = .off ∧
      t.air.sources.alert.level = 0 ∧ t.link.studio.phase = .restore ∧
      s.announces t [r.notice false o s.alert.truncated s.link.sequence] ∧ t.endingAnswer i o id ∧
      s.within t airingParts (endingWord i)

/-- A forward timer that runs out makes a WAITING_RELEASE record READY and forwarded, an expiry timer takes a record that is
not AIRING out with EXPIRED (R121, R122). A tone generator's counter past 255 returns to its reload and turns the output's
sign (R127). That timers not run out, and a counter of 255 or less, change nothing is the model's choice (log 6). -/
def Obligations.AlertTimersAndTones : Prop :=
  (∀ (s : State) (id : Word) (front back : List AlertRec) (r : AlertRec), s.runs → id ≠ 0 →
    s.alert.queue = front ++ r :: back → r.id = id.toNat → (∀ x ∈ front ++ back, x.id ≠ id.toNat) →
    (r.forwardTimer = some 0 → r.state = .waitingRelease → s.alert.phase ≠ .standby →
      ∃ t, Sys2Proof.Machine.exec (.forwardTimerExpiry id) s = .next t ∧
        t.alert =
          { s.alert with
            queue := front ++ { r with state := .ready, forwarded := true, forwardTimer := none } :: back } ∧
        s.within t [.alert, .lamps] (fun _ => False)) ∧
    (r.expiryTimer = some 0 → r.state ≠ .airing → s.keepsClip r.clip →
      ∃ t, Sys2Proof.Machine.exec (.expiryTimerExpiry id) s = .next t ∧ t.alert.queue = front ++ back ∧
        s.alertLeft t r .expired ∧ s.within t [.alert, .clips, .lamps, .counters] eventWord) ∧
    (r.forwardTimer ≠ some 0 → Sys2Proof.Machine.exec (.forwardTimerExpiry id) s = .next s) ∧
    (r.expiryTimer ≠ some 0 → Sys2Proof.Machine.exec (.expiryTimerExpiry id) s = .next s)) ∧
  ∀ (s : State) (g : Generator) (f : ToneState → ToneState), s.clock.power ≠ .reset →
    (∀ x, f x = if 255 < x.counter then { x with counter := x.settings.reload, positive := !x.positive } else x) →
    Sys2Proof.Machine.exec (.toneGeneratorOverflow g) s = .next
      { s with alert := match g with
        | .t1 => { s.alert with gen1 := f s.alert.gen1 }
        | .t2 => { s.alert with gen2 := f s.alert.gen2 } }

/-! ## Dead air -/

/-- FALLBACK_SET arms the fallback with a READY clip, locked before the old one is given up, or disarms it, and rewinds the
reader; a bad flag or clip is BAD_PARAM, ENGAGED, FALLBACK on the air or a clip not READY BAD_STATE (R144 to R146); the
clip a disarmed DONE reports is a free value (log 4). An arming one behind a page search holds the monitor (R147; log 21).
DEADAIR_SET stores its settings, each clamped: a threshold above 0 starts a DISARMED monitor, one of 0 stops a WATCHING one
and is BAD_STATE in ENGAGED; in WATCHING the count of silent windows falls to a new limit, in ENGAGED the recovery count falls
to a new recovery (R139). That the count of silent windows stays in ENGAGED, also above a lowered limit, is the model's choice
(log 41). -/
def Obligations.FallbackAndDeadAirAreSet : Prop :=
  (∀ (s : State) (clip gain armed : Word) (G : Nat) (off : Bool), s.accepts .a → G = min gain.toNat 32768 →
    off = (decide (s.deadAir.state ≠ .engaged) && decide (s.air.sources.fallback.state = .off)) →
    (2 ≤ armed.toNat ∨ (armed = 1 ∧ 127 < clip.toNat) →
      ∃ t, Sys2Proof.Machine.exec (.fallbackSet .a clip gain armed) s = .next t ∧
        s.refusedOnly t .a 0x0020 .badParam) ∧
    (armed = 0 ∨ (armed = 1 ∧ clip.toNat ≤ 127) → off = false →
      ∃ t, Sys2Proof.Machine.exec (.fallbackSet .a clip gain armed) s = .next t ∧
        s.refusedOnly t .a 0x0020 .badState) ∧
    (armed = 0 → off = true → s.deadAir.binding = none →
      ∃ t, Sys2Proof.Machine.exec (.fallbackSet .a clip gain armed) s = .next t ∧
        s.doneOnly t .a 0x0020 [0, s.unstated.absentClip.toNat, G, monitorCode s.deadAir.state]
          { s.endGrantOf .fallback false with
            deadAir := { s.deadAir with gain := G, buffer := [], fetchPosition := 0, playPosition := 0 } }
          (inRecord .deadAir)) ∧
    (∀ b, armed = 0 → off = true → s.deadAir.binding = some b → s.keepsClip b.clip →
      ∃ t, Sys2Proof.Machine.exec (.fallbackSet .a clip gain armed) s = .next t ∧
        s.doneOnly t .a 0x0020 [0, s.unstated.absentClip.toNat, G, monitorCode s.deadAir.state]
          { s.endGrantOf .fallback false with
            clips := s.lockReleased b.clip
            deadAir :=
              { s.deadAir with binding := none, gain := G, buffer := [], fetchPosition := 0, playPosition := 0 } }
          (fun a => inRecord .deadAir a ∨ inRecord (.clip b.clip) a)) ∧
    ∀ (i : Fin 128) (e : ClipEntry), armed = 1 → clip.toNat = i.val → s.clip i = e → off = true →
      (¬ s.storeFree →
        ∃ t, Sys2Proof.Machine.exec (.fallbackSet .a clip gain armed) s = .next t ∧
          s.busyOnly t .a 0x0020 [clip, gain, armed]
            { s with
              clips := { s.clips with waiting := s.clips.waiting ++ [.fallbackArm i G] }
              deadAir := { s.deadAir with arming := true } }) ∧
      (s.storeFree → e.state ≠ .ready →
        ∃ t, Sys2Proof.Machine.exec (.fallbackSet .a clip gain armed) s = .next t ∧
          s.refusedOnly t .a 0x0020 .badState) ∧
      (s.storeFree → e.state = .ready → s.deadAir.binding = none →
        ∃ t, Sys2Proof.Machine.exec (.fallbackSet .a clip gain armed) s = .next t ∧
          s.doneOnly t .a 0x0020 [1, i.val, G, monitorCode s.deadAir.state]
            { s.endGrantOf .fallback false with
              clips := s.lockTaken i
              deadAir :=
                { s.deadAir with
                  binding := some ⟨i, e.first, e.pages, e.sealed⟩, gain := G, buffer := [], fetchPosition := 0
                  playPosition := 0 } }
            (fun a => inRecord .deadAir a ∨ inRecord (.clip i) a)) ∧
      (∀ b, s.storeFree → e.state = .ready → s.deadAir.binding = some b → b.clip = i →
        ∃ t, Sys2Proof.Machine.exec (.fallbackSet .a clip gain armed) s = .next t ∧
          s.doneOnly t .a 0x0020 [1, i.val, G, monitorCode s.deadAir.state]
            { s.endGrantOf .fallback false with
              deadAir :=
                { s.deadAir with
                  binding := some ⟨i, e.first, e.pages, e.sealed⟩, gain := G, buffer := [], fetchPosition := 0
                  playPosition := 0 } }
            (fun a => inRecord .deadAir a ∨ inRecord (.clip i) a)) ∧
      ∀ b, s.storeFree → e.state = .ready → s.deadAir.binding = some b → b.clip ≠ i → s.keepsClip b.clip →
        ∃ t, Sys2Proof.Machine.exec (.fallbackSet .a clip gain armed) s = .next t ∧
          s.doneOnly t .a 0x0020 [1, i.val, G, monitorCode s.deadAir.state]
            { s.endGrantOf .fallback false with
              clips :=
                { s.clips with
                  table := (s.clips.table.set i { e with locks := e.locks + 1 }).set b.clip
                    { s.clip b.clip with locks := (s.clip b.clip).locks - 1 } }
              deadAir :=
                { s.deadAir with
                  binding := some ⟨i, e.first, e.pages, e.sealed⟩, gain := G, buffer := [], fetchPosition := 0
                  playPosition := 0 } }
            (fun a => inRecord .deadAir a ∨ inRecord (.clip i) a ∨ inRecord (.clip b.clip) a)) ∧
  ∀ (s : State) (threshold : Long) (limit recovery fade : Word) (m : DeadAir), s.accepts .a →
    m = { s.deadAir with
      threshold := min threshold.toNat 8388607, limit := min 600 (max 1 limit.toNat)
      recovery := min 50 (max 1 recovery.toNat), fade := min fade.toNat 2000 } →
    (m.state = .engaged → m.threshold = 0 →
      ∃ t, Sys2Proof.Machine.exec (.deadairSet .a threshold limit recovery fade) s = .next t ∧
        s.refusedOnly t .a 0x0021 .badState) ∧
    (m.state ≠ .engaged ∨ m.threshold ≠ 0 →
      ∃ t, Sys2Proof.Machine.exec (.deadairSet .a threshold limit recovery fade) s = .next t ∧
        t.deadAir =
          (match m.state with
            | .disarmed =>
              if m.threshold = 0 then m
              else { m with state := .watching, silence := 0, reported := false, recoveryCount := 0 }
            | .watching =>
              if m.threshold = 0 then { m with state := .disarmed, silence := 0, reported := false }
              else { m with silence := min m.silence m.limit }
            | .engaged => { m with recoveryCount := min m.recoveryCount m.recovery }) ∧
        (t.deadAir.state ≠ s.deadAir.state →
          t.link.studio = { s.link.studio with monitor := t.deadAir.state }) ∧
        s.doneWithin t .a 0x0021
          (words2 m.threshold ++ [m.limit, m.recovery, m.fade, monitorCode t.deadAir.state])
          [.deadAir, .link, .counters] (fun _ => False))

/-! ## The transmitter link -/

/-- The check of R154, bit by bit: the register starts at 0xFFFF and takes each byte most significant bit first; for each
bit it shifts left and, where its top bit and the bit differ, is XORed with 0x1021. A frame sent ends with the check over
its header and payload, high byte first, and a frame received is judged by the same check. -/
def Obligations.TheCheckIsR154s : Prop :=
  (∀ (feed : Word → Bool → Word) (xs : List Byte),
    (∀ c b, feed c b = if c.getLsbD 15 = b then c <<< 1 else (c <<< 1) ^^^ 0x1021) →
    crc xs = (xs.flatMap fun x => [x.getLsbD 7, x.getLsbD 6, x.getLsbD 5, x.getLsbD 4, x.getLsbD 3, x.getLsbD 2,
      x.getLsbD 1, x.getLsbD 0]).foldl feed 0xFFFF) ∧
  (∀ (f : Frame) (hi lo : Byte), hi ++ lo = crc (f.header ++ f.payload) →
    f.wire = [0xA5, 0x3C] ++ f.header ++ f.payload ++ [hi, lo]) ∧
  (∀ (k x sh sl lh ll c1 c2 : Byte) (payload : List Byte), payload.length = lh.toNat * 256 + ll.toNat →
    payload.length ≤ 288 →
    (judge ([k, x, sh, sl, lh, ll] ++ payload ++ [c1, c2]) = .badCheck ↔
      c1 ++ c2 ≠ crc ([k, x, sh, sl, lh, ll] ++ payload))) ∧
  crc [0x31, 0x32, 0x33, 0x34, 0x35, 0x36, 0x37, 0x38, 0x39] = 0x29B1 ∧ crc [] = 0xFFFF

/-- LINK_SET stores rate and loss timeout, clamped to 50 to 5000 ms. Enabling starts framer and receiver and forms a
STUDIO_STATUS frame with the next number; disabling empties assembly and queues uncounted, ends pause and loss timer, stops
the receiver and leaves the link DOWN, with LINK_CHANGE if it was not, a frame being sent going on. A bad flag is BAD_PARAM
(R151, R152, R159, R160, R164). How many rewrites of the link record one LINK_SET makes is the model's choice (log 47) and not
said here. -/
def Obligations.LinkSetEnablesAndDisables : Prop :=
  ∀ (s : State) (enable rate timeout : Word) (L : Nat) (fast : Bool), s.accepts .a →
    L = min 5000 (max 50 timeout.toNat) → fast = decide (rate = 1) →
    (2 ≤ enable.toNat ∨ 2 ≤ rate.toNat →
      ∃ t, Sys2Proof.Machine.exec (.linkSet .a enable rate timeout) s = .next t ∧ s.refusedOnly t .a 0x0028 .badParam) ∧
    (enable.toNat ≤ 1 → rate.toNat ≤ 1 →
      (enable = (if s.link.enabled = true then 1 else 0) →
        ∃ t, Sys2Proof.Machine.exec (.linkSet .a enable rate timeout) s = .next t ∧
          s.doneOnly t .a 0x0028 [enable.toNat, rate.toNat, L, linkCode s.link.state]
            { s with link := { s.link with fast := fast, lossTimeout := L } } (inRecord .link)) ∧
      (enable = 1 → s.link.enabled = false → s.link.priorityQueue = [] → s.link.programQueue = [] →
        s.link.pause = none →
        ∀ F : Frame, F = ⟨.studioStatus, 4, s.link.sequence, s.link.studio.payload⟩ →
          ∃ t, Sys2Proof.Machine.exec (.linkSet .a enable rate timeout) s = .next t ∧
            s.doneOnly t .a 0x0028 [1, rate.toNat, L, linkCode s.link.state]
              { s with link :=
                { s.link with
                  enabled := true, fast := fast, lossTimeout := L, assembly := [], receiver := .hunting
                  sequence := s.link.sequence + 1
                  sending := if s.link.sending = none then some ⟨F, fast, F.wire, 208⟩ else s.link.sending
                  priorityQueue := if s.link.sending = none then [] else [F] } }
              (inRecord .link)) ∧
      (enable = 0 → s.link.enabled = true →
        ∃ t, Sys2Proof.Machine.exec (.linkSet .a enable rate timeout) s = .next t ∧
          t.link =
            { s.link with
              enabled := false, fast := fast, lossTimeout := L, assembly := [], programQueue := [], priorityQueue := []
              pause := none, lossTimer := none, receiver := .stopped, state := .down } ∧
          (t.lamps.lamps.get .link).mode = .off ∧ (s.link.state ≠ .down → ∀ p, t.hasEvent p .linkChange) ∧
          s.doneWithin t .a 0x0028 [0, rate.toNat, L, 0] [.link, .lamps]
            (fun a => s.link.state ≠ .down ∧ eventWord a)))

/-- Frames formed while the link is enabled. 48 program pairs make a PROGRAM frame, priority 0 while the framer last took
STANDBY and no departure from it, 6 otherwise, and a full program queue gives up its oldest frame; a notice handed over makes
a frame of priority 7, and a change of a studio value one of priority 4, which a full priority queue drops; each takes the
next number. Leaving STANDBY raises all queued program to 6, and the frames formed from then on have 6 (R155 to R163). An idle
transmitter starts at once a frame that passes (R164). That PROGRAM_FRAME_FORMED with fewer than 48 pairs, or the link
disabled, changes nothing is the model's choice (log 6). -/
def Obligations.FramesAreFormedAndQueued : Prop :=
  (∀ (s : State) (F : Frame) (l : Link) (Q : List Frame) (u : State) (passes : Frame → Prop), s.runs →
    (∀ f, passes f ↔ ∀ x ∈ s.link.pause, x.threshold < f.priority) →
    F = ⟨.program, if s.link.studio.phase = .standby ∧ s.link.departed = false then 0 else 6, s.link.sequence,
      (s.link.assembly.take 48).flatMap fun p =>
        [p.left.extractLsb' 16 8, p.left.extractLsb' 8 8, p.left.extractLsb' 0 8,
         p.right.extractLsb' 16 8, p.right.extractLsb' 8 8, p.right.extractLsb' 0 8]⟩ →
    Q = (if s.link.programQueue.length < 14 then s.link.programQueue else s.link.programQueue.tail) ++ [F] →
    l = { s.link with assembly := s.link.assembly.drop 48, sequence := s.link.sequence + 1, programQueue := Q } →
    u = (if s.link.programQueue.length < 14 then s else s.count .programDropped) →
    (s.link.enabled = true → 48 ≤ s.link.assembly.length →
      (s.link.sending.isSome = true ∨ ((∀ x ∈ s.link.priorityQueue, ¬ passes x) ∧ ∀ x ∈ Q.head?, ¬ passes x) →
        ∃ t, Sys2Proof.Machine.exec .programFrameFormed s = .next t ∧
          s.changedTo t { u with link := l } (fun _ => False)) ∧
      (∀ f rest, s.link.sending = none → (∀ x ∈ s.link.priorityQueue, ¬ passes x) → Q = f :: rest → passes f →
        ∃ t, Sys2Proof.Machine.exec .programFrameFormed s = .next t ∧
          s.changedTo t
            { u with link :=
              { l with
                programQueue := rest
                sending := some ⟨f, s.link.fast, f.wire, (8 + f.payload.length + 2 + 12) * 8⟩ } }
            (fun _ => False))) ∧
    (s.link.enabled = false ∨ s.link.assembly.length < 48 →
      Sys2Proof.Machine.exec .programFrameFormed s = .next s)) ∧
  (∀ (s : State) (i : Instr) (F : Frame) (v : StudioValues) (gone : Bool) (l : Link) (passes : Frame → Prop), s.runs →
    (∀ f, passes f ↔ ∀ x ∈ s.link.pause, x.threshold < f.priority) →
    ((∃ n : AlertNotice, i = .alertNoticeHanded n ∧ v = s.link.studio ∧ gone = s.link.departed ∧
        F = ⟨.alertNotice, 7, s.link.sequence,
          [n.id.extractLsb' 8 8, n.id.extractLsb' 0 8, byte (classCode n.cls), byte n.priority, byte n.tone,
           byte (if n.started = true then 1 else 2), byte (outcomeCode n.outcome),
           byte ((if n.forwarded = true then 1 else 0) + (if n.truncated = true then 2 else 0))]⟩) ∨
      ∃ c : StudioChange, i = .studioValueChange c ∧ v ≠ s.link.studio ∧
        gone = (s.link.departed && c != .phase .standby) ∧
        v = (match c with
          | .phase p => { s.link.studio with phase := p }
          | .monitor m => { s.link.studio with monitor := m }
          | .mic b => { s.link.studio with micOpen := b }
          | .line k b => { s.link.studio with linesOnAir := s.link.studio.linesOnAir.set k b }) ∧
        F = ⟨.studioStatus, 4, s.link.sequence, v.payload⟩) →
    l = { s.link with studio := v, departed := gone, sequence := s.link.sequence + 1 } →
    (s.link.enabled = false →
      ∃ t, Sys2Proof.Machine.exec i s = .next t ∧
        s.changedTo t { s with link := { s.link with studio := v, departed := gone } } (fun _ => False)) ∧
    (s.link.enabled = true → s.link.priorityQueue.length < 4 →
      s.link.sending.isSome = true ∨
        ((∀ x ∈ s.link.priorityQueue ++ [F], ¬ passes x) ∧ ∀ x ∈ s.link.programQueue.head?, ¬ passes x) →
      ∃ t, Sys2Proof.Machine.exec i s = .next t ∧
        s.changedTo t { s with link := { l with priorityQueue := s.link.priorityQueue ++ [F] } } (inRecord .link)) ∧
    (s.link.enabled = true → s.link.priorityQueue.length < 4 → s.link.sending = none →
      (∀ x ∈ s.link.priorityQueue, ¬ passes x) → passes F →
      ∃ t, Sys2Proof.Machine.exec i s = .next t ∧
        (s.clock.begun = true →
          t.xm.read (RecordId.place .link) = s.xm.read (RecordId.place .link) + 2) ∧
        s.changedTo t
          { s with link :=
            { l with sending := some ⟨F, s.link.fast, F.wire, (8 + F.payload.length + 2 + 12) * 8⟩ } }
          (inRecord .link)) ∧
    (s.link.enabled = true → 4 ≤ s.link.priorityQueue.length →
      ∃ t, Sys2Proof.Machine.exec i s = .next t ∧
        s.changedTo t { s.count .noticeDropped with link := l } (fun _ => False))) ∧
  (∀ (s : State) (c : StudioChange), s.runs → s.link.studio.take c = s.link.studio →
    Sys2Proof.Machine.exec (.studioValueChange c) s = .next
      { s with link := { s.link with departed := s.link.departed && c != .phase .standby } }) ∧
  ∀ (s : State) (Q : List Frame), s.runs → Q = s.link.programQueue.map (fun f => { f with priority := 6 }) →
    (s.link.enabled = false ∨ s.link.sending.isSome = true ∨ Q = [] ∨ (∃ x ∈ s.link.pause, 6 ≤ x.threshold) →
      s.link.enabled = false ∨ s.link.sending.isSome = true ∨
        (∀ x ∈ s.link.priorityQueue, ∃ y ∈ s.link.pause, x.priority ≤ y.threshold) →
      ∃ t, Sys2Proof.Machine.exec .standbyDeparture s = .next t ∧
        s.changedTo t { s with link := { s.link with departed := true, programQueue := Q } } (fun _ => False)) ∧
    ∀ f rest, s.link.enabled = true → s.link.sending = none → Q = f :: rest → (∀ x ∈ s.link.pause, x.threshold < 6) →
      (∀ x ∈ s.link.priorityQueue, ∃ y ∈ s.link.pause, x.priority ≤ y.threshold) →
      ∃ t, Sys2Proof.Machine.exec .standbyDeparture s = .next t ∧
        s.changedTo t
          { s with link :=
            { s.link with
              departed := true, programQueue := rest
              sending := some ⟨f, s.link.fast, f.wire, (8 + f.payload.length + 2 + 12) * 8⟩ } } (fun _ => False)

/-- TRANSMIT_GAP_END frees the transmitter, which sends the oldest frame of the priority queue that passes the pause, else
the head of the program queue if it passes, else nothing: the frame leaves its queue, at the rate in force, as start
pattern, header, payload and check, and holds the line for (8 + length + 2 + 12) 8 bits; a disabled one becomes idle (R152,
R153, R164). That TRANSMIT_GAP_END with nothing being sent changes nothing is the model's choice (log 6). -/
def Obligations.TransmitterSendsWhatPasses : Prop :=
  (∀ (s : State) (passes : Frame → Prop), s.runs →
    (∀ f, passes f ↔ ∀ x ∈ s.link.pause, x.threshold < f.priority) →
    (s.link.sending = none → Sys2Proof.Machine.exec .transmitGapEnd s = .next s) ∧
    (s.link.sending.isSome = true →
      (∀ front back f, s.link.enabled = true → s.link.priorityQueue = front ++ f :: back → passes f →
        (∀ x ∈ front, ¬ passes x) →
        ∃ t, Sys2Proof.Machine.exec .transmitGapEnd s = .next t ∧
          s.changedTo t
            { s with link :=
              { s.link with
                priorityQueue := front ++ back
                sending := some ⟨f, s.link.fast, f.wire, (8 + f.payload.length + 2 + 12) * 8⟩ } }
            (inRecord .link)) ∧
      (∀ f rest, s.link.enabled = true → (∀ x ∈ s.link.priorityQueue, ¬ passes x) → s.link.programQueue = f :: rest →
        passes f →
        ∃ t, Sys2Proof.Machine.exec .transmitGapEnd s = .next t ∧
          s.changedTo t
            { s with link :=
              { s.link with
                programQueue := rest
                sending := some ⟨f, s.link.fast, f.wire, (8 + f.payload.length + 2 + 12) * 8⟩ } }
            (fun _ => False)) ∧
      (s.link.enabled = false ∨
          ((∀ x ∈ s.link.priorityQueue, ¬ passes x) ∧ ∀ x ∈ s.link.programQueue.head?, ¬ passes x) →
        ∃ t, Sys2Proof.Machine.exec .transmitGapEnd s = .next t ∧
          s.changedTo t { s with link := { s.link with sending := none } } (fun _ => False)))) ∧
  ∀ (f : Frame) (hi lo : Byte), hi ++ lo = crc (f.header ++ f.payload) →
    f.wire =
      [0xA5, 0x3C, (match f.kind with | .program => 0x01 | .alertNotice => 0x02 | .studioStatus => 0x03),
       BitVec.ofNat 8 f.priority, f.sequence.extractLsb' 8 8, f.sequence.extractLsb' 0 8,
       BitVec.ofNat 8 (f.payload.length / 256), BitVec.ofNat 8 f.payload.length] ++ f.payload ++ [hi, lo]

/-- A valid PAUSE or SITE_STATUS that the receiver reads restarts the loss timer of an UP link and takes a DOWN or LOST one UP
with LINK_CHANGE and a STUDIO_STATUS frame, which a full priority queue drops and an idle transmitter starts at once; a PAUSE
is counted and starts, replaces or ends the pause, its threshold at most 7, and what then passes is started; a SITE_STATUS
replaces the site status, a changed carrier raising LINK_CHANGE (R155, R163, R164, R166 to R170). That the receiver reads a
frame once START_PATTERN_FOUND has found its start is log 12. -/
def Obligations.ValidFramesAreTaken : Prop :=
  ∀ (s : State) (i : Instr) (x sh sl c1 c2 : Byte) (body : List Byte) (P : Option Pause) (site : SiteStatus) (l : Link)
    (F : Frame) (parts : List Part) (words : Nat → Prop) (told : State → Prop), s.runs → s.link.enabled = true →
    s.link.receiver = .reading →
    c1 ++ c2 = crc body →
    (∃ dh dl th : Byte, body = [0x81, x, sh, sl, 0, 3, dh, dl, th] ∧ i = .pauseFrame (body ++ [c1, c2]) ∧
        P = (if dh = 0 ∧ dl = 0 then none
          else some ⟨min th.toNat 7, some ((dh.toNat * 256 + dl.toNat) * 48)⟩) ∧
        site = { s.link.site with lastSequence := sh ++ sl }) ∨
      (∃ fl level : Byte, body = [0x82, x, sh, sl, 0, 2, fl, level] ∧ i = .siteStatusFrame (body ++ [c1, c2]) ∧
        P = s.link.pause ∧ site = ⟨true, fl.getLsbD 7, fl.extractLsb' 0 4, level.toNat, sh ++ sl⟩) →
    l = { s.link with receiver := .hunting, lossTimer := some (s.link.lossTimeout * 48), pause := P, site := site } →
    F = ⟨.studioStatus, 4, s.link.sequence, s.link.studio.payload⟩ → parts = [.link, .lamps, .counters] →
    (∀ a, words a ↔ (s.link.state ≠ .up ∨ site.carrier ≠ s.link.site.carrier) ∧ eventWord a) →
    (∀ t, told t ↔
      (s.link.state ≠ .up ∨ site.carrier ≠ s.link.site.carrier → ∀ p, t.hasEvent p .linkChange) ∧
      t.counters[Counter.rxPause.index] =
        (if body.head? = some 0x81 then min 4294967295 (s.counters[Counter.rxPause.index] + 1)
         else s.counters[Counter.rxPause.index]) ∧
      ∀ c : Counter, c ≠ .rxPause → c ≠ .noticeDropped → t.counters[c.index] = s.counters[c.index]) →
    (s.link.sending.isSome = true →
      ∃ t, Sys2Proof.Machine.exec i s = .next t ∧
        t.link =
          (if s.link.state = .up then l
           else if s.link.priorityQueue.length < 4 then
            { l with state := .up, sequence := s.link.sequence + 1, priorityQueue := s.link.priorityQueue ++ [F] }
           else { l with state := .up, sequence := s.link.sequence + 1 }) ∧
        told t ∧
        t.counters[Counter.noticeDropped.index] =
          (if s.link.state ≠ .up ∧ 4 ≤ s.link.priorityQueue.length then
            min 4294967295 (s.counters[Counter.noticeDropped.index] + 1)
           else s.counters[Counter.noticeDropped.index]) ∧
        s.within t parts words) ∧
    (s.link.sending = none → s.link.state ≠ .up → s.link.pause = none → s.link.priorityQueue = [] →
      s.link.programQueue = [] →
      ∃ t, Sys2Proof.Machine.exec i s = .next t ∧
        t.link =
          { l with
            state := .up, sequence := s.link.sequence + 1
            sending := some ⟨F, s.link.fast, F.wire, 208⟩ } ∧
        told t ∧ t.counters[Counter.noticeDropped.index] = s.counters[Counter.noticeDropped.index] ∧
        s.within t parts words) ∧
    (s.link.sending = none → s.link.state = .up →
      (∀ f ∈ s.link.priorityQueue, ∃ y ∈ s.link.pause, f.priority ≤ y.threshold) →
      (∀ f ∈ s.link.programQueue.head?, ∃ y ∈ s.link.pause, f.priority ≤ y.threshold) →
      ((∀ f ∈ s.link.priorityQueue, ∃ y ∈ P, f.priority ≤ y.threshold) →
        (∀ f ∈ s.link.programQueue.head?, ∃ y ∈ P, f.priority ≤ y.threshold) →
        ∃ t, Sys2Proof.Machine.exec i s = .next t ∧ t.link = l ∧ told t ∧
          t.counters[Counter.noticeDropped.index] = s.counters[Counter.noticeDropped.index] ∧
          s.within t parts words) ∧
      (∀ front back f, s.link.priorityQueue = front ++ f :: back → (∀ y ∈ P, y.threshold < f.priority) →
        (∀ g ∈ front, ∃ y ∈ P, g.priority ≤ y.threshold) →
        ∃ t, Sys2Proof.Machine.exec i s = .next t ∧
          t.link =
            { l with
              priorityQueue := front ++ back
              sending := some ⟨f, s.link.fast, f.wire, (8 + f.payload.length + 2 + 12) * 8⟩ } ∧
          told t ∧ t.counters[Counter.noticeDropped.index] = s.counters[Counter.noticeDropped.index] ∧
          s.within t parts words) ∧
      ∀ f rest, (∀ g ∈ s.link.priorityQueue, ∃ y ∈ P, g.priority ≤ y.threshold) → s.link.programQueue = f :: rest →
        (∀ y ∈ P, y.threshold < f.priority) →
        ∃ t, Sys2Proof.Machine.exec i s = .next t ∧
          t.link =
            { l with
              programQueue := rest
              sending := some ⟨f, s.link.fast, f.wire, (8 + f.payload.length + 2 + 12) * 8⟩ } ∧
          told t ∧ t.counters[Counter.noticeDropped.index] = s.counters[Counter.noticeDropped.index] ∧
          s.within t parts words)

/-- The receiver starts a frame at 0xA5 0x3C while hunting. A frame it reads whose check fails counts RX_BAD_CHECK; one longer
than 288, or with a good check but no kind and length of the site's, counts RX_BAD_FRAME; both are dropped and the receiver
hunts again (R168). The loss timer running out takes an UP link to LOST, counted, with LINK_CHANGE, and ends a pause; the
pause timer running out ends the pause; either way an idle transmitter starts the frame the pause held back (R164, R167,
R170). Out of turn they do nothing (logs 6 and 12). -/
def Obligations.BadFramesAndLinkTimers : Prop :=
  (∀ (s : State) (k x sh sl lh ll : Byte) (rest payload : List Byte) (c1 c2 : Byte) (bytes : List Byte), s.runs →
    s.link.enabled = true → s.link.receiver = .reading → bytes = [k, x, sh, sl, lh, ll] ++ rest →
    (rest = payload ++ [c1, c2] → payload.length = lh.toNat * 256 + ll.toNat → payload.length ≤ 288 →
      c1 ++ c2 ≠ crc ([k, x, sh, sl, lh, ll] ++ payload) →
      ∃ t, Sys2Proof.Machine.exec (.rxBadCheck bytes) s = .next t ∧
        s.changedTo t { s.count .rxBadCheck with link := { s.link with receiver := .hunting } } (fun _ => False)) ∧
    (288 < lh.toNat * 256 + ll.toNat ∨
        (rest = payload ++ [c1, c2] ∧ payload.length = lh.toNat * 256 + ll.toNat ∧
          c1 ++ c2 = crc ([k, x, sh, sl, lh, ll] ++ payload) ∧
          ¬ (k = 0x81 ∧ payload.length = 3) ∧ ¬ (k = 0x82 ∧ payload.length = 2)) →
      ∃ t, Sys2Proof.Machine.exec (.rxBadFrame bytes) s = .next t ∧
        s.changedTo t { s.count .rxBadFrame with link := { s.link with receiver := .hunting } } (fun _ => False))) ∧
  (∀ (s : State) (bytes : List Byte) (i : Instr), s.runs → s.link.enabled = false ∨ s.link.receiver ≠ .reading →
    i ∈ [Instr.pauseFrame bytes, .siteStatusFrame bytes, .rxBadCheck bytes, .rxBadFrame bytes] →
    Sys2Proof.Machine.exec i s = .next s) ∧
  (∀ (s : State) (bits : Word), s.clock.power ≠ .reset → s.link.enabled = true → s.link.receiver = .hunting →
    Sys2Proof.Machine.exec (.startPatternFound bits) s = .next
      { s with link :=
        { s.link with rxBits := bits, receiver := if bits = 0xA53C then .reading else .hunting } }) ∧
  (∀ s : State, s.runs →
    (s.link.lossTimer = some 0 → s.link.state = .up →
      s.link.enabled = false ∨ s.link.sending.isSome = true ∨ s.link.pause = none ∨
        (s.link.priorityQueue = [] ∧ s.link.programQueue = []) →
      ∃ t, Sys2Proof.Machine.exec .lossTimerExpiry s = .next t ∧
        t.link = { s.link with state := .lost, lossTimer := none, pause := none } ∧
        t.counters = (s.count .linkLosses).counters ∧ (∀ p, t.hasEvent p .linkChange) ∧
        (t.lamps.lamps.get .link).mode = .off ∧ s.within t [.link, .lamps, .counters] eventWord) ∧
    (∀ f rest (l : Link), s.link.lossTimer = some 0 → s.link.state = .up → s.link.enabled = true →
      s.link.sending = none → s.link.pause.isSome = true →
      l = { s.link with
        state := .lost, lossTimer := none, pause := none
        sending := some ⟨f, s.link.fast, f.wire, (8 + f.payload.length + 2 + 12) * 8⟩ } →
      s.link.priorityQueue = f :: rest ∨ (s.link.priorityQueue = [] ∧ s.link.programQueue = f :: rest) →
      ∃ t, Sys2Proof.Machine.exec .lossTimerExpiry s = .next t ∧
        t.link = (if s.link.priorityQueue = [] then { l with programQueue := rest } else { l with priorityQueue := rest }) ∧
        t.counters = (s.count .linkLosses).counters ∧ (∀ p, t.hasEvent p .linkChange) ∧
        (t.lamps.lamps.get .link).mode = .off ∧ s.within t [.link, .lamps, .counters] eventWord) ∧
    (s.link.lossTimer ≠ some 0 ∨ s.link.state ≠ .up → Sys2Proof.Machine.exec .lossTimerExpiry s = .next s)) ∧
  ∀ s : State, s.runs →
    (∀ x, s.link.pause = some x → x.timer = some 0 →
      (s.link.enabled = false ∨ s.link.sending.isSome = true ∨
          (s.link.priorityQueue = [] ∧ s.link.programQueue = []) →
        ∃ t, Sys2Proof.Machine.exec .pauseTimerExpiry s = .next t ∧ t.link = { s.link with pause := none } ∧
          s.within t [.link, .lamps] (fun _ => False)) ∧
      (∀ f rest, s.link.enabled = true → s.link.sending = none → s.link.priorityQueue = f :: rest →
        ∃ t, Sys2Proof.Machine.exec .pauseTimerExpiry s = .next t ∧
          t.link =
            { s.link with
              pause := none, priorityQueue := rest
              sending := some ⟨f, s.link.fast, f.wire, (8 + f.payload.length + 2 + 12) * 8⟩ } ∧
          s.within t [.link, .lamps] (fun _ => False)) ∧
      ∀ f rest, s.link.enabled = true → s.link.sending = none → s.link.priorityQueue = [] →
        s.link.programQueue = f :: rest →
        ∃ t, Sys2Proof.Machine.exec .pauseTimerExpiry s = .next t ∧
          t.link =
            { s.link with
              pause := none, programQueue := rest
              sending := some ⟨f, s.link.fast, f.wire, (8 + f.payload.length + 2 + 12) * 8⟩ } ∧
          s.within t [.link, .lamps] (fun _ => False)) ∧
    ((∀ x ∈ s.link.pause, x.timer ≠ some 0) → Sys2Proof.Machine.exec .pauseTimerExpiry s = .next s)

/-! ## The control ports -/

/-- A write of location 0 sets the XM pointer to the low 14 bits, whatever region they lie in, and empties the read-ahead;
location 0 reads as the pointer, its upper two bits 0; the next access of location 1 is to the word it names; the pointer
is 0 after RESET_N and after a port clear (R175). -/
def Obligations.TheXmPointerIsR175s : Prop :=
  (∀ (s : State) (p : Port) (v : Word), s.clock.power ≠ .reset → (s.ports.get p).wait = none →
    ∃ t, Sys2Proof.Machine.exec (.xmPointerWrite p v) s = .next t ∧
      t = { s with ports := s.ports.set p { s.ports.get p with pointer := v.extractLsb' 0 14, readAhead := [] } } ∧
      t.location0 p = v &&& 0x3FFF ∧
      (∃ u, Sys2Proof.Machine.exec (.xmDataRead p) t = .next u ∧
        (u.ports.get p).readData = s.xm.read (v &&& 0x3FFF).toNat) ∧
      ∀ w : Word, base p + 53 < (v &&& 0x3FFF).toNat → (v &&& 0x3FFF).toNat < base p + 4096 →
        ∃ u, Sys2Proof.Machine.exec (.xmDataWrite p w) t = .next u ∧
          ∀ a, u.xm.read a = if a = (v &&& 0x3FFF).toNat then w else s.xm.read a) ∧
  (∀ (s : State) (p : Port), ∃ t, Sys2Proof.Machine.exec .resetNAssert s = .next t ∧ (t.ports.get p).pointer = 0) ∧
  ∀ (s : State) (p : Port) (v : Word), s.clock.power ≠ .reset → (s.ports.get p).wait = none → v.getLsbD 15 = true →
    ∃ t, Sys2Proof.Machine.exec (.portClear p v) s = .next t ∧ (t.ports.get p).pointer = 0

/-- A read of location 1 returns the word at the pointer. A write reaches a word of the port's own region alone: elsewhere
it is discarded, counted and raised as ACCESS_FAULT. The own event word loses the bits written as one, the own command word
takes the value as a command. The pointer moves on by one, from 16383 to 0, every time (R176, R177, R181). -/
def Obligations.AccessesThroughThePointer : Prop :=
  ∀ (s : State) (p : Port) (q : PortState) (a : Nat), s.clock.power ≠ .reset → (s.ports.get p).wait = none →
    s.ports.get p = q → q.pointer.toNat = a →
    (s.aheadCurrent →
      Sys2Proof.Machine.exec (.xmDataRead p) s = .next
        { s with
          ports := s.ports.set p
            { q with
              pointer := BitVec.ofNat 14 (a + 1), readData := s.xm.read a
              readAhead := [((a + 1) % 16384, s.xm.read ((a + 1) % 16384)),
                ((a + 2) % 16384, s.xm.read ((a + 2) % 16384))] } }) ∧
    (∀ v : Word, a < base p ∨ base p + 4096 ≤ a →
      ∃ t, Sys2Proof.Machine.exec (.xmDataWrite p v) s = .next t ∧
        t.blocks = (s.count (.accessFaults p)).blocks ∧
        (∀ r, (t.ports.get r).bare =
          if r = p then { q.bare with pointer := BitVec.ofNat 14 (a + 1) } else (s.ports.get r).bare) ∧
        t.pageWord p 51 = s.pageWord p 51 ||| Event.accessFault.mask ∧ s.sameXmBut t (fun b => b = base p + 51)) ∧
    (∀ v : Word, base p < a → a < base p + 4096 →
      ∃ t, Sys2Proof.Machine.exec (.xmDataWrite p v) s = .next t ∧ t.blocks = s.blocks ∧
        (∀ r, (t.ports.get r).bare =
          if r = p then { q.bare with pointer := BitVec.ofNat 14 (a + 1) } else (s.ports.get r).bare) ∧
        t.xm.read a = (if a = base p + 51 then s.pageWord p 51 &&& ~~~v else v) ∧ s.sameXmBut t (fun b => b = a)) ∧
    ∀ (i : Instr) (c : Command) (ws : List Word), a = base p → i.issued = some (p, c, ws) → s.xm.wf = true →
      s.quiet → s.nothingOwed → s.aheadCurrent → ws.length ≤ 24 → (∀ n, n < ws.length → s.pageWord p (n + 1) = ws.getD n 0) →
      ∃ u, Sys2Proof.Machine.exec i s = .next u ∧
        Sys2Proof.Machine.exec (.xmDataWrite p c.code) s = .next
          { u with
            ports := u.ports.set p
              { u.ports.get p with
                pointer := (u.ports.get p).pointer + 1
                readAhead := aheadAt u.xm ((u.ports.get p).pointer + 1) } }

/-- EVENT_WORD_WRITE clears the bits written as one, EVENT_MASK_WRITE stores the mask, and ATN is asserted exactly while an
event is set in both (R187). Location 3 reads as mailbox busy, the pairs in the write buffer, partial pair and cursor valid
(R179). PORT_CLEAR with the clear bit empties the port's pointer, read-aheads, partial pair, cursor, event word and mask, and
leaves its write buffer and mailbox; without it nothing happens (R179, R180). Three things here are the model's: that the
event rows leave the pointer (log 15), that while WAIT holds an access the port's other access rows change nothing (R178;
log 16), and that a port clear ends the port's running read grant (R57, R180; log 22). -/
def Obligations.EventsAndPortClears : Prop :=
  (∀ (s : State) (p : Port) (v : Word), s.clock.power ≠ .reset → (s.ports.get p).wait = none →
    (∃ t, Sys2Proof.Machine.exec (.eventWordWrite p v) s = .next t ∧ t.pageWord p 51 = s.pageWord p 51 &&& ~~~v ∧
      s.changedTo t s (fun a => a = base p + 51)) ∧
    (∃ t, Sys2Proof.Machine.exec (.eventMaskWrite p v) s = .next t ∧ t.pageWord p 52 = v ∧
      s.changedTo t s (fun a => a = base p + 52)) ∧
    (v.getLsbD 15 = false → Sys2Proof.Machine.exec (.portClear p v) s = .next s) ∧
    (v.getLsbD 15 = true →
      ∃ t, Sys2Proof.Machine.exec (.portClear p v) s = .next t ∧
        t.blocks = (s.endGrantOf (.port p) false).blocks ∧
        (∀ r, t.ports.get r =
          if r = p then
            { s.ports.get p with
              pointer := 0, readAhead := [], cursor := none, partialPair := [], clipAhead := [], fetching := false
              wordsRead := 0 }
          else { s.ports.get r with readAhead := (t.ports.get r).readAhead }) ∧
        t.pageWord p 51 = 0 ∧ t.pageWord p 52 = 0 ∧ t.atn p = false ∧
        s.sameXmBut t (fun a => a = base p + 51 ∨ a = base p + 52))) ∧
  (∀ (s : State) (p : Port), (s.ports.get p).writeBuffer.length ≤ 8 →
    ((s.location3 p).getLsbD 0 = true ↔ (s.ports.get p).running.isSome = true ∨ s.clock.power = .startUp) ∧
    ((s.location3 p).extractLsb' 1 4).toNat = (s.ports.get p).writeBuffer.length ∧
    ((s.location3 p).getLsbD 5 = true ↔ (s.ports.get p).partialPair ≠ []) ∧
    ((s.location3 p).getLsbD 6 = true ↔ (s.ports.get p).cursor.isSome = true) ∧
    ∀ n, 7 ≤ n → (s.location3 p).getLsbD n = false) ∧
  (∀ (s : State) (p : Port), s.atn p = true ↔
    s.clock.power ≠ .reset ∧ ∃ e : Event, s.hasEvent p e ∧ (s.pageWord p 52).getLsbD e.bit = true) ∧
  ∀ (s : State) (p : Port) (v : Word) (i : Instr), (s.ports.get p).wait.isSome = true →
    i ∈ [Instr.xmPointerWrite p v, .xmDataRead p, .xmDataWrite p v, .eventWordWrite p v, .eventMaskWrite p v,
      .clipDataWrite p v, .clipDataRead p, .portClear p v, .mailboxOverrun p v] →
    Sys2Proof.Machine.exec i s = .next s

/-! ## Lamps and counters -/

/-- LAMP_INPUT_CHANGE sets its own lamp's display mode by the table of R193, and FLASH begins with a whole ON half; the flash
timer running out turns the half (R193, R194). COUNTER_INCREMENT adds one below 4,294,967,295 and nothing there, raising no
event; COUNTERS_CLEAR makes every counter 0, rewrites the counter record at once and answers with its update count (R197,
R198). That FLASH_TIMER_EXPIRY out of turn changes nothing is the model's choice (log 6), as is that the clear and its
rewrite are one act (log 44) and come also before the first millisecond (log 18). -/
def Obligations.LampsAndCountersFollow : Prop :=
  (∀ (s : State) (i : LampInput) (ins : LampInputs) (lamp : Lamp) (m : LampMode) (r : LampRec), s.runs →
    (match i with
      | .mic x => lamp = .onAir ∧ ins = { s.lamps.inputs with mic := x }
      | .line k x => lamp = .caller ∧ ins = { s.lamps.inputs with lines := s.lamps.inputs.lines.set k x }
      | .phase x => lamp = .alert ∧ ins = { s.lamps.inputs with phase := x }
      | .waiting x => lamp = .alert ∧ ins = { s.lamps.inputs with waiting := x }
      | .link x => lamp = .link ∧ ins = { s.lamps.inputs with link := x }
      | .pause x => lamp = .link ∧ ins = { s.lamps.inputs with paused := x }) →
    (match lamp with
      | .onAir => m = if ins.mic = .rising ∨ ins.mic = .on then LampMode.steady else .off
      | .caller => m = if ins.lines ≠ PerLine.all false then LampMode.steady else .off
      | .alert =>
        m = if ins.phase ≠ .standby then LampMode.steady else if ins.waiting = true then LampMode.flash else .off
      | .link =>
        m = if ins.link ≠ .up then LampMode.off else if ins.paused = true then LampMode.flash else .steady) →
    s.lamps.lamps.get lamp = r →
    ∃ t, Sys2Proof.Machine.exec (.lampInputChange i) s = .next t ∧
      s.changedTo t
        { s with lamps :=
          { inputs := ins
            lamps := s.lamps.lamps.set lamp
              (if m = r.mode then r
               else if m = .flash then
                { r with mode := m, half := true, timer := some ((if lamp = .alert then 250 else 500) * 48) }
               else if r.mode = .flash then { r with mode := m, half := false, timer := none }
               else { r with mode := m }) } }
        (inRecord .lamps)) ∧
  (∀ (s : State) (lamp : Lamp) (r : LampRec), s.clock.power ≠ .reset → s.lamps.lamps.get lamp = r →
    (r.mode = .flash → r.timer = some 0 →
      Sys2Proof.Machine.exec (.flashTimerExpiry lamp) s = .next
        { s with lamps := { s.lamps with
            lamps := s.lamps.lamps.set lamp
              { r with half := !r.half, timer := some ((if lamp = .alert then 250 else 500) * 48) } } }) ∧
    (r.mode ≠ .flash ∨ r.timer ≠ some 0 → Sys2Proof.Machine.exec (.flashTimerExpiry lamp) s = .next s)) ∧
  (∀ (s : State) (c : Counter), s.clock.power ≠ .reset →
    ∃ t, Sys2Proof.Machine.exec (.counterIncrement c) s = .next t ∧ t = { s with counters := t.counters } ∧
      (s.counters[c.index] < 4294967295 → t.counters[c.index] = s.counters[c.index] + 1) ∧
      (s.counters[c.index] = 4294967295 → t.counters[c.index] = 4294967295) ∧
      ∀ d : Counter, d ≠ c → t.counters[d.index] = s.counters[d.index]) ∧
  ∀ s : State, s.accepts .a →
    ∃ t, Sys2Proof.Machine.exec (.countersClear .a) s = .next t ∧ (∀ c : Counter, t.counters[c.index] = 0) ∧
      s.rewrites t .counters ∧
      s.doneOnly t .a 0x0060 [(t.xm.read (RecordId.place .counters)).toNat]
        { s with counters := Vector.replicate 29 0 } (inRecord .counters)
end

