-- ==== Sys2Proof/Laws/Memory.lean ====
section
/-!
SUPPORT. Laws/Memory.lean: what the memory operations do: reading after a write, and the canonical form they keep.
-/
namespace Sys2Proof

/-! ## Reading after a write -/

theorem Mem.read_append {w : Nat} (m n : Mem w) (a : Nat) :
    Mem.read (m ++ n) a = if m.any (fun e => e.1 == a) then Mem.read m a else Mem.read n a := by
  induction m with
  | nil => simp
  | cons e t ih =>
    obtain ⟨k, v⟩ := e
    by_cases h : k = a
    · simp [Mem.read, h]
    · simp [Mem.read, h, Ne.symm h, ih]

theorem Mem.read_of_absent {w : Nat} (m : Mem w) (a : Nat) (h : m.any (fun e => e.1 == a) = false) :
    Mem.read m a = 0 := by
  induction m with
  | nil => rfl
  | cons e t ih =>
    obtain ⟨k, v⟩ := e
    simp only [List.any_cons, Bool.or_eq_false_iff, beq_eq_false_iff_ne] at h
    simp [Mem.read, Ne.symm h.1, ih h.2]

theorem Mem.read_filter {w : Nat} (m : Mem w) (p : Nat → Bool) (a : Nat) (h : p a = true) :
    Mem.read (m.filter fun e => p e.1) a = Mem.read m a := by
  induction m with
  | nil => rfl
  | cons e t ih =>
    obtain ⟨k, v⟩ := e
    by_cases hk : a = k
    · subst hk; simp [Mem.read, h]
    · by_cases hp : p k = true <;> simp [Mem.read, hk, hp, ih]

theorem Mem.read_filter_out {w : Nat} (m : Mem w) (p : Nat → Bool) (a : Nat) (h : p a = false) :
    Mem.read (m.filter fun e => p e.1) a = 0 := by
  apply Mem.read_of_absent
  rw [List.any_eq_false]
  intro e he
  simp only [List.mem_filter] at he
  simp only [beq_iff_eq]
  rintro rfl
  simp [he.2] at h

theorem Mem.cells_absent {w : Nat} (a : Nat) (ws : List (BitVec w)) (b : Nat) (h : ¬ (a ≤ b ∧ b < a + ws.length)) :
    (Mem.cells a ws).any (fun e => e.1 == b) = false := by
  induction ws generalizing a with
  | nil => rfl
  | cons v t ih =>
    simp only [List.length_cons, not_and, not_lt] at h
    have hb : ¬ (a + 1 ≤ b ∧ b < a + 1 + t.length) := by omega
    have hab : a ≠ b := by rintro rfl; have := h (le_refl _); omega
    unfold Mem.cells
    split
    · exact ih _ hb
    · simp [hab, ih _ hb]

theorem Mem.read_cells {w : Nat} (a : Nat) (ws : List (BitVec w)) (b : Nat) (h : a ≤ b ∧ b < a + ws.length) :
    Mem.read (Mem.cells a ws) b = ws.getD (b - a) 0 := by
  induction ws generalizing a with
  | nil => simp at h; omega
  | cons v t ih =>
    simp only [List.length_cons] at h
    unfold Mem.cells
    by_cases hb : b = a
    · subst hb
      split
      · rw [Mem.read_of_absent _ _ (Mem.cells_absent _ _ _ (by omega))]; simp_all
      · simp [Mem.read]
    · have h' : a + 1 ≤ b ∧ b < a + 1 + t.length := by omega
      have e : b - a = (b - (a + 1)) + 1 := by omega
      split
      · rw [ih _ h', e]; simp
      · simp only [Mem.read, hb, if_false]; rw [ih _ h', e]; simp

/-- A read after a block write: the words of the block where they stand, everything else as before. -/
theorem Mem.read_writeBlock {w : Nat} (m : Mem w) (a : Nat) (ws : List (BitVec w)) (b : Nat) :
    (m.writeBlock a ws).read b = if a ≤ b ∧ b < a + ws.length then ws.getD (b - a) 0 else m.read b := by
  unfold Mem.writeBlock
  rw [Mem.read_append, Mem.read_append]
  by_cases h : a ≤ b ∧ b < a + ws.length
  · rw [if_pos h]
    have h1 : (m.filter fun e => e.1 < a).any (fun e => e.1 == b) = false := by
      rw [List.any_eq_false]; intro e he; simp only [List.mem_filter, decide_eq_true_eq] at he
      simp only [beq_iff_eq]; rintro rfl; omega
    simp only [List.any_append, h1, Bool.false_or]
    by_cases h2 : (Mem.cells a ws).any (fun e => e.1 == b) = true
    · simp [h2, Mem.read_cells a ws b h]
    · simp only [h2]
      rw [← Mem.read_cells a ws b h, Mem.read_of_absent _ _ (Bool.eq_false_iff.mpr h2)]
      exact Mem.read_filter_out m (fun k => a + ws.length ≤ k) b (by simp; omega)
  · rw [if_neg h]
    have h2 := Mem.cells_absent a ws b h
    simp only [List.any_append, h2, Bool.or_false]
    by_cases hb : b < a
    · have := Mem.read_filter m (fun k => decide (k < a)) b (by simpa using hb)
      split
      · simp_all
      · rename_i hn
        rw [Bool.not_eq_true] at hn
        rw [Mem.read_filter_out m (fun k => decide (a + ws.length ≤ k)) b (by simp; omega), ← this,
          Mem.read_of_absent _ _ hn]
    · have h1 : (m.filter fun e => e.1 < a).any (fun e => e.1 == b) = false := by
        rw [List.any_eq_false]; intro e he; simp only [List.mem_filter, decide_eq_true_eq] at he
        simp only [beq_iff_eq]; rintro rfl; omega
      simp only [h1]
      exact Mem.read_filter m (fun k => decide (a + ws.length ≤ k)) b (by simp; omega)

/-- A read after a write: the word at its address, everything else as before. -/
theorem Mem.read_write {w : Nat} (m : Mem w) (a : Nat) (v : BitVec w) (b : Nat) :
    (m.write a v).read b = if b = a then v else m.read b := by
  unfold Mem.write
  rw [Mem.read_writeBlock]
  by_cases h : b = a
  · subst h; simp
  · rw [if_neg (by simp; omega), if_neg h]

@[simp] theorem Mem.read_write_same {w : Nat} (m : Mem w) (a : Nat) (v : BitVec w) : (m.write a v).read a = v := by
  simp [Mem.read_write]

theorem Mem.read_write_other {w : Nat} (m : Mem w) {a b : Nat} (v : BitVec w) (h : b ≠ a) :
    (m.write a v).read b = m.read b := by simp [Mem.read_write, h]

theorem Mem.read_writeBlock_other {w : Nat} (m : Mem w) {a b : Nat} (ws : List (BitVec w))
    (h : b < a ∨ a + ws.length ≤ b) : (m.writeBlock a ws).read b = m.read b := by
  rw [Mem.read_writeBlock, if_neg (by omega)]

/-- Reading back a block of words. -/
theorem Mem.readBlock_getD {w : Nat} (m : Mem w) (a n i : Nat) (h : i < n) :
    (m.readBlock a n).getD i 0 = m.read (a + i) := by
  simp [Mem.readBlock, List.getD, h]

@[simp] theorem Mem.readBlock_length {w : Nat} (m : Mem w) (a n : Nat) : (m.readBlock a n).length = n := by
  simp [Mem.readBlock]

/-! ## The canonical form -/

/-- The canonical form as a proposition: addresses strictly rising, no entry 0. -/
theorem Mem.wf_iff {w : Nat} (m : Mem w) :
    m.wf = true ↔ m.Pairwise (fun a b => a.1 < b.1) ∧ ∀ e ∈ m, e.2 ≠ 0 := by
  induction m with
  | nil => simp [Mem.wf]
  | cons e t ih =>
    obtain ⟨k, v⟩ := e
    simp only [Mem.wf, Bool.and_eq_true, bne_iff_ne, ne_eq, List.all_eq_true, decide_eq_true_eq, ih,
      List.pairwise_cons, List.mem_cons, forall_eq_or_imp]
    tauto

theorem Mem.wf_filter {w : Nat} (m : Mem w) (p : Nat × BitVec w → Bool) (h : m.wf = true) :
    Mem.wf (m.filter p) = true := by
  rw [Mem.wf_iff] at h ⊢
  exact ⟨h.1.filter _, fun e he => h.2 e (List.mem_of_mem_filter he)⟩

theorem Mem.cells_bounds {w : Nat} (a : Nat) (ws : List (BitVec w)) :
    ∀ e ∈ Mem.cells a ws, a ≤ e.1 ∧ e.1 < a + ws.length ∧ e.2 ≠ 0 := by
  induction ws generalizing a with
  | nil => simp [Mem.cells]
  | cons v t ih =>
    intro e he
    unfold Mem.cells at he
    split at he
    · obtain ⟨h1, h2, h3⟩ := ih _ e he
      simp only [List.length_cons]
      exact ⟨by omega, by omega, h3⟩
    · rename_i hv
      rcases List.mem_cons.mp he with rfl | he
      · simpa using hv
      · have := ih _ e he
        simp only [List.length_cons]
        exact ⟨by omega, by omega, this.2.2⟩

theorem Mem.cells_pairwise {w : Nat} (a : Nat) (ws : List (BitVec w)) :
    (Mem.cells a ws).Pairwise (fun x y => x.1 < y.1) := by
  induction ws generalizing a with
  | nil => exact List.Pairwise.nil
  | cons v t ih =>
    unfold Mem.cells
    split
    · exact ih _
    · refine List.Pairwise.cons (fun e he => ?_) (ih _)
      have := Mem.cells_bounds _ _ e he
      simp only; omega

/-- A block write keeps the canonical form. -/
theorem Mem.wf_writeBlock {w : Nat} (m : Mem w) (a : Nat) (ws : List (BitVec w)) (h : m.wf = true) :
    (m.writeBlock a ws).wf = true := by
  rw [Mem.wf_iff] at h ⊢
  unfold Mem.writeBlock
  constructor
  · rw [List.pairwise_append, List.pairwise_append]
    refine ⟨⟨h.1.filter _, Mem.cells_pairwise _ _, ?_⟩, h.1.filter _, ?_⟩
    · intro x hx y hy
      have := Mem.cells_bounds _ _ y hy
      simp only [List.mem_filter, decide_eq_true_eq] at hx
      omega
    · intro x hx y hy
      simp only [List.mem_append, List.mem_filter, decide_eq_true_eq] at hx hy
      rcases hx with hx | hx
      · omega
      · have := Mem.cells_bounds _ _ x hx; omega
  · intro e he
    simp only [List.mem_append, List.mem_filter] at he
    rcases he with (he | he) | he
    · exact h.2 e he.1
    · exact (Mem.cells_bounds _ _ e he).2.2
    · exact h.2 e he.1

/-- A write keeps the canonical form. -/
theorem Mem.wf_write {w : Nat} (m : Mem w) (a : Nat) (v : BitVec w) (h : m.wf = true) : (m.write a v).wf = true :=
  Mem.wf_writeBlock m a [v] h

end Sys2Proof
end

