-- ==== Sys2Proof/Laws/State.lean ====
section
/-!
SUPPORT. Laws/State.lean: one lemma per field per update of the state, each true by rfl, and the laws of the tables.
-/
namespace Sys2Proof.Machine

/-! ## Tables -/

theorem PerPort.get_set {α : Type} (t : PerPort α) (i j : Port) (x : α) :
    (t.set i x).get j = if j = i then x else t.get j := by cases i <;> cases j <;> rfl
@[simp] theorem PerPort.get_set_same {α : Type} (t : PerPort α) (i : Port) (x : α) : (t.set i x).get i = x := by
  cases i <;> rfl
theorem PerPort.get_set_other {α : Type} (t : PerPort α) {i j : Port} (x : α) (h : j ≠ i) : (t.set i x).get j = t.get j := by
  simp [PerPort.get_set, h]
theorem PerPort.get_modify {α : Type} (t : PerPort α) (i j : Port) (f : α → α) :
    (t.modify i f).get j = if j = i then f (t.get i) else t.get j := by simp [PerPort.modify, PerPort.get_set]
@[simp] theorem PerPort.get_modify_same {α : Type} (t : PerPort α) (i : Port) (f : α → α) :
    (t.modify i f).get i = f (t.get i) := by simp [PerPort.modify]
theorem PerPort.ext_get {α : Type} {t u : PerPort α} (h : ∀ i, t.get i = u.get i) : t = u := by
  cases t; cases u
  simp only [PerPort.mk.injEq]
  exact ⟨h .a, h .b, h .c⟩
theorem PerDeck.get_set {α : Type} (t : PerDeck α) (i j : DeckId) (x : α) :
    (t.set i x).get j = if j = i then x else t.get j := by cases i <;> cases j <;> rfl
@[simp] theorem PerDeck.get_set_same {α : Type} (t : PerDeck α) (i : DeckId) (x : α) : (t.set i x).get i = x := by
  cases i <;> rfl
theorem PerDeck.get_set_other {α : Type} (t : PerDeck α) {i j : DeckId} (x : α) (h : j ≠ i) : (t.set i x).get j = t.get j := by
  simp [PerDeck.get_set, h]
theorem PerDeck.get_modify {α : Type} (t : PerDeck α) (i j : DeckId) (f : α → α) :
    (t.modify i f).get j = if j = i then f (t.get i) else t.get j := by simp [PerDeck.modify, PerDeck.get_set]
@[simp] theorem PerDeck.get_modify_same {α : Type} (t : PerDeck α) (i : DeckId) (f : α → α) :
    (t.modify i f).get i = f (t.get i) := by simp [PerDeck.modify]
theorem PerDeck.ext_get {α : Type} {t u : PerDeck α} (h : ∀ i, t.get i = u.get i) : t = u := by
  cases t; cases u
  simp only [PerDeck.mk.injEq]
  exact ⟨h .d1, h .d2⟩
theorem PerLine.get_set {α : Type} (t : PerLine α) (i j : Line) (x : α) :
    (t.set i x).get j = if j = i then x else t.get j := by cases i <;> cases j <;> rfl
@[simp] theorem PerLine.get_set_same {α : Type} (t : PerLine α) (i : Line) (x : α) : (t.set i x).get i = x := by
  cases i <;> rfl
theorem PerLine.get_set_other {α : Type} (t : PerLine α) {i j : Line} (x : α) (h : j ≠ i) : (t.set i x).get j = t.get j := by
  simp [PerLine.get_set, h]
theorem PerLine.get_modify {α : Type} (t : PerLine α) (i j : Line) (f : α → α) :
    (t.modify i f).get j = if j = i then f (t.get i) else t.get j := by simp [PerLine.modify, PerLine.get_set]
@[simp] theorem PerLine.get_modify_same {α : Type} (t : PerLine α) (i : Line) (f : α → α) :
    (t.modify i f).get i = f (t.get i) := by simp [PerLine.modify]
theorem PerLine.ext_get {α : Type} {t u : PerLine α} (h : ∀ i, t.get i = u.get i) : t = u := by
  cases t; cases u
  simp only [PerLine.mk.injEq]
  exact ⟨h .l1, h .l2, h .l3, h .l4, h .l5, h .l6, h .l7, h .l8⟩
theorem PerLamp.get_set {α : Type} (t : PerLamp α) (i j : Lamp) (x : α) :
    (t.set i x).get j = if j = i then x else t.get j := by cases i <;> cases j <;> rfl
@[simp] theorem PerLamp.get_set_same {α : Type} (t : PerLamp α) (i : Lamp) (x : α) : (t.set i x).get i = x := by
  cases i <;> rfl
theorem PerLamp.get_set_other {α : Type} (t : PerLamp α) {i j : Lamp} (x : α) (h : j ≠ i) : (t.set i x).get j = t.get j := by
  simp [PerLamp.get_set, h]
theorem PerLamp.get_modify {α : Type} (t : PerLamp α) (i j : Lamp) (f : α → α) :
    (t.modify i f).get j = if j = i then f (t.get i) else t.get j := by simp [PerLamp.modify, PerLamp.get_set]
@[simp] theorem PerLamp.get_modify_same {α : Type} (t : PerLamp α) (i : Lamp) (f : α → α) :
    (t.modify i f).get i = f (t.get i) := by simp [PerLamp.modify]
theorem PerLamp.ext_get {α : Type} {t u : PerLamp α} (h : ∀ i, t.get i = u.get i) : t = u := by
  cases t; cases u
  simp only [PerLamp.mk.injEq]
  exact ⟨h .onAir, h .caller, h .alert, h .link⟩
theorem PerClass.get_set {α : Type} (t : PerClass α) (i j : AlertClass) (x : α) :
    (t.set i x).get j = if j = i then x else t.get j := by cases i <;> cases j <;> rfl
@[simp] theorem PerClass.get_set_same {α : Type} (t : PerClass α) (i : AlertClass) (x : α) : (t.set i x).get i = x := by
  cases i <;> rfl
theorem PerClass.get_set_other {α : Type} (t : PerClass α) {i j : AlertClass} (x : α) (h : j ≠ i) : (t.set i x).get j = t.get j := by
  simp [PerClass.get_set, h]
theorem PerClass.get_modify {α : Type} (t : PerClass α) (i j : AlertClass) (f : α → α) :
    (t.modify i f).get j = if j = i then f (t.get i) else t.get j := by simp [PerClass.modify, PerClass.get_set]
@[simp] theorem PerClass.get_modify_same {α : Type} (t : PerClass α) (i : AlertClass) (f : α → α) :
    (t.modify i f).get i = f (t.get i) := by simp [PerClass.modify]
theorem PerClass.ext_get {α : Type} {t u : PerClass α} (h : ∀ i, t.get i = u.get i) : t = u := by
  cases t; cases u
  simp only [PerClass.mk.injEq]
  exact ⟨h .test, h .statement, h .watch, h .immediate⟩
@[simp] theorem PerPort.get_all {α : Type} (x : α) (i : Port) : (PerPort.all x).get i = x := by cases i <;> rfl
@[simp] theorem PerDeck.get_all {α : Type} (x : α) (i : DeckId) : (PerDeck.all x).get i = x := by cases i <;> rfl
@[simp] theorem PerLine.get_all {α : Type} (x : α) (i : Line) : (PerLine.all x).get i = x := by cases i <;> rfl
@[simp] theorem PerPort.get_mapWith {α β : Type} (f : Port → α → β) (t : PerPort α) (i : Port) :
    (t.mapWith f).get i = f i (t.get i) := by cases i <;> rfl
@[simp] theorem PerDeck.get_mapWith {α β : Type} (f : DeckId → α → β) (t : PerDeck α) (i : DeckId) :
    (t.mapWith f).get i = f i (t.get i) := by cases i <;> rfl
@[simp] theorem PerLine.get_mapWith {α β : Type} (f : Line → α → β) (t : PerLine α) (i : Line) :
    (t.mapWith f).get i = f i (t.get i) := by cases i <;> rfl
@[simp] theorem PerLamp.get_mapWith {α β : Type} (f : Lamp → α → β) (t : PerLamp α) (i : Lamp) :
    (t.mapWith f).get i = f i (t.get i) := by cases i <;> rfl
@[simp] theorem PerSource.get_mapWith {α β : Type} (f : Source → α → β) (t : PerSource α) (i : Source) :
    (t.mapWith f).get i = f i (t.get i) := by
  cases i with
  | deck d => cases d <;> rfl
  | line k => cases k <;> rfl
  | mic | alert | fallback => rfl
theorem PerSource.get_set {α : Type} (t : PerSource α) (i j : Source) (x : α) :
    (t.set i x).get j = if j = i then x else t.get j := by
  cases i <;> cases j <;> simp [PerSource.set, PerSource.get, PerDeck.get_set, PerLine.get_set]
@[simp] theorem PerSource.get_set_same {α : Type} (t : PerSource α) (i : Source) (x : α) : (t.set i x).get i = x := by
  simp [PerSource.get_set]
theorem PerSource.get_set_other {α : Type} (t : PerSource α) {i j : Source} (x : α) (h : j ≠ i) :
    (t.set i x).get j = t.get j := by simp [PerSource.get_set, h]
@[simp] theorem PerSource.get_all {α : Type} (x : α) (i : Source) : (PerSource.all x).get i = x := by
  cases i <;> simp [PerSource.all, PerSource.get]

/-! ## Updates -/

@[simp] theorem State.onXm_pending (s : State) (f : Mem 16 → Mem 16) : (s.onXm f).pending = s.pending := rfl
@[simp] theorem State.onXm_clock (s : State) (f : Mem 16 → Mem 16) : (s.onXm f).clock = s.clock := rfl
@[simp] theorem State.onXm_xm (s : State) (f : Mem 16 → Mem 16) :
    (s.onXm f).xm = f s.xm := rfl
@[simp] theorem State.onXm_sdram (s : State) (f : Mem 16 → Mem 16) : (s.onXm f).sdram = s.sdram := rfl
@[simp] theorem State.onXm_air (s : State) (f : Mem 16 → Mem 16) : (s.onXm f).air = s.air := rfl
@[simp] theorem State.onXm_mixer (s : State) (f : Mem 16 → Mem 16) : (s.onXm f).mixer = s.mixer := rfl
@[simp] theorem State.onXm_clips (s : State) (f : Mem 16 → Mem 16) : (s.onXm f).clips = s.clips := rfl
@[simp] theorem State.onXm_arbiter (s : State) (f : Mem 16 → Mem 16) : (s.onXm f).arbiter = s.arbiter := rfl
@[simp] theorem State.onXm_decks (s : State) (f : Mem 16 → Mem 16) : (s.onXm f).decks = s.decks := rfl
@[simp] theorem State.onXm_highway (s : State) (f : Mem 16 → Mem 16) : (s.onXm f).highway = s.highway := rfl
@[simp] theorem State.onXm_lines (s : State) (f : Mem 16 → Mem 16) : (s.onXm f).lines = s.lines := rfl
@[simp] theorem State.onXm_alert (s : State) (f : Mem 16 → Mem 16) : (s.onXm f).alert = s.alert := rfl
@[simp] theorem State.onXm_deadAir (s : State) (f : Mem 16 → Mem 16) : (s.onXm f).deadAir = s.deadAir := rfl
@[simp] theorem State.onXm_link (s : State) (f : Mem 16 → Mem 16) : (s.onXm f).link = s.link := rfl
@[simp] theorem State.onXm_lamps (s : State) (f : Mem 16 → Mem 16) : (s.onXm f).lamps = s.lamps := rfl
@[simp] theorem State.onXm_counters (s : State) (f : Mem 16 → Mem 16) : (s.onXm f).counters = s.counters := rfl
@[simp] theorem State.onXm_messages (s : State) (f : Mem 16 → Mem 16) : (s.onXm f).messages = s.messages := rfl
@[simp] theorem State.onXm_forced (s : State) (f : Mem 16 → Mem 16) : (s.onXm f).forced = s.forced := rfl
@[simp] theorem State.onXm_airAnswer (s : State) (f : Mem 16 → Mem 16) : (s.onXm f).airAnswer = s.airAnswer := rfl
@[simp] theorem State.onXm_unstated (s : State) (f : Mem 16 → Mem 16) : (s.onXm f).unstated = s.unstated := rfl
@[simp] theorem State.xmWrite_pending (s : State) (a : Nat) (v : Word) : (s.xmWrite a v).pending = s.pending := rfl
@[simp] theorem State.xmWrite_clock (s : State) (a : Nat) (v : Word) : (s.xmWrite a v).clock = s.clock := rfl
@[simp] theorem State.xmWrite_xm (s : State) (a : Nat) (v : Word) :
    (s.xmWrite a v).xm = s.xm.write a v := rfl
@[simp] theorem State.xmWrite_sdram (s : State) (a : Nat) (v : Word) : (s.xmWrite a v).sdram = s.sdram := rfl
@[simp] theorem State.xmWrite_air (s : State) (a : Nat) (v : Word) : (s.xmWrite a v).air = s.air := rfl
@[simp] theorem State.xmWrite_mixer (s : State) (a : Nat) (v : Word) : (s.xmWrite a v).mixer = s.mixer := rfl
@[simp] theorem State.xmWrite_clips (s : State) (a : Nat) (v : Word) : (s.xmWrite a v).clips = s.clips := rfl
@[simp] theorem State.xmWrite_arbiter (s : State) (a : Nat) (v : Word) : (s.xmWrite a v).arbiter = s.arbiter := rfl
@[simp] theorem State.xmWrite_decks (s : State) (a : Nat) (v : Word) : (s.xmWrite a v).decks = s.decks := rfl
@[simp] theorem State.xmWrite_highway (s : State) (a : Nat) (v : Word) : (s.xmWrite a v).highway = s.highway := rfl
@[simp] theorem State.xmWrite_lines (s : State) (a : Nat) (v : Word) : (s.xmWrite a v).lines = s.lines := rfl
@[simp] theorem State.xmWrite_alert (s : State) (a : Nat) (v : Word) : (s.xmWrite a v).alert = s.alert := rfl
@[simp] theorem State.xmWrite_deadAir (s : State) (a : Nat) (v : Word) : (s.xmWrite a v).deadAir = s.deadAir := rfl
@[simp] theorem State.xmWrite_link (s : State) (a : Nat) (v : Word) : (s.xmWrite a v).link = s.link := rfl
@[simp] theorem State.xmWrite_lamps (s : State) (a : Nat) (v : Word) : (s.xmWrite a v).lamps = s.lamps := rfl
@[simp] theorem State.xmWrite_counters (s : State) (a : Nat) (v : Word) : (s.xmWrite a v).counters = s.counters := rfl
@[simp] theorem State.xmWrite_messages (s : State) (a : Nat) (v : Word) : (s.xmWrite a v).messages = s.messages := rfl
@[simp] theorem State.xmWrite_forced (s : State) (a : Nat) (v : Word) : (s.xmWrite a v).forced = s.forced := rfl
@[simp] theorem State.xmWrite_airAnswer (s : State) (a : Nat) (v : Word) : (s.xmWrite a v).airAnswer = s.airAnswer := rfl
@[simp] theorem State.xmWrite_unstated (s : State) (a : Nat) (v : Word) : (s.xmWrite a v).unstated = s.unstated := rfl
@[simp] theorem State.xmWriteBlock_pending (s : State) (a : Nat) (ws : List Word) : (s.xmWriteBlock a ws).pending = s.pending := rfl
@[simp] theorem State.xmWriteBlock_clock (s : State) (a : Nat) (ws : List Word) : (s.xmWriteBlock a ws).clock = s.clock := rfl
@[simp] theorem State.xmWriteBlock_xm (s : State) (a : Nat) (ws : List Word) :
    (s.xmWriteBlock a ws).xm = s.xm.writeBlock a ws := rfl
@[simp] theorem State.xmWriteBlock_sdram (s : State) (a : Nat) (ws : List Word) : (s.xmWriteBlock a ws).sdram = s.sdram := rfl
@[simp] theorem State.xmWriteBlock_air (s : State) (a : Nat) (ws : List Word) : (s.xmWriteBlock a ws).air = s.air := rfl
@[simp] theorem State.xmWriteBlock_mixer (s : State) (a : Nat) (ws : List Word) : (s.xmWriteBlock a ws).mixer = s.mixer := rfl
@[simp] theorem State.xmWriteBlock_clips (s : State) (a : Nat) (ws : List Word) : (s.xmWriteBlock a ws).clips = s.clips := rfl
@[simp] theorem State.xmWriteBlock_arbiter (s : State) (a : Nat) (ws : List Word) : (s.xmWriteBlock a ws).arbiter = s.arbiter := rfl
@[simp] theorem State.xmWriteBlock_decks (s : State) (a : Nat) (ws : List Word) : (s.xmWriteBlock a ws).decks = s.decks := rfl
@[simp] theorem State.xmWriteBlock_highway (s : State) (a : Nat) (ws : List Word) : (s.xmWriteBlock a ws).highway = s.highway := rfl
@[simp] theorem State.xmWriteBlock_lines (s : State) (a : Nat) (ws : List Word) : (s.xmWriteBlock a ws).lines = s.lines := rfl
@[simp] theorem State.xmWriteBlock_alert (s : State) (a : Nat) (ws : List Word) : (s.xmWriteBlock a ws).alert = s.alert := rfl
@[simp] theorem State.xmWriteBlock_deadAir (s : State) (a : Nat) (ws : List Word) : (s.xmWriteBlock a ws).deadAir = s.deadAir := rfl
@[simp] theorem State.xmWriteBlock_link (s : State) (a : Nat) (ws : List Word) : (s.xmWriteBlock a ws).link = s.link := rfl
@[simp] theorem State.xmWriteBlock_lamps (s : State) (a : Nat) (ws : List Word) : (s.xmWriteBlock a ws).lamps = s.lamps := rfl
@[simp] theorem State.xmWriteBlock_counters (s : State) (a : Nat) (ws : List Word) : (s.xmWriteBlock a ws).counters = s.counters := rfl
@[simp] theorem State.xmWriteBlock_messages (s : State) (a : Nat) (ws : List Word) : (s.xmWriteBlock a ws).messages = s.messages := rfl
@[simp] theorem State.xmWriteBlock_forced (s : State) (a : Nat) (ws : List Word) : (s.xmWriteBlock a ws).forced = s.forced := rfl
@[simp] theorem State.xmWriteBlock_airAnswer (s : State) (a : Nat) (ws : List Word) : (s.xmWriteBlock a ws).airAnswer = s.airAnswer := rfl
@[simp] theorem State.xmWriteBlock_unstated (s : State) (a : Nat) (ws : List Word) : (s.xmWriteBlock a ws).unstated = s.unstated := rfl
@[simp] theorem State.onPort_pending (s : State) (p : Port) (f : PortState → PortState) : (s.onPort p f).pending = s.pending := rfl
@[simp] theorem State.onPort_clock (s : State) (p : Port) (f : PortState → PortState) : (s.onPort p f).clock = s.clock := rfl
@[simp] theorem State.onPort_xm (s : State) (p : Port) (f : PortState → PortState) : (s.onPort p f).xm = s.xm := rfl
@[simp] theorem State.onPort_sdram (s : State) (p : Port) (f : PortState → PortState) : (s.onPort p f).sdram = s.sdram := rfl
@[simp] theorem State.onPort_ports (s : State) (p : Port) (f : PortState → PortState) :
    (s.onPort p f).ports = s.ports.modify p f := rfl
@[simp] theorem State.onPort_air (s : State) (p : Port) (f : PortState → PortState) : (s.onPort p f).air = s.air := rfl
@[simp] theorem State.onPort_mixer (s : State) (p : Port) (f : PortState → PortState) : (s.onPort p f).mixer = s.mixer := rfl
@[simp] theorem State.onPort_clips (s : State) (p : Port) (f : PortState → PortState) : (s.onPort p f).clips = s.clips := rfl
@[simp] theorem State.onPort_arbiter (s : State) (p : Port) (f : PortState → PortState) : (s.onPort p f).arbiter = s.arbiter := rfl
@[simp] theorem State.onPort_decks (s : State) (p : Port) (f : PortState → PortState) : (s.onPort p f).decks = s.decks := rfl
@[simp] theorem State.onPort_highway (s : State) (p : Port) (f : PortState → PortState) : (s.onPort p f).highway = s.highway := rfl
@[simp] theorem State.onPort_lines (s : State) (p : Port) (f : PortState → PortState) : (s.onPort p f).lines = s.lines := rfl
@[simp] theorem State.onPort_alert (s : State) (p : Port) (f : PortState → PortState) : (s.onPort p f).alert = s.alert := rfl
@[simp] theorem State.onPort_deadAir (s : State) (p : Port) (f : PortState → PortState) : (s.onPort p f).deadAir = s.deadAir := rfl
@[simp] theorem State.onPort_link (s : State) (p : Port) (f : PortState → PortState) : (s.onPort p f).link = s.link := rfl
@[simp] theorem State.onPort_lamps (s : State) (p : Port) (f : PortState → PortState) : (s.onPort p f).lamps = s.lamps := rfl
@[simp] theorem State.onPort_counters (s : State) (p : Port) (f : PortState → PortState) : (s.onPort p f).counters = s.counters := rfl
@[simp] theorem State.onPort_messages (s : State) (p : Port) (f : PortState → PortState) : (s.onPort p f).messages = s.messages := rfl
@[simp] theorem State.onPort_forced (s : State) (p : Port) (f : PortState → PortState) : (s.onPort p f).forced = s.forced := rfl
@[simp] theorem State.onPort_airAnswer (s : State) (p : Port) (f : PortState → PortState) : (s.onPort p f).airAnswer = s.airAnswer := rfl
@[simp] theorem State.onPort_unstated (s : State) (p : Port) (f : PortState → PortState) : (s.onPort p f).unstated = s.unstated := rfl
@[simp] theorem State.onDeck_pending (s : State) (d : DeckId) (f : DeckRec → DeckRec) : (s.onDeck d f).pending = s.pending := rfl
@[simp] theorem State.onDeck_clock (s : State) (d : DeckId) (f : DeckRec → DeckRec) : (s.onDeck d f).clock = s.clock := rfl
@[simp] theorem State.onDeck_xm (s : State) (d : DeckId) (f : DeckRec → DeckRec) : (s.onDeck d f).xm = s.xm := rfl
@[simp] theorem State.onDeck_sdram (s : State) (d : DeckId) (f : DeckRec → DeckRec) : (s.onDeck d f).sdram = s.sdram := rfl
@[simp] theorem State.onDeck_ports (s : State) (d : DeckId) (f : DeckRec → DeckRec) : (s.onDeck d f).ports = s.ports := rfl
@[simp] theorem State.onDeck_air (s : State) (d : DeckId) (f : DeckRec → DeckRec) : (s.onDeck d f).air = s.air := rfl
@[simp] theorem State.onDeck_mixer (s : State) (d : DeckId) (f : DeckRec → DeckRec) : (s.onDeck d f).mixer = s.mixer := rfl
@[simp] theorem State.onDeck_clips (s : State) (d : DeckId) (f : DeckRec → DeckRec) : (s.onDeck d f).clips = s.clips := rfl
@[simp] theorem State.onDeck_arbiter (s : State) (d : DeckId) (f : DeckRec → DeckRec) : (s.onDeck d f).arbiter = s.arbiter := rfl
@[simp] theorem State.onDeck_decks (s : State) (d : DeckId) (f : DeckRec → DeckRec) :
    (s.onDeck d f).decks = s.decks.modify d f := rfl
@[simp] theorem State.onDeck_highway (s : State) (d : DeckId) (f : DeckRec → DeckRec) : (s.onDeck d f).highway = s.highway := rfl
@[simp] theorem State.onDeck_lines (s : State) (d : DeckId) (f : DeckRec → DeckRec) : (s.onDeck d f).lines = s.lines := rfl
@[simp] theorem State.onDeck_alert (s : State) (d : DeckId) (f : DeckRec → DeckRec) : (s.onDeck d f).alert = s.alert := rfl
@[simp] theorem State.onDeck_deadAir (s : State) (d : DeckId) (f : DeckRec → DeckRec) : (s.onDeck d f).deadAir = s.deadAir := rfl
@[simp] theorem State.onDeck_link (s : State) (d : DeckId) (f : DeckRec → DeckRec) : (s.onDeck d f).link = s.link := rfl
@[simp] theorem State.onDeck_lamps (s : State) (d : DeckId) (f : DeckRec → DeckRec) : (s.onDeck d f).lamps = s.lamps := rfl
@[simp] theorem State.onDeck_counters (s : State) (d : DeckId) (f : DeckRec → DeckRec) : (s.onDeck d f).counters = s.counters := rfl
@[simp] theorem State.onDeck_messages (s : State) (d : DeckId) (f : DeckRec → DeckRec) : (s.onDeck d f).messages = s.messages := rfl
@[simp] theorem State.onDeck_forced (s : State) (d : DeckId) (f : DeckRec → DeckRec) :
    (s.onDeck d f).forced = (s.rewriteIf (.deck d) (deckKey (s.decks.get d)) (deckKey (f (s.decks.get d)))).forced := rfl
@[simp] theorem State.onDeck_airAnswer (s : State) (d : DeckId) (f : DeckRec → DeckRec) : (s.onDeck d f).airAnswer = s.airAnswer := rfl
@[simp] theorem State.onDeck_unstated (s : State) (d : DeckId) (f : DeckRec → DeckRec) : (s.onDeck d f).unstated = s.unstated := rfl
@[simp] theorem State.onLine_pending (s : State) (k : Line) (f : LineRec → LineRec) : (s.onLine k f).pending = s.pending := rfl
@[simp] theorem State.onLine_clock (s : State) (k : Line) (f : LineRec → LineRec) : (s.onLine k f).clock = s.clock := rfl
@[simp] theorem State.onLine_xm (s : State) (k : Line) (f : LineRec → LineRec) : (s.onLine k f).xm = s.xm := rfl
@[simp] theorem State.onLine_sdram (s : State) (k : Line) (f : LineRec → LineRec) : (s.onLine k f).sdram = s.sdram := rfl
@[simp] theorem State.onLine_ports (s : State) (k : Line) (f : LineRec → LineRec) : (s.onLine k f).ports = s.ports := rfl
@[simp] theorem State.onLine_air (s : State) (k : Line) (f : LineRec → LineRec) : (s.onLine k f).air = s.air := rfl
@[simp] theorem State.onLine_mixer (s : State) (k : Line) (f : LineRec → LineRec) : (s.onLine k f).mixer = s.mixer := rfl
@[simp] theorem State.onLine_clips (s : State) (k : Line) (f : LineRec → LineRec) : (s.onLine k f).clips = s.clips := rfl
@[simp] theorem State.onLine_arbiter (s : State) (k : Line) (f : LineRec → LineRec) : (s.onLine k f).arbiter = s.arbiter := rfl
@[simp] theorem State.onLine_decks (s : State) (k : Line) (f : LineRec → LineRec) : (s.onLine k f).decks = s.decks := rfl
@[simp] theorem State.onLine_highway (s : State) (k : Line) (f : LineRec → LineRec) : (s.onLine k f).highway = s.highway := rfl
@[simp] theorem State.onLine_lines (s : State) (k : Line) (f : LineRec → LineRec) :
    (s.onLine k f).lines = { s.lines with recs := s.lines.recs.modify k f } := rfl
@[simp] theorem State.onLine_alert (s : State) (k : Line) (f : LineRec → LineRec) : (s.onLine k f).alert = s.alert := rfl
@[simp] theorem State.onLine_deadAir (s : State) (k : Line) (f : LineRec → LineRec) : (s.onLine k f).deadAir = s.deadAir := rfl
@[simp] theorem State.onLine_link (s : State) (k : Line) (f : LineRec → LineRec) : (s.onLine k f).link = s.link := rfl
@[simp] theorem State.onLine_lamps (s : State) (k : Line) (f : LineRec → LineRec) : (s.onLine k f).lamps = s.lamps := rfl
@[simp] theorem State.onLine_counters (s : State) (k : Line) (f : LineRec → LineRec) : (s.onLine k f).counters = s.counters := rfl
@[simp] theorem State.onLine_messages (s : State) (k : Line) (f : LineRec → LineRec) : (s.onLine k f).messages = s.messages := rfl
@[simp] theorem State.onLine_forced (s : State) (k : Line) (f : LineRec → LineRec) :
    (s.onLine k f).forced =
      (s.rewriteIf (.line k) (lineKey (s.lines.recs.get k)) (lineKey (f (s.lines.recs.get k)))).forced := rfl
@[simp] theorem State.onLine_airAnswer (s : State) (k : Line) (f : LineRec → LineRec) : (s.onLine k f).airAnswer = s.airAnswer := rfl
@[simp] theorem State.onLine_unstated (s : State) (k : Line) (f : LineRec → LineRec) : (s.onLine k f).unstated = s.unstated := rfl
@[simp] theorem State.onLink_pending (s : State) (f : Link → Link) : (s.onLink f).pending = s.pending := rfl
@[simp] theorem State.onLink_clock (s : State) (f : Link → Link) : (s.onLink f).clock = s.clock := rfl
@[simp] theorem State.onLink_xm (s : State) (f : Link → Link) : (s.onLink f).xm = s.xm := rfl
@[simp] theorem State.onLink_sdram (s : State) (f : Link → Link) : (s.onLink f).sdram = s.sdram := rfl
@[simp] theorem State.onLink_ports (s : State) (f : Link → Link) : (s.onLink f).ports = s.ports := rfl
@[simp] theorem State.onLink_air (s : State) (f : Link → Link) : (s.onLink f).air = s.air := rfl
@[simp] theorem State.onLink_mixer (s : State) (f : Link → Link) : (s.onLink f).mixer = s.mixer := rfl
@[simp] theorem State.onLink_clips (s : State) (f : Link → Link) : (s.onLink f).clips = s.clips := rfl
@[simp] theorem State.onLink_arbiter (s : State) (f : Link → Link) : (s.onLink f).arbiter = s.arbiter := rfl
@[simp] theorem State.onLink_decks (s : State) (f : Link → Link) : (s.onLink f).decks = s.decks := rfl
@[simp] theorem State.onLink_highway (s : State) (f : Link → Link) : (s.onLink f).highway = s.highway := rfl
@[simp] theorem State.onLink_lines (s : State) (f : Link → Link) : (s.onLink f).lines = s.lines := rfl
@[simp] theorem State.onLink_alert (s : State) (f : Link → Link) : (s.onLink f).alert = s.alert := rfl
@[simp] theorem State.onLink_deadAir (s : State) (f : Link → Link) : (s.onLink f).deadAir = s.deadAir := rfl
@[simp] theorem State.onLink_link (s : State) (f : Link → Link) :
    (s.onLink f).link = f s.link := rfl
@[simp] theorem State.onLink_lamps (s : State) (f : Link → Link) : (s.onLink f).lamps = s.lamps := rfl
@[simp] theorem State.onLink_counters (s : State) (f : Link → Link) : (s.onLink f).counters = s.counters := rfl
@[simp] theorem State.onLink_messages (s : State) (f : Link → Link) : (s.onLink f).messages = s.messages := rfl
@[simp] theorem State.onLink_forced (s : State) (f : Link → Link) :
    (s.onLink f).forced = (s.rewriteIf .link (linkKey s.link) (linkKey (f s.link))).forced := rfl
@[simp] theorem State.onLink_airAnswer (s : State) (f : Link → Link) : (s.onLink f).airAnswer = s.airAnswer := rfl
@[simp] theorem State.onLink_unstated (s : State) (f : Link → Link) : (s.onLink f).unstated = s.unstated := rfl
@[simp] theorem State.onAlert_pending (s : State) (f : AlertEngine → AlertEngine) : (s.onAlert f).pending = s.pending := rfl
@[simp] theorem State.onAlert_clock (s : State) (f : AlertEngine → AlertEngine) : (s.onAlert f).clock = s.clock := rfl
@[simp] theorem State.onAlert_xm (s : State) (f : AlertEngine → AlertEngine) : (s.onAlert f).xm = s.xm := rfl
@[simp] theorem State.onAlert_sdram (s : State) (f : AlertEngine → AlertEngine) : (s.onAlert f).sdram = s.sdram := rfl
@[simp] theorem State.onAlert_ports (s : State) (f : AlertEngine → AlertEngine) : (s.onAlert f).ports = s.ports := rfl
@[simp] theorem State.onAlert_air (s : State) (f : AlertEngine → AlertEngine) : (s.onAlert f).air = s.air := rfl
@[simp] theorem State.onAlert_mixer (s : State) (f : AlertEngine → AlertEngine) : (s.onAlert f).mixer = s.mixer := rfl
@[simp] theorem State.onAlert_clips (s : State) (f : AlertEngine → AlertEngine) : (s.onAlert f).clips = s.clips := rfl
@[simp] theorem State.onAlert_arbiter (s : State) (f : AlertEngine → AlertEngine) : (s.onAlert f).arbiter = s.arbiter := rfl
@[simp] theorem State.onAlert_decks (s : State) (f : AlertEngine → AlertEngine) : (s.onAlert f).decks = s.decks := rfl
@[simp] theorem State.onAlert_highway (s : State) (f : AlertEngine → AlertEngine) : (s.onAlert f).highway = s.highway := rfl
@[simp] theorem State.onAlert_lines (s : State) (f : AlertEngine → AlertEngine) : (s.onAlert f).lines = s.lines := rfl
@[simp] theorem State.onAlert_alert (s : State) (f : AlertEngine → AlertEngine) :
    (s.onAlert f).alert = f s.alert := rfl
@[simp] theorem State.onAlert_deadAir (s : State) (f : AlertEngine → AlertEngine) : (s.onAlert f).deadAir = s.deadAir := rfl
@[simp] theorem State.onAlert_link (s : State) (f : AlertEngine → AlertEngine) : (s.onAlert f).link = s.link := rfl
@[simp] theorem State.onAlert_lamps (s : State) (f : AlertEngine → AlertEngine) : (s.onAlert f).lamps = s.lamps := rfl
@[simp] theorem State.onAlert_counters (s : State) (f : AlertEngine → AlertEngine) : (s.onAlert f).counters = s.counters := rfl
@[simp] theorem State.onAlert_messages (s : State) (f : AlertEngine → AlertEngine) : (s.onAlert f).messages = s.messages := rfl
@[simp] theorem State.onAlert_forced (s : State) (f : AlertEngine → AlertEngine) :
    (s.onAlert f).forced =
      ((s.rewriteIf .alertEngine (engineKey s.alert) (engineKey (f s.alert))).rewriteIf .alertQueue
        (alertQueueKey s.alert) (alertQueueKey (f s.alert))).forced := rfl
@[simp] theorem State.onAlert_airAnswer (s : State) (f : AlertEngine → AlertEngine) : (s.onAlert f).airAnswer = s.airAnswer := rfl
@[simp] theorem State.onAlert_unstated (s : State) (f : AlertEngine → AlertEngine) : (s.onAlert f).unstated = s.unstated := rfl
@[simp] theorem State.onDeadAir_pending (s : State) (f : DeadAir → DeadAir) : (s.onDeadAir f).pending = s.pending := rfl
@[simp] theorem State.onDeadAir_clock (s : State) (f : DeadAir → DeadAir) : (s.onDeadAir f).clock = s.clock := rfl
@[simp] theorem State.onDeadAir_xm (s : State) (f : DeadAir → DeadAir) : (s.onDeadAir f).xm = s.xm := rfl
@[simp] theorem State.onDeadAir_sdram (s : State) (f : DeadAir → DeadAir) : (s.onDeadAir f).sdram = s.sdram := rfl
@[simp] theorem State.onDeadAir_ports (s : State) (f : DeadAir → DeadAir) : (s.onDeadAir f).ports = s.ports := rfl
@[simp] theorem State.onDeadAir_air (s : State) (f : DeadAir → DeadAir) : (s.onDeadAir f).air = s.air := rfl
@[simp] theorem State.onDeadAir_mixer (s : State) (f : DeadAir → DeadAir) : (s.onDeadAir f).mixer = s.mixer := rfl
@[simp] theorem State.onDeadAir_clips (s : State) (f : DeadAir → DeadAir) : (s.onDeadAir f).clips = s.clips := rfl
@[simp] theorem State.onDeadAir_arbiter (s : State) (f : DeadAir → DeadAir) : (s.onDeadAir f).arbiter = s.arbiter := rfl
@[simp] theorem State.onDeadAir_decks (s : State) (f : DeadAir → DeadAir) : (s.onDeadAir f).decks = s.decks := rfl
@[simp] theorem State.onDeadAir_highway (s : State) (f : DeadAir → DeadAir) : (s.onDeadAir f).highway = s.highway := rfl
@[simp] theorem State.onDeadAir_lines (s : State) (f : DeadAir → DeadAir) : (s.onDeadAir f).lines = s.lines := rfl
@[simp] theorem State.onDeadAir_alert (s : State) (f : DeadAir → DeadAir) : (s.onDeadAir f).alert = s.alert := rfl
@[simp] theorem State.onDeadAir_deadAir (s : State) (f : DeadAir → DeadAir) :
    (s.onDeadAir f).deadAir = f s.deadAir := rfl
@[simp] theorem State.onDeadAir_link (s : State) (f : DeadAir → DeadAir) : (s.onDeadAir f).link = s.link := rfl
@[simp] theorem State.onDeadAir_lamps (s : State) (f : DeadAir → DeadAir) : (s.onDeadAir f).lamps = s.lamps := rfl
@[simp] theorem State.onDeadAir_counters (s : State) (f : DeadAir → DeadAir) : (s.onDeadAir f).counters = s.counters := rfl
@[simp] theorem State.onDeadAir_messages (s : State) (f : DeadAir → DeadAir) : (s.onDeadAir f).messages = s.messages := rfl
@[simp] theorem State.onDeadAir_forced (s : State) (f : DeadAir → DeadAir) :
    (s.onDeadAir f).forced = (s.rewriteIf .deadAir (deadAirKey s.deadAir) (deadAirKey (f s.deadAir))).forced := rfl
@[simp] theorem State.onDeadAir_airAnswer (s : State) (f : DeadAir → DeadAir) : (s.onDeadAir f).airAnswer = s.airAnswer := rfl
@[simp] theorem State.onDeadAir_unstated (s : State) (f : DeadAir → DeadAir) : (s.onDeadAir f).unstated = s.unstated := rfl
@[simp] theorem State.onClips_pending (s : State) (f : ClipStore → ClipStore) : (s.onClips f).pending = s.pending := rfl
@[simp] theorem State.onClips_clock (s : State) (f : ClipStore → ClipStore) : (s.onClips f).clock = s.clock := rfl
@[simp] theorem State.onClips_xm (s : State) (f : ClipStore → ClipStore) : (s.onClips f).xm = s.xm := rfl
@[simp] theorem State.onClips_sdram (s : State) (f : ClipStore → ClipStore) : (s.onClips f).sdram = s.sdram := rfl
@[simp] theorem State.onClips_ports (s : State) (f : ClipStore → ClipStore) : (s.onClips f).ports = s.ports := rfl
@[simp] theorem State.onClips_air (s : State) (f : ClipStore → ClipStore) : (s.onClips f).air = s.air := rfl
@[simp] theorem State.onClips_mixer (s : State) (f : ClipStore → ClipStore) : (s.onClips f).mixer = s.mixer := rfl
@[simp] theorem State.onClips_clips (s : State) (f : ClipStore → ClipStore) :
    (s.onClips f).clips = f s.clips := rfl
@[simp] theorem State.onClips_arbiter (s : State) (f : ClipStore → ClipStore) : (s.onClips f).arbiter = s.arbiter := rfl
@[simp] theorem State.onClips_decks (s : State) (f : ClipStore → ClipStore) : (s.onClips f).decks = s.decks := rfl
@[simp] theorem State.onClips_highway (s : State) (f : ClipStore → ClipStore) : (s.onClips f).highway = s.highway := rfl
@[simp] theorem State.onClips_lines (s : State) (f : ClipStore → ClipStore) : (s.onClips f).lines = s.lines := rfl
@[simp] theorem State.onClips_alert (s : State) (f : ClipStore → ClipStore) : (s.onClips f).alert = s.alert := rfl
@[simp] theorem State.onClips_deadAir (s : State) (f : ClipStore → ClipStore) : (s.onClips f).deadAir = s.deadAir := rfl
@[simp] theorem State.onClips_link (s : State) (f : ClipStore → ClipStore) : (s.onClips f).link = s.link := rfl
@[simp] theorem State.onClips_lamps (s : State) (f : ClipStore → ClipStore) : (s.onClips f).lamps = s.lamps := rfl
@[simp] theorem State.onClips_counters (s : State) (f : ClipStore → ClipStore) : (s.onClips f).counters = s.counters := rfl
@[simp] theorem State.onClips_messages (s : State) (f : ClipStore → ClipStore) : (s.onClips f).messages = s.messages := rfl
@[simp] theorem State.onClips_forced (s : State) (f : ClipStore → ClipStore) : (s.onClips f).forced = s.forced := rfl
@[simp] theorem State.onClips_airAnswer (s : State) (f : ClipStore → ClipStore) : (s.onClips f).airAnswer = s.airAnswer := rfl
@[simp] theorem State.onClips_unstated (s : State) (f : ClipStore → ClipStore) : (s.onClips f).unstated = s.unstated := rfl
@[simp] theorem State.onArbiter_pending (s : State) (f : Arbiter → Arbiter) : (s.onArbiter f).pending = s.pending := rfl
@[simp] theorem State.onArbiter_clock (s : State) (f : Arbiter → Arbiter) : (s.onArbiter f).clock = s.clock := rfl
@[simp] theorem State.onArbiter_xm (s : State) (f : Arbiter → Arbiter) : (s.onArbiter f).xm = s.xm := rfl
@[simp] theorem State.onArbiter_sdram (s : State) (f : Arbiter → Arbiter) : (s.onArbiter f).sdram = s.sdram := rfl
@[simp] theorem State.onArbiter_ports (s : State) (f : Arbiter → Arbiter) : (s.onArbiter f).ports = s.ports := rfl
@[simp] theorem State.onArbiter_air (s : State) (f : Arbiter → Arbiter) : (s.onArbiter f).air = s.air := rfl
@[simp] theorem State.onArbiter_mixer (s : State) (f : Arbiter → Arbiter) : (s.onArbiter f).mixer = s.mixer := rfl
@[simp] theorem State.onArbiter_clips (s : State) (f : Arbiter → Arbiter) : (s.onArbiter f).clips = s.clips := rfl
@[simp] theorem State.onArbiter_arbiter (s : State) (f : Arbiter → Arbiter) :
    (s.onArbiter f).arbiter = f s.arbiter := rfl
@[simp] theorem State.onArbiter_decks (s : State) (f : Arbiter → Arbiter) : (s.onArbiter f).decks = s.decks := rfl
@[simp] theorem State.onArbiter_highway (s : State) (f : Arbiter → Arbiter) : (s.onArbiter f).highway = s.highway := rfl
@[simp] theorem State.onArbiter_lines (s : State) (f : Arbiter → Arbiter) : (s.onArbiter f).lines = s.lines := rfl
@[simp] theorem State.onArbiter_alert (s : State) (f : Arbiter → Arbiter) : (s.onArbiter f).alert = s.alert := rfl
@[simp] theorem State.onArbiter_deadAir (s : State) (f : Arbiter → Arbiter) : (s.onArbiter f).deadAir = s.deadAir := rfl
@[simp] theorem State.onArbiter_link (s : State) (f : Arbiter → Arbiter) : (s.onArbiter f).link = s.link := rfl
@[simp] theorem State.onArbiter_lamps (s : State) (f : Arbiter → Arbiter) : (s.onArbiter f).lamps = s.lamps := rfl
@[simp] theorem State.onArbiter_counters (s : State) (f : Arbiter → Arbiter) : (s.onArbiter f).counters = s.counters := rfl
@[simp] theorem State.onArbiter_messages (s : State) (f : Arbiter → Arbiter) : (s.onArbiter f).messages = s.messages := rfl
@[simp] theorem State.onArbiter_forced (s : State) (f : Arbiter → Arbiter) : (s.onArbiter f).forced = s.forced := rfl
@[simp] theorem State.onArbiter_airAnswer (s : State) (f : Arbiter → Arbiter) : (s.onArbiter f).airAnswer = s.airAnswer := rfl
@[simp] theorem State.onArbiter_unstated (s : State) (f : Arbiter → Arbiter) : (s.onArbiter f).unstated = s.unstated := rfl
@[simp] theorem State.tell_pending (s : State) (ms : List Message) : (s.tell ms).pending = s.pending := rfl
@[simp] theorem State.tell_clock (s : State) (ms : List Message) : (s.tell ms).clock = s.clock := rfl
@[simp] theorem State.tell_xm (s : State) (ms : List Message) : (s.tell ms).xm = s.xm := rfl
@[simp] theorem State.tell_sdram (s : State) (ms : List Message) : (s.tell ms).sdram = s.sdram := rfl
@[simp] theorem State.tell_ports (s : State) (ms : List Message) : (s.tell ms).ports = s.ports := rfl
@[simp] theorem State.tell_air (s : State) (ms : List Message) : (s.tell ms).air = s.air := rfl
@[simp] theorem State.tell_mixer (s : State) (ms : List Message) : (s.tell ms).mixer = s.mixer := rfl
@[simp] theorem State.tell_clips (s : State) (ms : List Message) : (s.tell ms).clips = s.clips := rfl
@[simp] theorem State.tell_arbiter (s : State) (ms : List Message) : (s.tell ms).arbiter = s.arbiter := rfl
@[simp] theorem State.tell_decks (s : State) (ms : List Message) : (s.tell ms).decks = s.decks := rfl
@[simp] theorem State.tell_highway (s : State) (ms : List Message) : (s.tell ms).highway = s.highway := rfl
@[simp] theorem State.tell_lines (s : State) (ms : List Message) : (s.tell ms).lines = s.lines := rfl
@[simp] theorem State.tell_alert (s : State) (ms : List Message) : (s.tell ms).alert = s.alert := rfl
@[simp] theorem State.tell_deadAir (s : State) (ms : List Message) : (s.tell ms).deadAir = s.deadAir := rfl
@[simp] theorem State.tell_link (s : State) (ms : List Message) : (s.tell ms).link = s.link := rfl
@[simp] theorem State.tell_lamps (s : State) (ms : List Message) : (s.tell ms).lamps = s.lamps := rfl
@[simp] theorem State.tell_counters (s : State) (ms : List Message) : (s.tell ms).counters = s.counters := rfl
@[simp] theorem State.tell_messages (s : State) (ms : List Message) :
    (s.tell ms).messages = s.messages ++ ms := rfl
@[simp] theorem State.tell_forced (s : State) (ms : List Message) : (s.tell ms).forced = s.forced := rfl
@[simp] theorem State.tell_airAnswer (s : State) (ms : List Message) : (s.tell ms).airAnswer = s.airAnswer := rfl
@[simp] theorem State.tell_unstated (s : State) (ms : List Message) : (s.tell ms).unstated = s.unstated := rfl
@[simp] theorem State.force_pending (s : State) (rs : List RecordId) : (s.force rs).pending = s.pending := rfl
@[simp] theorem State.force_clock (s : State) (rs : List RecordId) : (s.force rs).clock = s.clock := rfl
@[simp] theorem State.force_xm (s : State) (rs : List RecordId) : (s.force rs).xm = s.xm := rfl
@[simp] theorem State.force_sdram (s : State) (rs : List RecordId) : (s.force rs).sdram = s.sdram := rfl
@[simp] theorem State.force_ports (s : State) (rs : List RecordId) : (s.force rs).ports = s.ports := rfl
@[simp] theorem State.force_air (s : State) (rs : List RecordId) : (s.force rs).air = s.air := rfl
@[simp] theorem State.force_mixer (s : State) (rs : List RecordId) : (s.force rs).mixer = s.mixer := rfl
@[simp] theorem State.force_clips (s : State) (rs : List RecordId) : (s.force rs).clips = s.clips := rfl
@[simp] theorem State.force_arbiter (s : State) (rs : List RecordId) : (s.force rs).arbiter = s.arbiter := rfl
@[simp] theorem State.force_decks (s : State) (rs : List RecordId) : (s.force rs).decks = s.decks := rfl
@[simp] theorem State.force_highway (s : State) (rs : List RecordId) : (s.force rs).highway = s.highway := rfl
@[simp] theorem State.force_lines (s : State) (rs : List RecordId) : (s.force rs).lines = s.lines := rfl
@[simp] theorem State.force_alert (s : State) (rs : List RecordId) : (s.force rs).alert = s.alert := rfl
@[simp] theorem State.force_deadAir (s : State) (rs : List RecordId) : (s.force rs).deadAir = s.deadAir := rfl
@[simp] theorem State.force_link (s : State) (rs : List RecordId) : (s.force rs).link = s.link := rfl
@[simp] theorem State.force_lamps (s : State) (rs : List RecordId) : (s.force rs).lamps = s.lamps := rfl
@[simp] theorem State.force_counters (s : State) (rs : List RecordId) : (s.force rs).counters = s.counters := rfl
@[simp] theorem State.force_messages (s : State) (rs : List RecordId) : (s.force rs).messages = s.messages := rfl
@[simp] theorem State.force_forced (s : State) (rs : List RecordId) :
    (s.force rs).forced = s.forced ++ rs.filter fun r => s.clock.begun || r.early := rfl
@[simp] theorem State.force_airAnswer (s : State) (rs : List RecordId) : (s.force rs).airAnswer = s.airAnswer := rfl
@[simp] theorem State.force_unstated (s : State) (rs : List RecordId) : (s.force rs).unstated = s.unstated := rfl
@[simp] theorem State.rewriteIf_pending (s : State) (r : RecordId) (b a : List Nat) : (s.rewriteIf r b a).pending = s.pending := rfl
@[simp] theorem State.rewriteIf_clock (s : State) (r : RecordId) (b a : List Nat) : (s.rewriteIf r b a).clock = s.clock := rfl
@[simp] theorem State.rewriteIf_xm (s : State) (r : RecordId) (b a : List Nat) : (s.rewriteIf r b a).xm = s.xm := rfl
@[simp] theorem State.rewriteIf_sdram (s : State) (r : RecordId) (b a : List Nat) : (s.rewriteIf r b a).sdram = s.sdram := rfl
@[simp] theorem State.rewriteIf_ports (s : State) (r : RecordId) (b a : List Nat) : (s.rewriteIf r b a).ports = s.ports := rfl
@[simp] theorem State.rewriteIf_air (s : State) (r : RecordId) (b a : List Nat) : (s.rewriteIf r b a).air = s.air := rfl
@[simp] theorem State.rewriteIf_mixer (s : State) (r : RecordId) (b a : List Nat) : (s.rewriteIf r b a).mixer = s.mixer := rfl
@[simp] theorem State.rewriteIf_clips (s : State) (r : RecordId) (b a : List Nat) : (s.rewriteIf r b a).clips = s.clips := rfl
@[simp] theorem State.rewriteIf_arbiter (s : State) (r : RecordId) (b a : List Nat) : (s.rewriteIf r b a).arbiter = s.arbiter := rfl
@[simp] theorem State.rewriteIf_decks (s : State) (r : RecordId) (b a : List Nat) : (s.rewriteIf r b a).decks = s.decks := rfl
@[simp] theorem State.rewriteIf_highway (s : State) (r : RecordId) (b a : List Nat) : (s.rewriteIf r b a).highway = s.highway := rfl
@[simp] theorem State.rewriteIf_lines (s : State) (r : RecordId) (b a : List Nat) : (s.rewriteIf r b a).lines = s.lines := rfl
@[simp] theorem State.rewriteIf_alert (s : State) (r : RecordId) (b a : List Nat) : (s.rewriteIf r b a).alert = s.alert := rfl
@[simp] theorem State.rewriteIf_deadAir (s : State) (r : RecordId) (b a : List Nat) : (s.rewriteIf r b a).deadAir = s.deadAir := rfl
@[simp] theorem State.rewriteIf_link (s : State) (r : RecordId) (b a : List Nat) : (s.rewriteIf r b a).link = s.link := rfl
@[simp] theorem State.rewriteIf_lamps (s : State) (r : RecordId) (b a : List Nat) : (s.rewriteIf r b a).lamps = s.lamps := rfl
@[simp] theorem State.rewriteIf_counters (s : State) (r : RecordId) (b a : List Nat) : (s.rewriteIf r b a).counters = s.counters := rfl
@[simp] theorem State.rewriteIf_messages (s : State) (r : RecordId) (b a : List Nat) : (s.rewriteIf r b a).messages = s.messages := rfl
@[simp] theorem State.rewriteIf_airAnswer (s : State) (r : RecordId) (b a : List Nat) : (s.rewriteIf r b a).airAnswer = s.airAnswer := rfl
@[simp] theorem State.rewriteIf_unstated (s : State) (r : RecordId) (b a : List Nat) : (s.rewriteIf r b a).unstated = s.unstated := rfl
@[simp] theorem State.rewriteIf_forced (s : State) (r : RecordId) (b a : List Nat) :
    (s.rewriteIf r b a).forced = (s.force (if a = b then [] else [r])).forced := rfl
@[simp] theorem State.onLamps_pending (s : State) (f : LampDriver → LampDriver) : (s.onLamps f).pending = s.pending := rfl
@[simp] theorem State.onLamps_clock (s : State) (f : LampDriver → LampDriver) : (s.onLamps f).clock = s.clock := rfl
@[simp] theorem State.onLamps_xm (s : State) (f : LampDriver → LampDriver) : (s.onLamps f).xm = s.xm := rfl
@[simp] theorem State.onLamps_sdram (s : State) (f : LampDriver → LampDriver) : (s.onLamps f).sdram = s.sdram := rfl
@[simp] theorem State.onLamps_ports (s : State) (f : LampDriver → LampDriver) : (s.onLamps f).ports = s.ports := rfl
@[simp] theorem State.onLamps_air (s : State) (f : LampDriver → LampDriver) : (s.onLamps f).air = s.air := rfl
@[simp] theorem State.onLamps_mixer (s : State) (f : LampDriver → LampDriver) : (s.onLamps f).mixer = s.mixer := rfl
@[simp] theorem State.onLamps_clips (s : State) (f : LampDriver → LampDriver) : (s.onLamps f).clips = s.clips := rfl
@[simp] theorem State.onLamps_arbiter (s : State) (f : LampDriver → LampDriver) : (s.onLamps f).arbiter = s.arbiter := rfl
@[simp] theorem State.onLamps_decks (s : State) (f : LampDriver → LampDriver) : (s.onLamps f).decks = s.decks := rfl
@[simp] theorem State.onLamps_highway (s : State) (f : LampDriver → LampDriver) : (s.onLamps f).highway = s.highway := rfl
@[simp] theorem State.onLamps_lines (s : State) (f : LampDriver → LampDriver) : (s.onLamps f).lines = s.lines := rfl
@[simp] theorem State.onLamps_alert (s : State) (f : LampDriver → LampDriver) : (s.onLamps f).alert = s.alert := rfl
@[simp] theorem State.onLamps_deadAir (s : State) (f : LampDriver → LampDriver) : (s.onLamps f).deadAir = s.deadAir := rfl
@[simp] theorem State.onLamps_link (s : State) (f : LampDriver → LampDriver) : (s.onLamps f).link = s.link := rfl
@[simp] theorem State.onLamps_lamps (s : State) (f : LampDriver → LampDriver) : (s.onLamps f).lamps = f s.lamps := rfl
@[simp] theorem State.onLamps_counters (s : State) (f : LampDriver → LampDriver) : (s.onLamps f).counters = s.counters := rfl
@[simp] theorem State.onLamps_messages (s : State) (f : LampDriver → LampDriver) : (s.onLamps f).messages = s.messages := rfl
@[simp] theorem State.onLamps_airAnswer (s : State) (f : LampDriver → LampDriver) : (s.onLamps f).airAnswer = s.airAnswer := rfl
@[simp] theorem State.onLamps_unstated (s : State) (f : LampDriver → LampDriver) : (s.onLamps f).unstated = s.unstated := rfl
@[simp] theorem State.onLamps_forced (s : State) (f : LampDriver → LampDriver) :
    (s.onLamps f).forced = (s.rewriteIf .lamps (lampWords s.lamps) (lampWords (f s.lamps))).forced := rfl
@[simp] theorem State.raise_pending (s : State) (p : Port) (e : Event) : (s.raise p e).pending = s.pending := rfl
@[simp] theorem State.raise_clock (s : State) (p : Port) (e : Event) : (s.raise p e).clock = s.clock := rfl
@[simp] theorem State.raise_xm (s : State) (p : Port) (e : Event) :
    (s.raise p e).xm = s.xm.write (base p + 51) (s.xm.read (base p + 51) ||| e.mask) := rfl
@[simp] theorem State.raise_sdram (s : State) (p : Port) (e : Event) : (s.raise p e).sdram = s.sdram := rfl
@[simp] theorem State.raise_air (s : State) (p : Port) (e : Event) : (s.raise p e).air = s.air := rfl
@[simp] theorem State.raise_mixer (s : State) (p : Port) (e : Event) : (s.raise p e).mixer = s.mixer := rfl
@[simp] theorem State.raise_clips (s : State) (p : Port) (e : Event) : (s.raise p e).clips = s.clips := rfl
@[simp] theorem State.raise_arbiter (s : State) (p : Port) (e : Event) : (s.raise p e).arbiter = s.arbiter := rfl
@[simp] theorem State.raise_decks (s : State) (p : Port) (e : Event) : (s.raise p e).decks = s.decks := rfl
@[simp] theorem State.raise_highway (s : State) (p : Port) (e : Event) : (s.raise p e).highway = s.highway := rfl
@[simp] theorem State.raise_lines (s : State) (p : Port) (e : Event) : (s.raise p e).lines = s.lines := rfl
@[simp] theorem State.raise_alert (s : State) (p : Port) (e : Event) : (s.raise p e).alert = s.alert := rfl
@[simp] theorem State.raise_deadAir (s : State) (p : Port) (e : Event) : (s.raise p e).deadAir = s.deadAir := rfl
@[simp] theorem State.raise_link (s : State) (p : Port) (e : Event) : (s.raise p e).link = s.link := rfl
@[simp] theorem State.raise_lamps (s : State) (p : Port) (e : Event) : (s.raise p e).lamps = s.lamps := rfl
@[simp] theorem State.raise_counters (s : State) (p : Port) (e : Event) : (s.raise p e).counters = s.counters := rfl
@[simp] theorem State.raise_messages (s : State) (p : Port) (e : Event) : (s.raise p e).messages = s.messages := rfl
@[simp] theorem State.raise_forced (s : State) (p : Port) (e : Event) : (s.raise p e).forced = s.forced := rfl
@[simp] theorem State.raise_airAnswer (s : State) (p : Port) (e : Event) : (s.raise p e).airAnswer = s.airAnswer := rfl
@[simp] theorem State.raise_unstated (s : State) (p : Port) (e : Event) : (s.raise p e).unstated = s.unstated := rfl
@[simp] theorem State.raiseAll_pending (s : State) (e : Event) : (s.raiseAll e).pending = s.pending := rfl
@[simp] theorem State.raiseAll_clock (s : State) (e : Event) : (s.raiseAll e).clock = s.clock := rfl
@[simp] theorem State.raiseAll_sdram (s : State) (e : Event) : (s.raiseAll e).sdram = s.sdram := rfl
@[simp] theorem State.raiseAll_air (s : State) (e : Event) : (s.raiseAll e).air = s.air := rfl
@[simp] theorem State.raiseAll_mixer (s : State) (e : Event) : (s.raiseAll e).mixer = s.mixer := rfl
@[simp] theorem State.raiseAll_clips (s : State) (e : Event) : (s.raiseAll e).clips = s.clips := rfl
@[simp] theorem State.raiseAll_arbiter (s : State) (e : Event) : (s.raiseAll e).arbiter = s.arbiter := rfl
@[simp] theorem State.raiseAll_decks (s : State) (e : Event) : (s.raiseAll e).decks = s.decks := rfl
@[simp] theorem State.raiseAll_highway (s : State) (e : Event) : (s.raiseAll e).highway = s.highway := rfl
@[simp] theorem State.raiseAll_lines (s : State) (e : Event) : (s.raiseAll e).lines = s.lines := rfl
@[simp] theorem State.raiseAll_alert (s : State) (e : Event) : (s.raiseAll e).alert = s.alert := rfl
@[simp] theorem State.raiseAll_deadAir (s : State) (e : Event) : (s.raiseAll e).deadAir = s.deadAir := rfl
@[simp] theorem State.raiseAll_link (s : State) (e : Event) : (s.raiseAll e).link = s.link := rfl
@[simp] theorem State.raiseAll_lamps (s : State) (e : Event) : (s.raiseAll e).lamps = s.lamps := rfl
@[simp] theorem State.raiseAll_counters (s : State) (e : Event) : (s.raiseAll e).counters = s.counters := rfl
@[simp] theorem State.raiseAll_messages (s : State) (e : Event) : (s.raiseAll e).messages = s.messages := rfl
@[simp] theorem State.raiseAll_forced (s : State) (e : Event) : (s.raiseAll e).forced = s.forced := rfl
@[simp] theorem State.raiseAll_airAnswer (s : State) (e : Event) : (s.raiseAll e).airAnswer = s.airAnswer := rfl
@[simp] theorem State.raiseAll_unstated (s : State) (e : Event) : (s.raiseAll e).unstated = s.unstated := rfl
@[simp] theorem State.count_pending (s : State) (c : Counter) : (s.count c).pending = s.pending := rfl
@[simp] theorem State.count_clock (s : State) (c : Counter) : (s.count c).clock = s.clock := rfl
@[simp] theorem State.count_xm (s : State) (c : Counter) : (s.count c).xm = s.xm := rfl
@[simp] theorem State.count_sdram (s : State) (c : Counter) : (s.count c).sdram = s.sdram := rfl
@[simp] theorem State.count_ports (s : State) (c : Counter) : (s.count c).ports = s.ports := rfl
@[simp] theorem State.count_air (s : State) (c : Counter) : (s.count c).air = s.air := rfl
@[simp] theorem State.count_mixer (s : State) (c : Counter) : (s.count c).mixer = s.mixer := rfl
@[simp] theorem State.count_clips (s : State) (c : Counter) : (s.count c).clips = s.clips := rfl
@[simp] theorem State.count_arbiter (s : State) (c : Counter) : (s.count c).arbiter = s.arbiter := rfl
@[simp] theorem State.count_decks (s : State) (c : Counter) : (s.count c).decks = s.decks := rfl
@[simp] theorem State.count_highway (s : State) (c : Counter) : (s.count c).highway = s.highway := rfl
@[simp] theorem State.count_lines (s : State) (c : Counter) : (s.count c).lines = s.lines := rfl
@[simp] theorem State.count_alert (s : State) (c : Counter) : (s.count c).alert = s.alert := rfl
@[simp] theorem State.count_deadAir (s : State) (c : Counter) : (s.count c).deadAir = s.deadAir := rfl
@[simp] theorem State.count_link (s : State) (c : Counter) : (s.count c).link = s.link := rfl
@[simp] theorem State.count_lamps (s : State) (c : Counter) : (s.count c).lamps = s.lamps := rfl
@[simp] theorem State.count_counters (s : State) (c : Counter) :
    (s.count c).counters = s.counters.set c.index (min Config.counterMax (s.counters[c.index] + 1)) := rfl
@[simp] theorem State.count_messages (s : State) (c : Counter) : (s.count c).messages = s.messages := rfl
@[simp] theorem State.count_forced (s : State) (c : Counter) : (s.count c).forced = s.forced := rfl
@[simp] theorem State.count_airAnswer (s : State) (c : Counter) : (s.count c).airAnswer = s.airAnswer := rfl
@[simp] theorem State.count_unstated (s : State) (c : Counter) : (s.count c).unstated = s.unstated := rfl
@[simp] theorem State.onClip_pending (s : State) (c : Fin 128) (f : ClipEntry → ClipEntry) : (s.onClip c f).pending = s.pending := rfl
@[simp] theorem State.onClip_clock (s : State) (c : Fin 128) (f : ClipEntry → ClipEntry) : (s.onClip c f).clock = s.clock := rfl
@[simp] theorem State.onClip_xm (s : State) (c : Fin 128) (f : ClipEntry → ClipEntry) : (s.onClip c f).xm = s.xm := rfl
@[simp] theorem State.onClip_sdram (s : State) (c : Fin 128) (f : ClipEntry → ClipEntry) : (s.onClip c f).sdram = s.sdram := rfl
@[simp] theorem State.onClip_ports (s : State) (c : Fin 128) (f : ClipEntry → ClipEntry) : (s.onClip c f).ports = s.ports := rfl
@[simp] theorem State.onClip_air (s : State) (c : Fin 128) (f : ClipEntry → ClipEntry) : (s.onClip c f).air = s.air := rfl
@[simp] theorem State.onClip_mixer (s : State) (c : Fin 128) (f : ClipEntry → ClipEntry) : (s.onClip c f).mixer = s.mixer := rfl
@[simp] theorem State.onClip_clips (s : State) (c : Fin 128) (f : ClipEntry → ClipEntry) :
    (s.onClip c f).clips = { s.clips with table := s.clips.table.set c (f s.clips.table[c]) } := rfl
@[simp] theorem State.onClip_arbiter (s : State) (c : Fin 128) (f : ClipEntry → ClipEntry) : (s.onClip c f).arbiter = s.arbiter := rfl
@[simp] theorem State.onClip_decks (s : State) (c : Fin 128) (f : ClipEntry → ClipEntry) : (s.onClip c f).decks = s.decks := rfl
@[simp] theorem State.onClip_highway (s : State) (c : Fin 128) (f : ClipEntry → ClipEntry) : (s.onClip c f).highway = s.highway := rfl
@[simp] theorem State.onClip_lines (s : State) (c : Fin 128) (f : ClipEntry → ClipEntry) : (s.onClip c f).lines = s.lines := rfl
@[simp] theorem State.onClip_alert (s : State) (c : Fin 128) (f : ClipEntry → ClipEntry) : (s.onClip c f).alert = s.alert := rfl
@[simp] theorem State.onClip_deadAir (s : State) (c : Fin 128) (f : ClipEntry → ClipEntry) : (s.onClip c f).deadAir = s.deadAir := rfl
@[simp] theorem State.onClip_link (s : State) (c : Fin 128) (f : ClipEntry → ClipEntry) : (s.onClip c f).link = s.link := rfl
@[simp] theorem State.onClip_lamps (s : State) (c : Fin 128) (f : ClipEntry → ClipEntry) : (s.onClip c f).lamps = s.lamps := rfl
@[simp] theorem State.onClip_counters (s : State) (c : Fin 128) (f : ClipEntry → ClipEntry) : (s.onClip c f).counters = s.counters := rfl
@[simp] theorem State.onClip_messages (s : State) (c : Fin 128) (f : ClipEntry → ClipEntry) : (s.onClip c f).messages = s.messages := rfl
@[simp] theorem State.onClip_forced (s : State) (c : Fin 128) (f : ClipEntry → ClipEntry) :
    (s.onClip c f).forced = (s.force (if f (s.clip c) = s.clip c then [] else [.clip c])).forced := rfl
@[simp] theorem State.onClip_airAnswer (s : State) (c : Fin 128) (f : ClipEntry → ClipEntry) : (s.onClip c f).airAnswer = s.airAnswer := rfl
@[simp] theorem State.onClip_unstated (s : State) (c : Fin 128) (f : ClipEntry → ClipEntry) : (s.onClip c f).unstated = s.unstated := rfl
@[simp] theorem State.enqueue_pending (s : State) (r : ClipRequest) : (s.enqueue r).pending = s.pending := rfl
@[simp] theorem State.enqueue_clock (s : State) (r : ClipRequest) : (s.enqueue r).clock = s.clock := rfl
@[simp] theorem State.enqueue_xm (s : State) (r : ClipRequest) : (s.enqueue r).xm = s.xm := rfl
@[simp] theorem State.enqueue_sdram (s : State) (r : ClipRequest) : (s.enqueue r).sdram = s.sdram := rfl
@[simp] theorem State.enqueue_ports (s : State) (r : ClipRequest) : (s.enqueue r).ports = s.ports := rfl
@[simp] theorem State.enqueue_air (s : State) (r : ClipRequest) : (s.enqueue r).air = s.air := rfl
@[simp] theorem State.enqueue_mixer (s : State) (r : ClipRequest) : (s.enqueue r).mixer = s.mixer := rfl
@[simp] theorem State.enqueue_clips (s : State) (r : ClipRequest) :
    (s.enqueue r).clips = { s.clips with waiting := s.clips.waiting ++ [r] } := rfl
@[simp] theorem State.enqueue_arbiter (s : State) (r : ClipRequest) : (s.enqueue r).arbiter = s.arbiter := rfl
@[simp] theorem State.enqueue_decks (s : State) (r : ClipRequest) : (s.enqueue r).decks = s.decks := rfl
@[simp] theorem State.enqueue_highway (s : State) (r : ClipRequest) : (s.enqueue r).highway = s.highway := rfl
@[simp] theorem State.enqueue_lines (s : State) (r : ClipRequest) : (s.enqueue r).lines = s.lines := rfl
@[simp] theorem State.enqueue_alert (s : State) (r : ClipRequest) : (s.enqueue r).alert = s.alert := rfl
@[simp] theorem State.enqueue_deadAir (s : State) (r : ClipRequest) : (s.enqueue r).deadAir = s.deadAir := rfl
@[simp] theorem State.enqueue_link (s : State) (r : ClipRequest) : (s.enqueue r).link = s.link := rfl
@[simp] theorem State.enqueue_lamps (s : State) (r : ClipRequest) : (s.enqueue r).lamps = s.lamps := rfl
@[simp] theorem State.enqueue_counters (s : State) (r : ClipRequest) : (s.enqueue r).counters = s.counters := rfl
@[simp] theorem State.enqueue_messages (s : State) (r : ClipRequest) : (s.enqueue r).messages = s.messages := rfl
@[simp] theorem State.enqueue_forced (s : State) (r : ClipRequest) : (s.enqueue r).forced = s.forced := rfl
@[simp] theorem State.enqueue_airAnswer (s : State) (r : ClipRequest) : (s.enqueue r).airAnswer = s.airAnswer := rfl
@[simp] theorem State.enqueue_unstated (s : State) (r : ClipRequest) : (s.enqueue r).unstated = s.unstated := rfl

@[simp] theorem State.summarize_pending (b a : State) : (b.summarize a).pending = a.pending := rfl
@[simp] theorem State.summarize_clock (b a : State) : (b.summarize a).clock = a.clock := rfl
@[simp] theorem State.summarize_xm (b a : State) : (b.summarize a).xm = a.xm := rfl
@[simp] theorem State.summarize_sdram (b a : State) : (b.summarize a).sdram = a.sdram := rfl
@[simp] theorem State.summarize_ports (b a : State) : (b.summarize a).ports = a.ports := rfl
@[simp] theorem State.summarize_air (b a : State) : (b.summarize a).air = a.air := rfl
@[simp] theorem State.summarize_mixer (b a : State) : (b.summarize a).mixer = a.mixer := rfl
@[simp] theorem State.summarize_clips (b a : State) : (b.summarize a).clips = a.clips := rfl
@[simp] theorem State.summarize_arbiter (b a : State) : (b.summarize a).arbiter = a.arbiter := rfl
@[simp] theorem State.summarize_decks (b a : State) : (b.summarize a).decks = a.decks := rfl
@[simp] theorem State.summarize_highway (b a : State) : (b.summarize a).highway = a.highway := rfl
@[simp] theorem State.summarize_lines (b a : State) : (b.summarize a).lines = a.lines := rfl
@[simp] theorem State.summarize_alert (b a : State) : (b.summarize a).alert = a.alert := rfl
@[simp] theorem State.summarize_deadAir (b a : State) : (b.summarize a).deadAir = a.deadAir := rfl
@[simp] theorem State.summarize_link (b a : State) : (b.summarize a).link = a.link := rfl
@[simp] theorem State.summarize_lamps (b a : State) : (b.summarize a).lamps = a.lamps := rfl
@[simp] theorem State.summarize_counters (b a : State) : (b.summarize a).counters = a.counters := rfl
@[simp] theorem State.summarize_airAnswer (b a : State) : (b.summarize a).airAnswer = a.airAnswer := rfl
@[simp] theorem State.summarize_messages (b a : State) : (b.summarize a).messages = a.messages := rfl
@[simp] theorem State.summarize_unstated (b a : State) : (b.summarize a).unstated = a.unstated := rfl
@[simp] theorem State.summarize_forced (b a : State) :
    (b.summarize a).forced =
      (a.force (if summaryWords a.clips a.arbiter = summaryWords b.clips b.arbiter then [] else [.storeSummary])).forced :=
  rfl
@[simp] theorem State.onPages_pending (s : State) (f : List PageRun → List PageRun) : (s.onPages f).pending = s.pending := rfl
@[simp] theorem State.onPages_clock (s : State) (f : List PageRun → List PageRun) : (s.onPages f).clock = s.clock := rfl
@[simp] theorem State.onPages_xm (s : State) (f : List PageRun → List PageRun) : (s.onPages f).xm = s.xm := rfl
@[simp] theorem State.onPages_sdram (s : State) (f : List PageRun → List PageRun) : (s.onPages f).sdram = s.sdram := rfl
@[simp] theorem State.onPages_ports (s : State) (f : List PageRun → List PageRun) : (s.onPages f).ports = s.ports := rfl
@[simp] theorem State.onPages_air (s : State) (f : List PageRun → List PageRun) : (s.onPages f).air = s.air := rfl
@[simp] theorem State.onPages_mixer (s : State) (f : List PageRun → List PageRun) : (s.onPages f).mixer = s.mixer := rfl
@[simp] theorem State.onPages_clips (s : State) (f : List PageRun → List PageRun) :
    (s.onPages f).clips = { s.clips with pages := f s.clips.pages } := rfl
@[simp] theorem State.onPages_arbiter (s : State) (f : List PageRun → List PageRun) : (s.onPages f).arbiter = s.arbiter := rfl
@[simp] theorem State.onPages_decks (s : State) (f : List PageRun → List PageRun) : (s.onPages f).decks = s.decks := rfl
@[simp] theorem State.onPages_highway (s : State) (f : List PageRun → List PageRun) : (s.onPages f).highway = s.highway := rfl
@[simp] theorem State.onPages_lines (s : State) (f : List PageRun → List PageRun) : (s.onPages f).lines = s.lines := rfl
@[simp] theorem State.onPages_alert (s : State) (f : List PageRun → List PageRun) : (s.onPages f).alert = s.alert := rfl
@[simp] theorem State.onPages_deadAir (s : State) (f : List PageRun → List PageRun) : (s.onPages f).deadAir = s.deadAir := rfl
@[simp] theorem State.onPages_link (s : State) (f : List PageRun → List PageRun) : (s.onPages f).link = s.link := rfl
@[simp] theorem State.onPages_lamps (s : State) (f : List PageRun → List PageRun) : (s.onPages f).lamps = s.lamps := rfl
@[simp] theorem State.onPages_counters (s : State) (f : List PageRun → List PageRun) : (s.onPages f).counters = s.counters := rfl
@[simp] theorem State.onPages_airAnswer (s : State) (f : List PageRun → List PageRun) : (s.onPages f).airAnswer = s.airAnswer := rfl
@[simp] theorem State.onPages_messages (s : State) (f : List PageRun → List PageRun) : (s.onPages f).messages = s.messages := rfl
@[simp] theorem State.onPages_unstated (s : State) (f : List PageRun → List PageRun) : (s.onPages f).unstated = s.unstated := rfl
@[simp] theorem State.onPages_forced (s : State) (f : List PageRun → List PageRun) :
    (s.onPages f).forced = (s.force
      (if summaryWords { s.clips with pages := f s.clips.pages } s.arbiter = summaryWords s.clips s.arbiter then []
       else [.storeSummary])).forced := rfl
@[simp] theorem State.look_pending (s : State) : (s.look).pending = s.pending := rfl
@[simp] theorem State.look_clock (s : State) : (s.look).clock = s.clock := rfl
@[simp] theorem State.look_xm (s : State) : (s.look).xm = s.xm := rfl
@[simp] theorem State.look_sdram (s : State) : (s.look).sdram = s.sdram := rfl
@[simp] theorem State.look_ports (s : State) : (s.look).ports = s.ports := rfl
@[simp] theorem State.look_air (s : State) : (s.look).air = s.air := rfl
@[simp] theorem State.look_mixer (s : State) : (s.look).mixer = s.mixer := rfl
@[simp] theorem State.look_clips (s : State) : (s.look).clips = s.clips := rfl
@[simp] theorem State.look_arbiter (s : State) : (s.look).arbiter = s.arbiter := rfl
@[simp] theorem State.look_decks (s : State) : (s.look).decks = s.decks := rfl
@[simp] theorem State.look_highway (s : State) : (s.look).highway = s.highway := rfl
@[simp] theorem State.look_lines (s : State) : (s.look).lines = s.lines := rfl
@[simp] theorem State.look_alert (s : State) : (s.look).alert = s.alert := rfl
@[simp] theorem State.look_deadAir (s : State) : (s.look).deadAir = s.deadAir := rfl
@[simp] theorem State.look_link (s : State) :
    (s.look).link = s.link.transmit := rfl
@[simp] theorem State.look_lamps (s : State) : (s.look).lamps = s.lamps := rfl
@[simp] theorem State.look_counters (s : State) : (s.look).counters = s.counters := rfl
@[simp] theorem State.look_airAnswer (s : State) : (s.look).airAnswer = s.airAnswer := rfl
@[simp] theorem State.look_messages (s : State) : (s.look).messages = s.messages := rfl
@[simp] theorem State.look_unstated (s : State) : (s.look).unstated = s.unstated := rfl

end Sys2Proof.Machine
end

