-- ==== Sys2Proof/Laws/Ports.lean ====
section
/-!
SUPPORT. Laws/Ports.lean: what a write of exchange memory leaves of the ports, what it changes of the pages, and that it
keeps the read-aheads current.
-/
namespace Sys2Proof.Machine

/-! ## Ports under a write of exchange memory -/

@[simp] theorem State.onXm_port_pointer (s : State) (f : Mem 16 → Mem 16) (p : Port) :
    ((s.onXm f).ports.get p).pointer = (s.ports.get p).pointer := by cases p <;> rfl
@[simp] theorem State.onXm_port_cursor (s : State) (f : Mem 16 → Mem 16) (p : Port) :
    ((s.onXm f).ports.get p).cursor = (s.ports.get p).cursor := by cases p <;> rfl
@[simp] theorem State.onXm_port_wordsRead (s : State) (f : Mem 16 → Mem 16) (p : Port) :
    ((s.onXm f).ports.get p).wordsRead = (s.ports.get p).wordsRead := by cases p <;> rfl
@[simp] theorem State.onXm_port_partialPair (s : State) (f : Mem 16 → Mem 16) (p : Port) :
    ((s.onXm f).ports.get p).partialPair = (s.ports.get p).partialPair := by cases p <;> rfl
@[simp] theorem State.onXm_port_writeBuffer (s : State) (f : Mem 16 → Mem 16) (p : Port) :
    ((s.onXm f).ports.get p).writeBuffer = (s.ports.get p).writeBuffer := by cases p <;> rfl
@[simp] theorem State.onXm_port_clipAhead (s : State) (f : Mem 16 → Mem 16) (p : Port) :
    ((s.onXm f).ports.get p).clipAhead = (s.ports.get p).clipAhead := by cases p <;> rfl
@[simp] theorem State.onXm_port_fetching (s : State) (f : Mem 16 → Mem 16) (p : Port) :
    ((s.onXm f).ports.get p).fetching = (s.ports.get p).fetching := by cases p <;> rfl
@[simp] theorem State.onXm_port_fetchOffset (s : State) (f : Mem 16 → Mem 16) (p : Port) :
    ((s.onXm f).ports.get p).fetchOffset = (s.ports.get p).fetchOffset := by cases p <;> rfl
@[simp] theorem State.onXm_port_wait (s : State) (f : Mem 16 → Mem 16) (p : Port) :
    ((s.onXm f).ports.get p).wait = (s.ports.get p).wait := by cases p <;> rfl
@[simp] theorem State.onXm_port_readData (s : State) (f : Mem 16 → Mem 16) (p : Port) :
    ((s.onXm f).ports.get p).readData = (s.ports.get p).readData := by cases p <;> rfl
@[simp] theorem State.onXm_port_running (s : State) (f : Mem 16 → Mem 16) (p : Port) :
    ((s.onXm f).ports.get p).running = (s.ports.get p).running := by cases p <;> rfl
@[simp] theorem State.onXm_port_sealing (s : State) (f : Mem 16 → Mem 16) (p : Port) :
    ((s.onXm f).ports.get p).sealing = (s.ports.get p).sealing := by cases p <;> rfl
@[simp] theorem State.onXm_port_bare (s : State) (f : Mem 16 → Mem 16) (p : Port) :
    ((s.onXm f).ports.get p).bare = (s.ports.get p).bare := by cases p <;> rfl
@[simp] theorem State.xmWrite_port_pointer (s : State) (a : Nat) (v : Word) (p : Port) :
    ((s.xmWrite a v).ports.get p).pointer = (s.ports.get p).pointer := by cases p <;> rfl
@[simp] theorem State.xmWrite_port_cursor (s : State) (a : Nat) (v : Word) (p : Port) :
    ((s.xmWrite a v).ports.get p).cursor = (s.ports.get p).cursor := by cases p <;> rfl
@[simp] theorem State.xmWrite_port_wordsRead (s : State) (a : Nat) (v : Word) (p : Port) :
    ((s.xmWrite a v).ports.get p).wordsRead = (s.ports.get p).wordsRead := by cases p <;> rfl
@[simp] theorem State.xmWrite_port_partialPair (s : State) (a : Nat) (v : Word) (p : Port) :
    ((s.xmWrite a v).ports.get p).partialPair = (s.ports.get p).partialPair := by cases p <;> rfl
@[simp] theorem State.xmWrite_port_writeBuffer (s : State) (a : Nat) (v : Word) (p : Port) :
    ((s.xmWrite a v).ports.get p).writeBuffer = (s.ports.get p).writeBuffer := by cases p <;> rfl
@[simp] theorem State.xmWrite_port_clipAhead (s : State) (a : Nat) (v : Word) (p : Port) :
    ((s.xmWrite a v).ports.get p).clipAhead = (s.ports.get p).clipAhead := by cases p <;> rfl
@[simp] theorem State.xmWrite_port_fetching (s : State) (a : Nat) (v : Word) (p : Port) :
    ((s.xmWrite a v).ports.get p).fetching = (s.ports.get p).fetching := by cases p <;> rfl
@[simp] theorem State.xmWrite_port_fetchOffset (s : State) (a : Nat) (v : Word) (p : Port) :
    ((s.xmWrite a v).ports.get p).fetchOffset = (s.ports.get p).fetchOffset := by cases p <;> rfl
@[simp] theorem State.xmWrite_port_wait (s : State) (a : Nat) (v : Word) (p : Port) :
    ((s.xmWrite a v).ports.get p).wait = (s.ports.get p).wait := by cases p <;> rfl
@[simp] theorem State.xmWrite_port_readData (s : State) (a : Nat) (v : Word) (p : Port) :
    ((s.xmWrite a v).ports.get p).readData = (s.ports.get p).readData := by cases p <;> rfl
@[simp] theorem State.xmWrite_port_running (s : State) (a : Nat) (v : Word) (p : Port) :
    ((s.xmWrite a v).ports.get p).running = (s.ports.get p).running := by cases p <;> rfl
@[simp] theorem State.xmWrite_port_sealing (s : State) (a : Nat) (v : Word) (p : Port) :
    ((s.xmWrite a v).ports.get p).sealing = (s.ports.get p).sealing := by cases p <;> rfl
@[simp] theorem State.xmWrite_port_bare (s : State) (a : Nat) (v : Word) (p : Port) :
    ((s.xmWrite a v).ports.get p).bare = (s.ports.get p).bare := by cases p <;> rfl
@[simp] theorem State.xmWriteBlock_port_pointer (s : State) (a : Nat) (ws : List Word) (p : Port) :
    ((s.xmWriteBlock a ws).ports.get p).pointer = (s.ports.get p).pointer := by cases p <;> rfl
@[simp] theorem State.xmWriteBlock_port_cursor (s : State) (a : Nat) (ws : List Word) (p : Port) :
    ((s.xmWriteBlock a ws).ports.get p).cursor = (s.ports.get p).cursor := by cases p <;> rfl
@[simp] theorem State.xmWriteBlock_port_wordsRead (s : State) (a : Nat) (ws : List Word) (p : Port) :
    ((s.xmWriteBlock a ws).ports.get p).wordsRead = (s.ports.get p).wordsRead := by cases p <;> rfl
@[simp] theorem State.xmWriteBlock_port_partialPair (s : State) (a : Nat) (ws : List Word) (p : Port) :
    ((s.xmWriteBlock a ws).ports.get p).partialPair = (s.ports.get p).partialPair := by cases p <;> rfl
@[simp] theorem State.xmWriteBlock_port_writeBuffer (s : State) (a : Nat) (ws : List Word) (p : Port) :
    ((s.xmWriteBlock a ws).ports.get p).writeBuffer = (s.ports.get p).writeBuffer := by cases p <;> rfl
@[simp] theorem State.xmWriteBlock_port_clipAhead (s : State) (a : Nat) (ws : List Word) (p : Port) :
    ((s.xmWriteBlock a ws).ports.get p).clipAhead = (s.ports.get p).clipAhead := by cases p <;> rfl
@[simp] theorem State.xmWriteBlock_port_fetching (s : State) (a : Nat) (ws : List Word) (p : Port) :
    ((s.xmWriteBlock a ws).ports.get p).fetching = (s.ports.get p).fetching := by cases p <;> rfl
@[simp] theorem State.xmWriteBlock_port_fetchOffset (s : State) (a : Nat) (ws : List Word) (p : Port) :
    ((s.xmWriteBlock a ws).ports.get p).fetchOffset = (s.ports.get p).fetchOffset := by cases p <;> rfl
@[simp] theorem State.xmWriteBlock_port_wait (s : State) (a : Nat) (ws : List Word) (p : Port) :
    ((s.xmWriteBlock a ws).ports.get p).wait = (s.ports.get p).wait := by cases p <;> rfl
@[simp] theorem State.xmWriteBlock_port_readData (s : State) (a : Nat) (ws : List Word) (p : Port) :
    ((s.xmWriteBlock a ws).ports.get p).readData = (s.ports.get p).readData := by cases p <;> rfl
@[simp] theorem State.xmWriteBlock_port_running (s : State) (a : Nat) (ws : List Word) (p : Port) :
    ((s.xmWriteBlock a ws).ports.get p).running = (s.ports.get p).running := by cases p <;> rfl
@[simp] theorem State.xmWriteBlock_port_sealing (s : State) (a : Nat) (ws : List Word) (p : Port) :
    ((s.xmWriteBlock a ws).ports.get p).sealing = (s.ports.get p).sealing := by cases p <;> rfl
@[simp] theorem State.xmWriteBlock_port_bare (s : State) (a : Nat) (ws : List Word) (p : Port) :
    ((s.xmWriteBlock a ws).ports.get p).bare = (s.ports.get p).bare := by cases p <;> rfl
@[simp] theorem State.raise_port_pointer (s : State) (q : Port) (e : Event) (p : Port) :
    ((s.raise q e).ports.get p).pointer = (s.ports.get p).pointer := by cases p <;> rfl
@[simp] theorem State.raise_port_cursor (s : State) (q : Port) (e : Event) (p : Port) :
    ((s.raise q e).ports.get p).cursor = (s.ports.get p).cursor := by cases p <;> rfl
@[simp] theorem State.raise_port_wordsRead (s : State) (q : Port) (e : Event) (p : Port) :
    ((s.raise q e).ports.get p).wordsRead = (s.ports.get p).wordsRead := by cases p <;> rfl
@[simp] theorem State.raise_port_partialPair (s : State) (q : Port) (e : Event) (p : Port) :
    ((s.raise q e).ports.get p).partialPair = (s.ports.get p).partialPair := by cases p <;> rfl
@[simp] theorem State.raise_port_writeBuffer (s : State) (q : Port) (e : Event) (p : Port) :
    ((s.raise q e).ports.get p).writeBuffer = (s.ports.get p).writeBuffer := by cases p <;> rfl
@[simp] theorem State.raise_port_clipAhead (s : State) (q : Port) (e : Event) (p : Port) :
    ((s.raise q e).ports.get p).clipAhead = (s.ports.get p).clipAhead := by cases p <;> rfl
@[simp] theorem State.raise_port_fetching (s : State) (q : Port) (e : Event) (p : Port) :
    ((s.raise q e).ports.get p).fetching = (s.ports.get p).fetching := by cases p <;> rfl
@[simp] theorem State.raise_port_fetchOffset (s : State) (q : Port) (e : Event) (p : Port) :
    ((s.raise q e).ports.get p).fetchOffset = (s.ports.get p).fetchOffset := by cases p <;> rfl
@[simp] theorem State.raise_port_wait (s : State) (q : Port) (e : Event) (p : Port) :
    ((s.raise q e).ports.get p).wait = (s.ports.get p).wait := by cases p <;> rfl
@[simp] theorem State.raise_port_readData (s : State) (q : Port) (e : Event) (p : Port) :
    ((s.raise q e).ports.get p).readData = (s.ports.get p).readData := by cases p <;> rfl
@[simp] theorem State.raise_port_running (s : State) (q : Port) (e : Event) (p : Port) :
    ((s.raise q e).ports.get p).running = (s.ports.get p).running := by cases p <;> rfl
@[simp] theorem State.raise_port_sealing (s : State) (q : Port) (e : Event) (p : Port) :
    ((s.raise q e).ports.get p).sealing = (s.ports.get p).sealing := by cases p <;> rfl
@[simp] theorem State.raise_port_bare (s : State) (q : Port) (e : Event) (p : Port) :
    ((s.raise q e).ports.get p).bare = (s.ports.get p).bare := by cases p <;> rfl
@[simp] theorem State.raiseAll_port_pointer (s : State) (e : Event) (p : Port) :
    ((s.raiseAll e).ports.get p).pointer = (s.ports.get p).pointer := by cases p <;> rfl
@[simp] theorem State.raiseAll_port_cursor (s : State) (e : Event) (p : Port) :
    ((s.raiseAll e).ports.get p).cursor = (s.ports.get p).cursor := by cases p <;> rfl
@[simp] theorem State.raiseAll_port_wordsRead (s : State) (e : Event) (p : Port) :
    ((s.raiseAll e).ports.get p).wordsRead = (s.ports.get p).wordsRead := by cases p <;> rfl
@[simp] theorem State.raiseAll_port_partialPair (s : State) (e : Event) (p : Port) :
    ((s.raiseAll e).ports.get p).partialPair = (s.ports.get p).partialPair := by cases p <;> rfl
@[simp] theorem State.raiseAll_port_writeBuffer (s : State) (e : Event) (p : Port) :
    ((s.raiseAll e).ports.get p).writeBuffer = (s.ports.get p).writeBuffer := by cases p <;> rfl
@[simp] theorem State.raiseAll_port_clipAhead (s : State) (e : Event) (p : Port) :
    ((s.raiseAll e).ports.get p).clipAhead = (s.ports.get p).clipAhead := by cases p <;> rfl
@[simp] theorem State.raiseAll_port_fetching (s : State) (e : Event) (p : Port) :
    ((s.raiseAll e).ports.get p).fetching = (s.ports.get p).fetching := by cases p <;> rfl
@[simp] theorem State.raiseAll_port_fetchOffset (s : State) (e : Event) (p : Port) :
    ((s.raiseAll e).ports.get p).fetchOffset = (s.ports.get p).fetchOffset := by cases p <;> rfl
@[simp] theorem State.raiseAll_port_wait (s : State) (e : Event) (p : Port) :
    ((s.raiseAll e).ports.get p).wait = (s.ports.get p).wait := by cases p <;> rfl
@[simp] theorem State.raiseAll_port_readData (s : State) (e : Event) (p : Port) :
    ((s.raiseAll e).ports.get p).readData = (s.ports.get p).readData := by cases p <;> rfl
@[simp] theorem State.raiseAll_port_running (s : State) (e : Event) (p : Port) :
    ((s.raiseAll e).ports.get p).running = (s.ports.get p).running := by cases p <;> rfl
@[simp] theorem State.raiseAll_port_sealing (s : State) (e : Event) (p : Port) :
    ((s.raiseAll e).ports.get p).sealing = (s.ports.get p).sealing := by cases p <;> rfl
@[simp] theorem State.raiseAll_port_bare (s : State) (e : Event) (p : Port) :
    ((s.raiseAll e).ports.get p).bare = (s.ports.get p).bare := by cases p <;> rfl
@[simp] theorem State.rewrite_port_pointer (s : State) (r : RecordId) (p : Port) :
    ((s.rewrite r).ports.get p).pointer = (s.ports.get p).pointer := by cases p <;> rfl
@[simp] theorem State.rewrite_port_cursor (s : State) (r : RecordId) (p : Port) :
    ((s.rewrite r).ports.get p).cursor = (s.ports.get p).cursor := by cases p <;> rfl
@[simp] theorem State.rewrite_port_wordsRead (s : State) (r : RecordId) (p : Port) :
    ((s.rewrite r).ports.get p).wordsRead = (s.ports.get p).wordsRead := by cases p <;> rfl
@[simp] theorem State.rewrite_port_partialPair (s : State) (r : RecordId) (p : Port) :
    ((s.rewrite r).ports.get p).partialPair = (s.ports.get p).partialPair := by cases p <;> rfl
@[simp] theorem State.rewrite_port_writeBuffer (s : State) (r : RecordId) (p : Port) :
    ((s.rewrite r).ports.get p).writeBuffer = (s.ports.get p).writeBuffer := by cases p <;> rfl
@[simp] theorem State.rewrite_port_clipAhead (s : State) (r : RecordId) (p : Port) :
    ((s.rewrite r).ports.get p).clipAhead = (s.ports.get p).clipAhead := by cases p <;> rfl
@[simp] theorem State.rewrite_port_fetching (s : State) (r : RecordId) (p : Port) :
    ((s.rewrite r).ports.get p).fetching = (s.ports.get p).fetching := by cases p <;> rfl
@[simp] theorem State.rewrite_port_fetchOffset (s : State) (r : RecordId) (p : Port) :
    ((s.rewrite r).ports.get p).fetchOffset = (s.ports.get p).fetchOffset := by cases p <;> rfl
@[simp] theorem State.rewrite_port_wait (s : State) (r : RecordId) (p : Port) :
    ((s.rewrite r).ports.get p).wait = (s.ports.get p).wait := by cases p <;> rfl
@[simp] theorem State.rewrite_port_readData (s : State) (r : RecordId) (p : Port) :
    ((s.rewrite r).ports.get p).readData = (s.ports.get p).readData := by cases p <;> rfl
@[simp] theorem State.rewrite_port_running (s : State) (r : RecordId) (p : Port) :
    ((s.rewrite r).ports.get p).running = (s.ports.get p).running := by cases p <;> rfl
@[simp] theorem State.rewrite_port_sealing (s : State) (r : RecordId) (p : Port) :
    ((s.rewrite r).ports.get p).sealing = (s.ports.get p).sealing := by cases p <;> rfl
@[simp] theorem State.rewrite_port_bare (s : State) (r : RecordId) (p : Port) :
    ((s.rewrite r).ports.get p).bare = (s.ports.get p).bare := by cases p <;> rfl

/-- A port changed: what another port holds. -/
theorem State.onPort_port (s : State) (p q : Port) (f : PortState → PortState) :
    (s.onPort p f).ports.get q = if q = p then f (s.ports.get p) else s.ports.get q := by
  simp [PerPort.get_modify]

@[simp] theorem State.onPort_port_same (s : State) (p : Port) (f : PortState → PortState) :
    (s.onPort p f).ports.get p = f (s.ports.get p) := by simp

/-! ## Blocks under a write of exchange memory -/

@[simp] theorem State.blocks_onXm (s : State) (f : Mem 16 → Mem 16) : (s.onXm f).blocks = s.blocks := rfl
@[simp] theorem State.blocks_xmWrite (s : State) (a : Nat) (v : Word) : (s.xmWrite a v).blocks = s.blocks := rfl
@[simp] theorem State.blocks_xmWriteBlock (s : State) (a : Nat) (ws : List Word) :
    (s.xmWriteBlock a ws).blocks = s.blocks := rfl
@[simp] theorem State.blocks_onPort (s : State) (p : Port) (f : PortState → PortState) :
    (s.onPort p f).blocks = s.blocks := rfl
@[simp] theorem State.blocks_raise (s : State) (p : Port) (e : Event) : (s.raise p e).blocks = s.blocks := rfl
@[simp] theorem State.blocks_raiseAll (s : State) (e : Event) : (s.raiseAll e).blocks = s.blocks := rfl
@[simp] theorem State.blocks_rewrite (s : State) (r : RecordId) : (s.rewrite r).blocks = s.blocks := rfl
@[simp] theorem State.blocks_force (s : State) (rs : List RecordId) : (s.force rs).blocks = s.blocks := rfl
@[simp] theorem State.blocks_blocks (s : State) : s.blocks.blocks = s.blocks := rfl

/-! ## Events (R186) -/

theorem base_cases (p : Port) : base p = 0 ∨ base p = 4096 ∨ base p = 8192 := by cases p <;> simp [base]
theorem base_lt (p : Port) : base p ≤ 8192 := by cases p <;> simp [base]

/-- What raising an event in all three event words leaves of a word that is none of them. -/
theorem State.raiseAll_read (s : State) (e : Event) (a : Nat) (h : ∀ p, a ≠ base p + 51) :
    (s.raiseAll e).xm.read a = s.xm.read a := by
  have ha := h .a; have hb := h .b; have hc := h .c
  simp [State.raiseAll, Mem.read_write, ha, hb, hc]

/-- An event raised in all three event words is set in each, and nothing else of them changes. -/
theorem State.raiseAll_event (s : State) (e : Event) (p : Port) :
    (s.raiseAll e).pageWord p 51 = s.pageWord p 51 ||| e.mask := by
  cases p <;> simp [State.raiseAll, State.pageWord, base, Mem.read_write]

theorem State.raise_read (s : State) (p : Port) (e : Event) (a : Nat) (h : a ≠ base p + 51) :
    (s.raise p e).xm.read a = s.xm.read a := by simp [Mem.read_write, h]

theorem Event.mask_bit (e : Event) : e.mask.getLsbD e.bit = true := by cases e <;> rfl

/-- A raised event is set (R186). -/
theorem State.raiseAll_has (s : State) (e : Event) (p : Port) : (s.raiseAll e).hasEvent p e := by
  simp [State.hasEvent, State.raiseAll_event, BitVec.getLsbD_or, Event.mask_bit]

theorem State.raise_has (s : State) (p : Port) (e : Event) : (s.raise p e).hasEvent p e := by
  simp [State.hasEvent, State.pageWord, BitVec.getLsbD_or, Event.mask_bit]

/-! ## Current read-aheads (R176) -/

/-- Any write of exchange memory leaves every read-ahead current. -/
theorem State.onXm_current (s : State) (f : Mem 16 → Mem 16) : (s.onXm f).aheadCurrent := by
  intro p e he
  simp only [State.onXm, PerPort.get_mapWith, List.mem_map] at he
  obtain ⟨x, _, rfl⟩ := he
  rfl

/-- A state with the same exchange memory and the same read-aheads is current with it. -/
theorem State.current_of_same {s t : State} (h : s.aheadCurrent) (hx : t.xm = s.xm)
    (hp : ∀ p, (t.ports.get p).readAhead = (s.ports.get p).readAhead) : t.aheadCurrent := by
  intro p e he
  rw [hx]; rw [hp] at he
  exact h p e he

end Sys2Proof.Machine
end

