-- ==== Sys2Proof/Laws/Settle.lean ====
section
/-!
SUPPORT. Laws/Settle.lean: what the end of a step can do: publication changes exchange memory in the status region and
nothing else, and a step without messages is its act and a publication.
-/
namespace Sys2Proof.Machine

/-! ## Records -/

theorem padTo_length (n : Nat) (ws : List Nat) : (padTo n ws).length = n := by simp [padTo]

theorem counters_words (v : Vector Nat 29) : (v.toList.flatMap words2).length = 58 := by
  have : ∀ l : List Nat, (l.flatMap words2).length = 2 * l.length := by
    intro l
    induction l with
    | nil => rfl
    | cons a t ih => simp [words2, ih]; omega
  simp [this]

theorem policyWords_length (e : AlertEngine) : (policyWords e).length = 20 := by simp [policyWords, words2]

/-- A record's content fills the words between its two counts (chapter 11). -/
theorem State.content_length (s : State) (r : RecordId) : (s.content r).length + 2 = r.size := by
  cases r with
  | deck d => simp [State.content, deckWords, words2, RecordId.size]
  | clip c => simp [State.content, clipWords, words2, RecordId.size]
  | line k => simp [State.content, lineWords, lineKey, RecordId.size]
  | airMap => simp [State.content, airWords, allSources, allLines, sourceWords, RecordId.size]
  | storeSummary => simp [State.content, summaryWords, RecordId.size]
  | callerQueue => simp [State.content, callerWords, padTo_length, RecordId.size]
  | lineSummary => simp [State.content, lineSummaryWords, callersKey, SlotMap.words, allLines, RecordId.size]
  | alertEngine => simp [State.content, engineWords, policyWords_length, words2, RecordId.size]
  | alertQueue => simp [State.content, alertQueueWords, padTo_length, RecordId.size]
  | alertHistory => simp [State.content, historyWords, padTo_length, RecordId.size]
  | meters => simp [State.content, meterWords, words2, RecordId.size]
  | deadAir => simp [State.content, deadAirWords, words2, RecordId.size]
  | link => simp [State.content, linkWords, padTo_length, RecordId.size]
  | siteStatus => simp [State.content, siteWords, RecordId.size]
  | lamps => simp [State.content, lampWords, RecordId.size]
  | counters =>
    have := counters_words s.counters
    simp only [State.content, RecordId.size]
    omega

theorem RecordId.place_low (r : RecordId) : Config.statusBase ≤ r.place := by
  simp [RecordId.place]

/-! ## Rewriting -/

/-- A rewrite leaves every word below the status region. -/
theorem State.rewrite_read_low (s : State) (r : RecordId) (a : Nat) (h : a < Config.statusBase) :
    (s.rewrite r).xm.read a = s.xm.read a := by
  unfold State.rewrite
  simp only [State.xmWriteBlock_xm]
  exact Mem.read_writeBlock_other _ _ (.inl (lt_of_lt_of_le h r.place_low))

/-- A rewrite leaves every word outside its record. -/
theorem State.rewrite_read_other (s : State) (r : RecordId) (a : Nat) (h : a < r.place ∨ r.place + r.size ≤ a) :
    (s.rewrite r).xm.read a = s.xm.read a := by
  have hl := s.content_length r
  unfold State.rewrite
  simp only [State.xmWriteBlock_xm]
  apply Mem.read_writeBlock_other
  simp only [List.length_append, List.length_map, List.length_cons, List.length_nil]
  omega

/-- A rewrite's leading and trailing counts are the old count and one (R188). -/
theorem State.rewrite_counts (s : State) (r : RecordId) :
    (s.rewrite r).xm.read r.place = s.xm.read r.place + 1 ∧
      (s.rewrite r).xm.read (r.place + r.size - 1) = s.xm.read r.place + 1 := by
  have hl := s.content_length r
  unfold State.rewrite
  simp only [State.xmWriteBlock_xm, Mem.read_writeBlock, List.length_append, List.length_map, List.length_cons,
    List.length_nil]
  constructor
  · rw [if_pos (by omega)]; simp
  · rw [if_pos (by omega)]
    have : r.place + r.size - 1 - r.place = (s.content r).length + 1 := by omega
    rw [this]
    simp [List.getD]

/-- A rewrite's content words are the record's content (R188). -/
theorem State.rewrite_content (s : State) (r : RecordId) (i : Nat) (h : i < (s.content r).length) :
    (s.rewrite r).xm.read (r.place + 1 + i) = word ((s.content r).getD i 0) := by
  unfold State.rewrite
  simp only [State.xmWriteBlock_xm, Mem.read_writeBlock, List.length_append, List.length_map, List.length_cons,
    List.length_nil]
  rw [if_pos (by omega)]
  have : r.place + 1 + i - r.place = i + 1 := by omega
  rw [this]
  simp [List.getD, List.getElem?_append, h]

@[simp] theorem State.rewrite_pending (s : State) (r : RecordId) : (s.rewrite r).pending = s.pending := rfl
@[simp] theorem State.rewrite_clock (s : State) (r : RecordId) : (s.rewrite r).clock = s.clock := rfl
@[simp] theorem State.rewrite_sdram (s : State) (r : RecordId) : (s.rewrite r).sdram = s.sdram := rfl
@[simp] theorem State.rewrite_air (s : State) (r : RecordId) : (s.rewrite r).air = s.air := rfl
@[simp] theorem State.rewrite_mixer (s : State) (r : RecordId) : (s.rewrite r).mixer = s.mixer := rfl
@[simp] theorem State.rewrite_clips (s : State) (r : RecordId) : (s.rewrite r).clips = s.clips := rfl
@[simp] theorem State.rewrite_arbiter (s : State) (r : RecordId) : (s.rewrite r).arbiter = s.arbiter := rfl
@[simp] theorem State.rewrite_decks (s : State) (r : RecordId) : (s.rewrite r).decks = s.decks := rfl
@[simp] theorem State.rewrite_highway (s : State) (r : RecordId) : (s.rewrite r).highway = s.highway := rfl
@[simp] theorem State.rewrite_lines (s : State) (r : RecordId) : (s.rewrite r).lines = s.lines := rfl
@[simp] theorem State.rewrite_alert (s : State) (r : RecordId) : (s.rewrite r).alert = s.alert := rfl
@[simp] theorem State.rewrite_deadAir (s : State) (r : RecordId) : (s.rewrite r).deadAir = s.deadAir := rfl
@[simp] theorem State.rewrite_link (s : State) (r : RecordId) : (s.rewrite r).link = s.link := rfl
@[simp] theorem State.rewrite_lamps (s : State) (r : RecordId) : (s.rewrite r).lamps = s.lamps := rfl
@[simp] theorem State.rewrite_counters (s : State) (r : RecordId) : (s.rewrite r).counters = s.counters := rfl
@[simp] theorem State.rewrite_messages (s : State) (r : RecordId) : (s.rewrite r).messages = s.messages := rfl
@[simp] theorem State.rewrite_airAnswer (s : State) (r : RecordId) : (s.rewrite r).airAnswer = s.airAnswer := rfl
@[simp] theorem State.rewrite_unstated (s : State) (r : RecordId) : (s.rewrite r).unstated = s.unstated := rfl

/-- What no rewrite changes, no list of rewrites changes. -/
theorem State.rewrites_frame {α : Type} (g : State → α) (h : ∀ s r, g (State.rewrite s r) = g s) (rs : List RecordId)
    (s : State) : g (rs.foldl State.rewrite s) = g s := by
  induction rs generalizing s with
  | nil => rfl
  | cons r t ih => simp [ih, h]

/-- What every rewrite keeps, every list of rewrites keeps. -/
theorem State.rewrites_keep (P : State → Prop) (h : ∀ s r, P s → P (State.rewrite s r)) (rs : List RecordId) (s : State)
    (hs : P s) : P (rs.foldl State.rewrite s) := by
  induction rs generalizing s with
  | nil => exact hs
  | cons r t ih => exact ih _ (h _ _ hs)

/-! ## Publication (R188) -/

@[simp] theorem State.publish_pending (s : State) : (s.publish).pending = s.pending :=
  State.rewrites_frame State.pending (fun _ _ => rfl) (s.forced) s
@[simp] theorem State.publish_clock (s : State) : (s.publish).clock = s.clock :=
  State.rewrites_frame State.clock (fun _ _ => rfl) (s.forced) s
@[simp] theorem State.publish_sdram (s : State) : (s.publish).sdram = s.sdram :=
  State.rewrites_frame State.sdram (fun _ _ => rfl) (s.forced) s
@[simp] theorem State.publish_air (s : State) : (s.publish).air = s.air :=
  State.rewrites_frame State.air (fun _ _ => rfl) (s.forced) s
@[simp] theorem State.publish_mixer (s : State) : (s.publish).mixer = s.mixer :=
  State.rewrites_frame State.mixer (fun _ _ => rfl) (s.forced) s
@[simp] theorem State.publish_clips (s : State) : (s.publish).clips = s.clips :=
  State.rewrites_frame State.clips (fun _ _ => rfl) (s.forced) s
@[simp] theorem State.publish_arbiter (s : State) : (s.publish).arbiter = s.arbiter :=
  State.rewrites_frame State.arbiter (fun _ _ => rfl) (s.forced) s
@[simp] theorem State.publish_decks (s : State) : (s.publish).decks = s.decks :=
  State.rewrites_frame State.decks (fun _ _ => rfl) (s.forced) s
@[simp] theorem State.publish_highway (s : State) : (s.publish).highway = s.highway :=
  State.rewrites_frame State.highway (fun _ _ => rfl) (s.forced) s
@[simp] theorem State.publish_lines (s : State) : (s.publish).lines = s.lines :=
  State.rewrites_frame State.lines (fun _ _ => rfl) (s.forced) s
@[simp] theorem State.publish_alert (s : State) : (s.publish).alert = s.alert :=
  State.rewrites_frame State.alert (fun _ _ => rfl) (s.forced) s
@[simp] theorem State.publish_deadAir (s : State) : (s.publish).deadAir = s.deadAir :=
  State.rewrites_frame State.deadAir (fun _ _ => rfl) (s.forced) s
@[simp] theorem State.publish_link (s : State) : (s.publish).link = s.link :=
  State.rewrites_frame State.link (fun _ _ => rfl) (s.forced) s
@[simp] theorem State.publish_lamps (s : State) : (s.publish).lamps = s.lamps :=
  State.rewrites_frame State.lamps (fun _ _ => rfl) (s.forced) s
@[simp] theorem State.publish_counters (s : State) : (s.publish).counters = s.counters :=
  State.rewrites_frame State.counters (fun _ _ => rfl) (s.forced) s
@[simp] theorem State.publish_messages (s : State) : (s.publish).messages = s.messages :=
  State.rewrites_frame State.messages (fun _ _ => rfl) (s.forced) s
@[simp] theorem State.publish_airAnswer (s : State) : (s.publish).airAnswer = s.airAnswer :=
  State.rewrites_frame State.airAnswer (fun _ _ => rfl) (s.forced) s
@[simp] theorem State.publish_unstated (s : State) : (s.publish).unstated = s.unstated :=
  State.rewrites_frame State.unstated (fun _ _ => rfl) (s.forced) s
@[simp] theorem State.publish_forced (s : State) : (s.publish).forced = [] := rfl

/-- Publication changes no block. -/
@[simp] theorem State.publish_blocks (s : State) : (s.publish).blocks = s.blocks :=
  State.rewrites_frame State.blocks (fun _ _ => rfl) (s.forced) s

/-- Publication leaves every word below the status region. -/
theorem State.publish_read_low (s : State) (a : Nat) (h : a < Config.statusBase) :
    (s.publish).xm.read a = s.xm.read a :=
  State.rewrites_frame (fun s => s.xm.read a) (fun s r => s.rewrite_read_low r a h) (s.forced) s

theorem statusBase_eq : Config.statusBase = 12288 := rfl

/-- Publication leaves every mailbox page. -/
@[simp] theorem State.publish_page (s : State) (p : Port) (n : Nat) (h : n < 64) :
    (s.publish).pageWord p n = s.pageWord p n := by
  apply State.publish_read_low
  have := base_lt p
  rw [statusBase_eq]
  omega

/-- Publication changes a port's read-ahead at most. -/
@[simp] theorem State.publish_bare (s : State) (p : Port) :
    ((s.publish).ports.get p).bare = (s.ports.get p).bare :=
  State.rewrites_frame (fun s => (s.ports.get p).bare) (fun s r => by simp) (s.forced) s

@[simp] theorem State.publish_port_pointer (s : State) (p : Port) :
    ((s.publish).ports.get p).pointer = (s.ports.get p).pointer :=
  State.rewrites_frame (fun s => (s.ports.get p).pointer) (fun s r => by simp) (s.forced) s
@[simp] theorem State.publish_port_cursor (s : State) (p : Port) :
    ((s.publish).ports.get p).cursor = (s.ports.get p).cursor :=
  State.rewrites_frame (fun s => (s.ports.get p).cursor) (fun s r => by simp) (s.forced) s
@[simp] theorem State.publish_port_wordsRead (s : State) (p : Port) :
    ((s.publish).ports.get p).wordsRead = (s.ports.get p).wordsRead :=
  State.rewrites_frame (fun s => (s.ports.get p).wordsRead) (fun s r => by simp) (s.forced) s
@[simp] theorem State.publish_port_partialPair (s : State) (p : Port) :
    ((s.publish).ports.get p).partialPair = (s.ports.get p).partialPair :=
  State.rewrites_frame (fun s => (s.ports.get p).partialPair) (fun s r => by simp) (s.forced) s
@[simp] theorem State.publish_port_writeBuffer (s : State) (p : Port) :
    ((s.publish).ports.get p).writeBuffer = (s.ports.get p).writeBuffer :=
  State.rewrites_frame (fun s => (s.ports.get p).writeBuffer) (fun s r => by simp) (s.forced) s
@[simp] theorem State.publish_port_clipAhead (s : State) (p : Port) :
    ((s.publish).ports.get p).clipAhead = (s.ports.get p).clipAhead :=
  State.rewrites_frame (fun s => (s.ports.get p).clipAhead) (fun s r => by simp) (s.forced) s
@[simp] theorem State.publish_port_fetching (s : State) (p : Port) :
    ((s.publish).ports.get p).fetching = (s.ports.get p).fetching :=
  State.rewrites_frame (fun s => (s.ports.get p).fetching) (fun s r => by simp) (s.forced) s
@[simp] theorem State.publish_port_fetchOffset (s : State) (p : Port) :
    ((s.publish).ports.get p).fetchOffset = (s.ports.get p).fetchOffset :=
  State.rewrites_frame (fun s => (s.ports.get p).fetchOffset) (fun s r => by simp) (s.forced) s
@[simp] theorem State.publish_port_wait (s : State) (p : Port) :
    ((s.publish).ports.get p).wait = (s.ports.get p).wait :=
  State.rewrites_frame (fun s => (s.ports.get p).wait) (fun s r => by simp) (s.forced) s
@[simp] theorem State.publish_port_readData (s : State) (p : Port) :
    ((s.publish).ports.get p).readData = (s.ports.get p).readData :=
  State.rewrites_frame (fun s => (s.ports.get p).readData) (fun s r => by simp) (s.forced) s
@[simp] theorem State.publish_port_running (s : State) (p : Port) :
    ((s.publish).ports.get p).running = (s.ports.get p).running :=
  State.rewrites_frame (fun s => (s.ports.get p).running) (fun s r => by simp) (s.forced) s
@[simp] theorem State.publish_port_sealing (s : State) (p : Port) :
    ((s.publish).ports.get p).sealing = (s.ports.get p).sealing :=
  State.rewrites_frame (fun s => (s.ports.get p).sealing) (fun s r => by simp) (s.forced) s

/-! ## Messages -/

theorem State.drainMessages_nil (n : Nat) (s : State) (h : s.messages = []) : s.drainMessages n = s := by
  cases n with
  | zero => rfl
  | succ n => simp [State.drainMessages, h]

/-- One message delivered, then the rest. -/
theorem State.drainMessages_cons (n : Nat) (s : State) (m : Message) (t : List Message) (h : s.messages = m :: t) :
    s.drainMessages (n + 1) = (({ s with messages := t } : State).deliver m).drainMessages n := by
  simp [State.drainMessages, h]

/-- With no message, nothing is delivered. -/
theorem State.drain_nil (s : State) (h : s.messages = []) : s.drain = s := by
  unfold State.drain
  rw [State.drainMessages_nil _ _ h, ← h]

@[simp] theorem State.drain_messages (s : State) : s.drain.messages = [] := rfl

/-! ## The ends of a step -/

/-- A step that sends no message ends in a publication. -/
theorem State.settle_plain (s : State) (hm : s.messages = []) : s.settle = s.publish := by
  simp [State.settle, State.drain_nil s hm]

/-- Every settled state is one between steps. -/
theorem State.settle_quiet (s : State) : s.settle.quiet := by
  refine ⟨?_, rfl⟩
  simp [State.settle]

/-- A source whose ramp has not reached its length is left alone. -/
theorem State.endRamp_settled (s : State) (src : Source) (h : (s.air.sources.get src).ramp.atEnd = false) :
    s.endRamp src = s := by simp [State.endRamp, h]

/-- With every ended ramp settled and every notice delivered, an act finds the state as it is (R5, R12). -/
theorem State.landed_settled (s : State) (hm : s.messages = []) (hr : s.rampsSettled) : s.landed = s := by
  have h : ∀ l : List Source, l.foldl State.endRamp s = s := by
    intro l
    induction l with
    | nil => rfl
    | cons a t ih => rw [List.foldl_cons, s.endRamp_settled a (hr a), ih]
  rw [State.landed, h, State.drain_nil _ hm]

@[simp] theorem State.landed_messages (s : State) : s.landed.messages = [] := rfl

/-- A deck that owes nothing makes no lookahead. -/
theorem State.makeLookahead_owes (s : State) (d : DeckId) (h : (s.decks.get d).owes = false) : s.makeLookahead d = s := by
  simp only [DeckRec.owes, Bool.or_eq_false_iff] at h
  simp [State.makeLookahead, h.1.1.1.1]
/-- A deck that owes nothing is not at the end of priming. -/
theorem State.deckPrimed_owes (s : State) (d : DeckId) (h : (s.decks.get d).owes = false) : s.deckPrimed d = s := by
  simp only [DeckRec.owes, Bool.or_eq_false_iff] at h
  simp [State.deckPrimed, h.1.1.1.2]
/-- A deck that owes nothing has no fade-out point to act on. -/
theorem State.fadeOutPoint_owes (s : State) (d : DeckId) (h : (s.decks.get d).owes = false) : s.fadeOutPoint d = s := by
  simp only [DeckRec.owes, Bool.or_eq_false_iff] at h
  simp [State.fadeOutPoint, h.1.1.2]
/-- A deck that owes nothing has no segue point to act on. -/
theorem State.seguePoint_owes (s : State) (d : DeckId) (h : (s.decks.get d).owes = false) : s.seguePoint d = s := by
  simp only [DeckRec.owes, Bool.or_eq_false_iff] at h
  simp [State.seguePoint, h.1.2]
/-- A deck that owes nothing has no cue to end. -/
theorem State.endCue_owes (s : State) (d : DeckId) (h : (s.decks.get d).owes = false) : s.endCue d = s := by
  simp only [DeckRec.owes, Bool.or_eq_false_iff] at h
  simp [State.endCue, h.2]

/-- Acts that leave a state without messages as it is leave it so one after another. -/
theorem State.acts_same (s : State) (l : List (State → State)) (hm : s.messages = []) (h : ∀ f ∈ l, f s = s) :
    s.acts l = s := by
  induction l with
  | nil => rfl
  | cons f t ih =>
    rw [State.acts, List.foldl_cons, h f (by simp), State.drain_nil _ hm]
    exact ih fun g hg => h g (by simp [hg])

/-- What a deck owes changes nothing where it owes nothing. -/
theorem deckActions_owes (s : State) (d : DeckId) (h : (s.decks.get d).owes = false) : ∀ f ∈ deckActions d, f s = s := by
  simp [deckActions, s.makeLookahead_owes d h, s.deckPrimed_owes d h, s.fadeOutPoint_owes d h, s.seguePoint_owes d h,
    s.endCue_owes d h]

/-- With nothing owed by the decks, the end of a message finds the state as it is (R5, R84). -/
theorem State.decksFound_same (s : State) (hm : s.messages = []) (h : s.decksSettled) : s.decksFound = s := by
  rw [State.decksFound, s.landed_settled hm h.1]
  refine s.acts_same _ hm fun f hf => ?_
  rcases List.mem_append.1 hf with hf | hf
  · exact deckActions_owes s .d1 h.2.1 f hf
  · exact deckActions_owes s .d2 h.2.2 f hf

/-- With nothing owed, an act finds the state as it is (R5, R84, R133). -/
theorem State.found_same (s : State) (hm : s.messages = []) (h : s.nothingOwed) : s.found = s := by
  simp [State.found, s.decksFound_same hm h.1, h.2]

/-- With a message to end, an act finds it ended, its notices delivered, and what the decks then owe acted on (R130, R133). -/
theorem State.found_ending (s : State) (hm : s.messages = []) (h : s.decksSettled) (he : s.alert.messageOwed = true) :
    s.found = s.messageOver.drain.acts (deckActions .d1 ++ deckActions .d2) := by
  simp [State.found, s.decksFound_same hm h, he, State.acts]

theorem State.released_running (s : State) (f : State → State) (h : s.clock.power = .running) :
    s.released f = f s := by simp [State.released, h]

/-- In a running part between steps an act is made and the step ended. -/
theorem State.act_runs (s : State) (f : State → State) (h : s.runs) : s.act f = (f s).settle := by
  rw [State.act, s.released_running _ h.1, s.found_same h.2.1.1 h.2.2]

/-- A part that runs with nothing owed runs, also where decks may owe, or a message has still to end. -/
theorem State.runs.owing {s : State} (h : s.runs) : s.runsOwing := ⟨h.1, h.2.1, h.2.2.1.1⟩
theorem State.runs.ending {s : State} (h : s.runs) : s.runsEnding := ⟨h.1, h.2.1, h.2.2.1⟩

/-- In a running part between steps with nothing owed by the decks, a message ends by its row and the step ends. -/
theorem State.messageAct_runs (s : State) (f : State → State) (h : s.runsEnding) : s.messageAct f = (f s).settle := by
  rw [State.messageAct, s.released_running _ h.1, s.decksFound_same h.2.1.1 h.2.2]

/-- In a running part between steps with every ended ramp settled, a deck acts on its point and the step ends. -/
theorem State.deckAct_runs (s : State) (f : State → State) (h : s.runsOwing) : s.deckAct f = (f s).settle := by
  rw [State.deckAct, s.released_running _ h.1, s.landed_settled h.2.1.1 h.2.2]

/-- While RESET_N is asserted nothing happens (R189). -/
theorem State.act_reset (s : State) (f : State → State) (h : s.clock.power = .reset) : s.act f = s := by
  simp [State.act, State.released, h]

theorem State.released_reset (s : State) (f : State → State) (h : s.clock.power = .reset) : s.released f = s := by
  simp [State.released, h]

end Sys2Proof.Machine
end

