-- ==== Sys2Proof/Laws/Mailbox.lean ====
section
/-!
SUPPORT. Laws/Mailbox.lean: what issuing a command does (R181 to R183): the parameter copy, the take, the answer, and the
whole step for a command that sends no message.
-/
namespace Sys2Proof.Machine

/-! ## The parameter copy (R181, R200) -/

/-- The state in which an accepted command runs: parameters written, value taken, parameters copied. -/
def State.issuedTo (s : State) (p : Port) (c : Command) (params : List Word) : State :=
  let s := s.xmWriteBlock (base p + 1) (params.take 24)
  s.taken p c.code (s.xm.readBlock (base p + 1) 24)

/-- The parameter copy of an accepted command. -/
def State.copyOf (s : State) (p : Port) (params : List Word) : List Word :=
  (s.xmWriteBlock (base p + 1) (params.take 24)).xm.readBlock (base p + 1) 24

theorem State.copyOf_getD (s : State) (p : Port) (params : List Word) (i : Nat) (hl : params.length ≤ 24)
    (hi : i < params.length) : (s.copyOf p params).getD i 0 = params.getD i 0 := by
  unfold State.copyOf
  rw [Mem.readBlock_getD _ _ _ _ (by omega), State.xmWriteBlock_xm, Mem.read_writeBlock,
    List.take_of_length_le (by omega), if_pos (by omega)]
  congr 1
  omega

/-- A parameter word of the copy is the word that was issued (R200). -/
theorem State.par_copyOf (s : State) (p : Port) (params : List Word) (n : Nat) (hl : params.length ≤ 24) (h1 : 1 ≤ n)
    (hn : n ≤ params.length) : par (s.copyOf p params) n = (params.getD (n - 1) 0).toNat := by
  unfold par
  rw [State.copyOf_getD _ _ _ _ hl (by omega)]

/-- The two words of a long parameter join to its value (R200). -/
theorem joined_longWords (v : Long) :
    (v.extractLsb' 16 16).toNat * 65536 + (v.extractLsb' 0 16).toNat = v.toNat := by
  simp [BitVec.extractLsb'_toNat, Nat.shiftRight_eq_div_pow]
  omega

theorem commandOf_code (c : Command) : commandOf c.code = some c := by cases c <;> rfl

/-! ## The take (R181) -/

@[simp] theorem State.blocks_taken (s : State) (p : Port) (v : Word) (ws : List Word) :
    (s.taken p v ws).blocks = s.blocks := rfl
@[simp] theorem State.blocks_issuedTo (s : State) (p : Port) (c : Command) (params : List Word) :
    (s.issuedTo p c params).blocks = s.blocks := rfl
@[simp] theorem State.forced_issuedTo (s : State) (p : Port) (c : Command) (params : List Word) :
    (s.issuedTo p c params).forced = s.forced := rfl

/-- A word of exchange memory after the take: BUSY, the value, the parameters, else as before. -/
theorem State.issuedTo_read (s : State) (p : Port) (c : Command) (params : List Word) (a : Nat) (h : ¬ ownPage p a) :
    (s.issuedTo p c params).xm.read a = s.xm.read a := by
  unfold ownPage at h
  simp only [State.issuedTo, State.taken, State.onPort_xm, State.xmWrite_xm, State.xmWriteBlock_xm]
  rw [Mem.read_write_other _ _ (by omega), Mem.read_write_other _ _ (by omega), Mem.read_writeBlock_other]
  have : (params.take 24).length ≤ 24 := by simp
  omega

@[simp] theorem State.issuedTo_page53 (s : State) (p : Port) (c : Command) (params : List Word) :
    (s.issuedTo p c params).pageWord p 53 = c.code := by
  simp [State.issuedTo, State.taken, State.pageWord]

@[simp] theorem State.issuedTo_page0 (s : State) (p : Port) (c : Command) (params : List Word) :
    (s.issuedTo p c params).pageWord p 0 = busyWord := by
  simp [State.issuedTo, State.taken, State.pageWord, Mem.read_write]

@[simp] theorem State.issuedTo_running (s : State) (p : Port) (c : Command) (params : List Word) :
    ((s.issuedTo p c params).ports.get p).running = some ⟨c.code, s.copyOf p params, (s.ports.get p).writeBuffer.length⟩ := by
  simp [State.issuedTo, State.taken, State.copyOf]

theorem State.issuedTo_bare (s : State) (p q : Port) (c : Command) (params : List Word) :
    ((s.issuedTo p c params).ports.get q).bare =
      if q = p then { (s.ports.get p).bare with running := some ⟨c.code, s.copyOf p params, (s.ports.get p).writeBuffer.length⟩ }
      else (s.ports.get q).bare := by
  simp only [State.issuedTo, State.taken, State.onPort_port]
  split
  · rename_i h; subst h; cases q <;> rfl
  · simp

/-- An accepted, permitted command runs on the state with the take made, and is answered (R181 to R183). -/
theorem State.issue_accepted (s : State) (p : Port) (c : Command) (params : List Word) (h : s.accepts p)
    (hp : c.permits p = true) :
    s.issue p c params =
      (((s.issuedTo p c params).runCommand p c (s.copyOf p params)).1).answer p
        ((s.issuedTo p c params).runCommand p c (s.copyOf p params)).2 := by
  obtain ⟨⟨hpow, _⟩, hw, hr⟩ := h
  simp [State.issue, State.access, hw, State.commandWordWrite, hpow, hr, State.takeCommand, State.judgeCommand,
    commandOf_code, hp, State.issuedTo, State.copyOf]

/-- An accepted command that the port may not issue is refused with NOT_PERMITTED (R182). -/
theorem State.issue_forbidden (s : State) (p : Port) (c : Command) (params : List Word) (h : s.accepts p)
    (hp : c.permits p = false) :
    s.issue p c params = (s.issuedTo p c params).answer p (.refused .notPermitted) := by
  obtain ⟨⟨hpow, _⟩, hw, hr⟩ := h
  simp [State.issue, State.access, hw, State.commandWordWrite, hpow, hr, State.takeCommand, State.judgeCommand,
    commandOf_code, hp, State.issuedTo]

/-! ## The answer (R183) -/

@[simp] theorem State.blocks_answer (s : State) (p : Port) (r : Reply) : (s.answer p r).blocks = s.blocks := by
  cases r <;> rfl
@[simp] theorem State.forced_answer (s : State) (p : Port) (r : Reply) : (s.answer p r).forced = s.forced := by
  cases r <;> rfl
@[simp] theorem State.messages_answer (s : State) (p : Port) (r : Reply) : (s.answer p r).messages = s.messages := by
  cases r <;> rfl
@[simp] theorem State.link_answer (s : State) (p : Port) (r : Reply) : (s.answer p r).link = s.link := by
  cases r <;> rfl

theorem State.answer_read (s : State) (p : Port) (r : Reply) (a : Nat) (h : ¬ ownPage p a) :
    (s.answer p r).xm.read a = s.xm.read a := by
  unfold ownPage at h
  cases r with
  | later => rfl
  | done ws =>
    simp only [State.answer, State.onPort_xm, State.xmWrite_xm, State.xmWriteBlock_xm]
    rw [Mem.read_write_other _ _ (by omega), Mem.read_writeBlock_other]
    simp only [List.length_append, List.length_take, List.length_map, List.length_replicate, List.length_cons,
      List.length_nil]
    omega
  | refused e =>
    simp only [State.answer, State.onPort_xm, State.xmWrite_xm, State.xmWriteBlock_xm]
    rw [Mem.read_write_other _ _ (by omega), Mem.read_writeBlock_other]
    simp only [List.length_append, List.length_replicate, List.length_cons, List.length_nil]
    omega

theorem State.answer_bare (s : State) (p q : Port) (r : Reply) (h : r ≠ .later) :
    ((s.answer p r).ports.get q).bare =
      if q = p then { (s.ports.get p).bare with running := none } else (s.ports.get q).bare := by
  cases r with
  | later => exact absurd rfl h
  | done ws =>
    simp only [State.answer, State.onPort_port]
    split
    · rename_i h; subst h; cases q <;> rfl
    · simp
  | refused e =>
    simp only [State.answer, State.onPort_port]
    split
    · rename_i h; subst h; cases q <;> rfl
    · simp

/-- The result words of an answer: the results, then zeros. -/
theorem results_getD (rs : List Nat) (i : Nat) (hi : i < 24) :
    ((rs.map word ++ List.replicate 24 0).take 24 ++ [0, 0]).getD i 0 = word (rs.getD i 0) := by
  have hlen : i < ((rs.map word ++ List.replicate 24 0).take 24).length := by
    simp only [List.length_take, List.length_append, List.length_map, List.length_replicate]
    omega
  rw [List.getD_append _ _ _ _ hlen]
  simp only [List.getD, List.getElem?_take, hi, if_true]
  by_cases h' : i < rs.length
  · simp [-List.reduceReplicate, List.getElem?_append, h']
  · have h2 : i - rs.length < 24 := by omega
    simp [-List.reduceReplicate, List.getElem?_append, h', h2, word]

/-- A command answered DONE stands so in its page (R183). -/
theorem State.answer_done (s : State) (p : Port) (rs : List Nat) (code : Word) (h : s.pageWord p 53 = code) :
    (s.answer p (.done rs)).doneWith p code rs := by
  refine ⟨by simp [State.answer, State.pageWord], ?_, ?_, ?_, ?_, by simp [State.answer]⟩
  · simp [State.answer, State.pageWord, Mem.read_write, Mem.read_writeBlock, List.getD]
  · simp [State.answer, State.pageWord, Mem.read_write, Mem.read_writeBlock, List.getD]
  · rw [← h]
    simp [State.answer, State.pageWord, Mem.read_write, Mem.read_writeBlock]
  · intro i hi
    simp only [State.answer, State.pageWord, State.onPort_xm, State.xmWrite_xm, State.xmWriteBlock_xm]
    rw [Mem.read_write_other _ _ (by omega), Mem.read_writeBlock, if_pos (by simp; omega)]
    have e : base p + (25 + i) - (base p + 25) = i := by omega
    rw [e]
    exact results_getD rs i hi

/-- A command refused stands so in its page (R183). -/
theorem State.answer_refused (s : State) (p : Port) (e : Reason) (q : Running)
    (hq : (s.ports.get p).running = some q) (h : s.pageWord p 53 = q.value) :
    (s.answer p (.refused e)).refusedWith p q.value e := by
  refine ⟨by simp [State.answer, State.pageWord], ?_, ?_, ?_, ?_, by simp [State.answer]⟩
  · simp [State.answer, State.pageWord, Mem.read_write, Mem.read_writeBlock, List.getD]
  · simp [State.answer, State.pageWord, Mem.read_write, Mem.read_writeBlock, List.getD, hq]
  · rw [← h]
    simp [State.answer, State.pageWord, Mem.read_write, Mem.read_writeBlock]
  · intro i hi
    simp only [State.answer, State.pageWord, State.onPort_xm, State.xmWrite_xm, State.xmWriteBlock_xm]
    rw [Mem.read_write_other _ _ (by omega), Mem.read_writeBlock, if_pos (by simp; omega)]
    have e : base p + (25 + i) - (base p + 25) = i := by omega
    rw [e]
    simp [-List.reduceReplicate, List.getD, List.getElem?_append, hi]

/-! ## What the end of a step leaves of an answer -/

theorem State.doneWith_of_page {s t : State} {p : Port} {code : Word} {rs : List Nat} (h : s.doneWith p code rs)
    (hp : ∀ n < 64, t.pageWord p n = s.pageWord p n) (hr : (t.ports.get p).running = (s.ports.get p).running) :
    t.doneWith p code rs := by
  obtain ⟨h0, h1, h2, h3, h4, h5⟩ := h
  refine ⟨?_, ?_, ?_, ?_, ?_, ?_⟩
  · rw [hp _ (by omega), h0]
  · rw [hp _ (by omega), h1]
  · rw [hp _ (by omega), h2]
  · rw [hp _ (by omega), h3]
  · intro i hi; rw [hp _ (by omega), h4 i hi]
  · rw [hr, h5]

theorem State.refusedWith_of_page {s t : State} {p : Port} {v : Word} {e : Reason} (h : s.refusedWith p v e)
    (hp : ∀ n < 64, t.pageWord p n = s.pageWord p n) (hr : (t.ports.get p).running = (s.ports.get p).running) :
    t.refusedWith p v e := by
  obtain ⟨h0, h1, h2, h3, h4, h5⟩ := h
  refine ⟨?_, ?_, ?_, ?_, ?_, ?_⟩
  · rw [hp _ (by omega), h0]
  · rw [hp _ (by omega), h1]
  · rw [hp _ (by omega), h2]
  · rw [hp _ (by omega), h3]
  · intro i hi; rw [hp _ (by omega), h4 i hi]
  · rw [hr, h5]

theorem State.publish_doneWith {s : State} {p : Port} {code : Word} {rs : List Nat} (h : s.doneWith p code rs) :
    s.publish.doneWith p code rs :=
  State.doneWith_of_page h (fun n hn => s.publish_page p n hn) (by simp)

theorem State.publish_refusedWith {s : State} {p : Port} {v : Word} {e : Reason} (h : s.refusedWith p v e) :
    s.publish.refusedWith p v e :=
  State.refusedWith_of_page h (fun n hn => s.publish_page p n hn) (by simp)

/-! ## Which records a step rewrites -/

/-- Publication leaves every word outside the records whose rewrite is asked for. -/
theorem State.publish_read_other (s : State) (a : Nat) (h : ∀ r ∈ s.forced, ¬ inRecord r a) :
    s.publish.xm.read a = s.xm.read a := by
  unfold State.publish
  show (s.forced.foldl State.rewrite s).xm.read a = s.xm.read a
  generalize s.forced = rs at h
  induction rs generalizing s with
  | nil => rfl
  | cons r t ih =>
    rw [List.foldl_cons, ih _ fun x hx => h x (List.mem_cons_of_mem _ hx)]
    apply State.rewrite_read_other
    have := h r (List.mem_cons_self ..)
    unfold inRecord at this
    omega

/-! ## The whole step -/

theorem not_eventWord (p : Port) (n : Nat) (hn : n < 64) (h : n ≠ 51) : ¬ eventWord (base p + n) := by
  rintro ⟨q, hq⟩
  cases p <;> cases q <;> simp only [base] at hq <;> omega

theorem State.doneWith_of_words {s t : State} {p : Port} {code : Word} {rs : List Nat} (h : s.doneWith p code rs)
    (hp : ∀ a, ¬ eventWord a → t.xm.read a = s.xm.read a)
    (hr : (t.ports.get p).running = (s.ports.get p).running) : t.doneWith p code rs := by
  have hn : ∀ n, n < 64 → n ≠ 51 → t.pageWord p n = s.pageWord p n := fun n h1 h2 =>
    hp _ (not_eventWord p n h1 h2)
  obtain ⟨h0, h1, h2, h3, h4, h5⟩ := h
  refine ⟨?_, ?_, ?_, ?_, ?_, ?_⟩
  · rw [hn _ (by omega) (by omega), h0]
  · rw [hn _ (by omega) (by omega), h1]
  · rw [hn _ (by omega) (by omega), h2]
  · rw [hn _ (by omega) (by omega), h3]
  · intro i hi; rw [hn _ (by omega) (by omega), h4 i hi]
  · rw [hr, h5]

theorem PortState.running_of_bare {q r : PortState} (h : q.bare = r.bare) : q.running = r.running := by
  have : q.bare.running = r.bare.running := by rw [h]
  exact this

/-- The step of an accepted command that its block answers at once: what the block and the delivered messages leave is
published, the answer stands in the page, and exchange memory changes in the page, in event words and in the records that
are rewritten. -/
theorem State.answeredStep (s : State) (p : Port) (c : Command) (params : List Word) (s' v : State) (rs : List Nat)
    (h : s.accepts p) (hp : c.permits p = true)
    (hrun : (s.issuedTo p c params).runCommand p c (s.copyOf p params) = (s', .done rs))
    (hxm : ∀ a, ¬ eventWord a → s'.xm.read a = (s.issuedTo p c params).xm.read a)
    (hports : ∀ q, (s'.ports.get q).bare = ((s.issuedTo p c params).ports.get q).bare)
    (hv : (s'.answer p (.done rs)).drain = v)
    (hvx : ∀ a, ¬ eventWord a → v.xm.read a = (s'.answer p (.done rs)).xm.read a)
    (hvp : ∀ q, (v.ports.get q).bare = ((s'.answer p (.done rs)).ports.get q).bare) :
    ∃ t, s.act (fun s => s.issue p c params) = t ∧ t.blocks = v.blocks ∧ t.doneWith p c.code rs ∧ s.samePorts t ∧
      (∀ a < Config.statusBase, ¬ ownPage p a → ¬ eventWord a → t.xm.read a = s.xm.read a) ∧
      (∀ a, ¬ ownPage p a → ¬ eventWord a →
        (∀ r, inRecord r a → r ∉ v.forced) → t.xm.read a = s.xm.read a) ∧
      (∀ a < Config.statusBase, t.xm.read a = v.xm.read a) := by
  have hrun1 : (s.ports.get p).running = none := h.2.2
  refine ⟨_, rfl, ?_⟩
  rw [State.act_runs _ _ h.1, State.issue_accepted s p c params h hp, hrun]
  have hs : (s'.answer p (.done rs)).settle = v.publish := by rw [State.settle, hv]
  rw [hs]
  have hread : ∀ a, ¬ ownPage p a → ¬ eventWord a → v.xm.read a = s.xm.read a := fun a h1 h2 => by
    rw [hvx a h2, State.answer_read _ _ _ _ h1, hxm a h2, State.issuedTo_read _ _ _ _ _ h1]
  refine ⟨by simp, ?_, ?_, ?_, ?_, ?_⟩
  · apply State.publish_doneWith
    refine State.doneWith_of_words (s := s'.answer p (.done rs)) ?_ hvx (PortState.running_of_bare (hvp p))
    apply State.answer_done
    unfold State.pageWord
    rw [hxm _ (not_eventWord p 53 (by omega) (by omega))]
    exact s.issuedTo_page53 p c params
  · intro q
    rw [State.publish_bare, hvp, State.answer_bare _ _ _ _ (by simp), hports, hports, State.issuedTo_bare]
    by_cases hq : q = p
    · subst hq
      simp [PortState.bare, hrun1]
    · simp [hq, State.issuedTo_bare]
  · intro a ha h1 h2
    rw [State.publish_read_low _ _ ha, hread a h1 h2]
  · intro a h1 h2 h3
    rw [State.publish_read_other, hread a h1 h2]
    exact fun r hr hin => h3 r hin hr
  · intro a ha
    exact State.publish_read_low _ _ ha

/-- The step of an accepted command that its block answers at once, leaving exchange memory and the ports alone and
sending no message: the block's change, the answer in the page, and the records it changes. -/
theorem State.plainCommand (s : State) (p : Port) (c : Command) (params : List Word) (s' : State) (rs : List Nat)
    (w : Nat → Prop) (h : s.accepts p) (hp : c.permits p = true)
    (hrun : (s.issuedTo p c params).runCommand p c (s.copyOf p params) = (s', .done rs))
    (hxm : s'.xm = (s.issuedTo p c params).xm) (hports : s'.ports = (s.issuedTo p c params).ports)
    (hm : s'.messages = [])
    (hw : ∀ r a, inRecord r a → ¬ w a → r ∉ s'.forced) :
    ∃ t, s.act (fun s => s.issue p c params) = t ∧ s.doneOnly t p c.code rs s' w := by
  have hd : (s'.answer p (.done rs)).drain = s'.answer p (.done rs) := State.drain_nil _ (by simpa using hm)
  obtain ⟨t, ht, hb, h1, h2, _, h4, _⟩ := s.answeredStep p c params s' _ rs h hp hrun (fun a _ => by rw [hxm])
    (fun q => by rw [hports]) hd (fun _ _ => rfl) (fun _ => rfl)
  refine ⟨t, ht, by simpa using hb, h1, h2, fun a ha => ?_⟩
  simp only [not_or] at ha
  have hread : ∀ r, inRecord r a → r ∉ (s'.answer p (.done rs)).forced := fun r hr => by
    rw [State.forced_answer]; exact hw r a hr ha.2
  by_cases he : eventWord a
  · obtain ⟨t', ht', _, _, _, _, _, _⟩ := s.answeredStep p c params s' _ rs h hp hrun (fun a _ => by rw [hxm])
      (fun q => by rw [hports]) hd (fun _ _ => rfl) (fun _ => rfl)
    subst ht
    rw [State.act_runs _ _ h.1, State.issue_accepted s p c params h hp, hrun, State.settle, hd,
      State.publish_read_low, State.answer_read _ _ _ _ ha.1, hxm, State.issuedTo_read _ _ _ _ _ ha.1]
    obtain ⟨q, rfl⟩ := he
    have := base_lt q
    rw [statusBase_eq]; omega
  · exact h4 a ha.1 he hread

/-- The step of an accepted command that its block refuses, changing nothing: the reason in the page. -/
theorem State.plainRefusal (s : State) (p : Port) (c : Command) (params : List Word) (e : Reason) (h : s.accepts p)
    (hrun : s.issue p c params = (s.issuedTo p c params).answer p (.refused e)) :
    ∃ t, s.act (fun s => s.issue p c params) = t ∧ s.refusedOnly t p c.code e := by
  have hrun1 : (s.ports.get p).running = none := h.2.2
  have hfor : s.forced = [] := h.1.2.1.2
  refine ⟨_, rfl, ?_⟩
  rw [State.act_runs _ _ h.1, hrun]
  have hms : ((s.issuedTo p c params).answer p (.refused e)).messages = [] := h.1.2.1.1
  rw [State.settle_plain _ hms]
  refine ⟨by simp, ?_, ?_, ?_⟩
  · apply State.publish_refusedWith
    exact State.answer_refused _ p e ⟨c.code, s.copyOf p params, _⟩ (s.issuedTo_running p c params)
      (s.issuedTo_page53 p c params)
  · intro q
    rw [State.publish_bare, State.answer_bare _ _ _ _ (by simp), State.issuedTo_bare]
    by_cases hq : q = p
    · subst hq
      simp [PortState.bare, hrun1]
    · simp [hq, State.issuedTo_bare]
  · intro a ha
    rw [State.publish_read_other, State.answer_read _ _ _ _ ha, State.issuedTo_read _ _ _ _ _ ha]
    intro r hr hin
    rw [State.forced_answer, State.forced_issuedTo, hfor] at hr
    simp at hr

/-- The step of a running part whose act leaves the ports alone and, when messages are delivered, leads to `v`. -/
theorem State.settledAct (s : State) (f : State → State) (v : State) (w : Nat → Prop) (h : s.runs)
    (hv : (f s).drain = v) (hp : s.samePorts v) (hx : s.sameXmBut v w)
    (hw : ∀ r a, inRecord r a → ¬ w a → r ∉ v.forced) :
    ∃ t, s.act f = t ∧ s.changedTo t v w := by
  refine ⟨_, rfl, ?_⟩
  rw [State.act_runs _ _ h, State.settle, hv]
  refine ⟨by simp, fun q => by rw [State.publish_bare, hp], fun a ha => ?_⟩
  rw [State.publish_read_other, hx a ha]
  exact fun r hr hin => hw r a hin ha hr

/-- The step of a running part whose act sends no message. -/
theorem State.plainAct (s : State) (f : State → State) (w : Nat → Prop) (h : s.runs) (hm : (f s).messages = [])
    (hp : s.samePorts (f s)) (hx : s.sameXmBut (f s) w)
    (hw : ∀ r a, inRecord r a → ¬ w a → r ∉ (f s).forced) :
    ∃ t, s.act f = t ∧ s.changedTo t (f s) w :=
  s.settledAct f (f s) w h (State.drain_nil _ hm) hp hx hw

end Sys2Proof.Machine
end

