-- ==== Sys2Proof/Laws/Frames.lean ====
section
/-!
SUPPORT. Laws/Frames.lean: steps that send notices: which parts an operation may touch, what delivering a notice does when
no owner acts on it, and the whole step within a frame.
-/
namespace Sys2Proof.Machine

/-- Everything outside the parts named is as it was, exchange memory and the ports included, and every record it asks to
rewrite shows one of those parts. -/
structure State.Touches (ps : List Part) (s v : State) : Prop where
  keeps : ∀ x, x ∉ ps → s.keeps v x
  xm : v.xm = s.xm
  ports : v.ports = s.ports
  forced : ∀ r ∈ v.forced, r ∈ s.forced ∨ ∃ x ∈ r.parts, x ∈ ps

/-- An update that asks for no rewrite. -/
theorem State.Touches.plain {ps : List Part} {s v : State} (h : ∀ x, x ∉ ps → s.keeps v x) (hx : v.xm = s.xm)
    (hp : v.ports = s.ports) (hf : v.forced = s.forced) : State.Touches ps s v :=
  ⟨h, hx, hp, fun _ hr => .inl (hf ▸ hr)⟩

theorem State.touches_refl (ps : List Part) (s : State) : State.Touches ps s s :=
  .plain (fun x _ => by cases x <;> rfl) rfl rfl rfl

theorem State.keeps_trans {s t u : State} {x : Part} (h : s.keeps t x) (g : t.keeps u x) : s.keeps u x := by
  cases x <;> exact Eq.trans g h

theorem State.Touches.trans {ps : List Part} {s t u : State} (h : State.Touches ps s t) (g : State.Touches ps t u) :
    State.Touches ps s u :=
  ⟨fun x hx => State.keeps_trans (h.1 x hx) (g.1 x hx), g.2.trans h.2, g.3.trans h.3,
    fun r hr => (g.4 r hr).elim (h.4 r) .inr⟩

theorem State.Touches.mono {ps qs : List Part} {s t : State} (h : State.Touches ps s t) (hs : ∀ x ∈ ps, x ∈ qs) :
    State.Touches qs s t := ⟨fun x hx => h.1 x fun hp => hx (hs x hp), h.2, h.3,
    fun r hr => (h.4 r hr).imp id fun ⟨x, h1, h2⟩ => ⟨x, h1, hs x h2⟩⟩

/-- One part replaced. -/
theorem State.touches_decks (s : State) (x : PerDeck DeckRec) : State.Touches [.decks] s { s with decks := x } :=
  .plain (fun y hy => by cases y <;> first | rfl | simp at hy) rfl rfl rfl
theorem State.touches_lines (s : State) (x : LineControl) : State.Touches [.lines] s { s with lines := x } :=
  .plain (fun y hy => by cases y <;> first | rfl | simp at hy) rfl rfl rfl
theorem State.touches_air (s : State) (x : AirMap) : State.Touches [.air] s { s with air := x } :=
  .plain (fun y hy => by cases y <;> first | rfl | simp at hy) rfl rfl rfl
theorem State.touches_lamps (s : State) (x : LampDriver) : State.Touches [.lamps] s { s with lamps := x } :=
  .plain (fun y hy => by cases y <;> first | rfl | simp at hy) rfl rfl rfl
theorem State.touches_link (s : State) (x : Link) : State.Touches [.link] s { s with link := x } :=
  .plain (fun y hy => by cases y <;> first | rfl | simp at hy) rfl rfl rfl
theorem State.touches_counters (s : State) (x : Vector Nat 29) : State.Touches [.counters] s { s with counters := x } :=
  .plain (fun y hy => by cases y <;> first | rfl | simp at hy) rfl rfl rfl
theorem State.touches_deadAir (s : State) (x : DeadAir) : State.Touches [.deadAir] s { s with deadAir := x } :=
  .plain (fun y hy => by cases y <;> first | rfl | simp at hy) rfl rfl rfl
theorem State.touches_arbiter (s : State) (x : Arbiter) : State.Touches [.arbiter] s { s with arbiter := x } :=
  .plain (fun y hy => by cases y <;> first | rfl | simp at hy) rfl rfl rfl
theorem State.touches_clips (s : State) (x : ClipStore) : State.Touches [.clips] s { s with clips := x } :=
  .plain (fun y hy => by cases y <;> first | rfl | simp at hy) rfl rfl rfl
theorem State.touches_alert (s : State) (x : AlertEngine) : State.Touches [.alert] s { s with alert := x } :=
  .plain (fun y hy => by cases y <;> first | rfl | simp at hy) rfl rfl rfl
theorem State.touches_messages (s : State) (x : List Message) : State.Touches [] s { s with messages := x } :=
  .plain (fun y _ => by cases y <;> rfl) rfl rfl rfl
/-- Rewrites asked for of records that show the parts named. -/
theorem State.touches_force (s : State) (rs : List RecordId) (ps : List Part) (h : ∀ r ∈ rs, ∃ x ∈ r.parts, x ∈ ps) :
    State.Touches ps s (s.force rs) :=
  ⟨fun y _ => by cases y <;> rfl, rfl, rfl, fun r hr => (List.mem_append.mp hr).imp id fun hm =>
    h r (List.mem_of_mem_filter hm)⟩
/-- The rewrite a change asks for. -/
theorem State.touches_rewriteIf (s : State) (r : RecordId) (b a : List Nat) : State.Touches r.parts s (s.rewriteIf r b a) := by
  refine State.touches_force _ _ _ fun q hq => ?_
  split at hq
  · simp at hq
  · rw [List.mem_singleton] at hq
    subst hq
    cases q <;> exact ⟨_, List.mem_cons_self .., List.mem_cons_self ..⟩
/-- The updates of one part ask for the rewrites of records that show that part. -/
theorem State.onDeck_touches (s : State) (d : DeckId) (f : DeckRec → DeckRec) : State.Touches [.decks] s (s.onDeck d f) :=
  (s.touches_decks _).trans (State.touches_rewriteIf _ (.deck d) _ _)
theorem State.onLine_touches (s : State) (k : Line) (f : LineRec → LineRec) : State.Touches [.lines] s (s.onLine k f) :=
  (s.touches_lines _).trans (State.touches_rewriteIf _ (.line k) _ _)
theorem State.onDeadAir_touches (s : State) (f : DeadAir → DeadAir) : State.Touches [.deadAir] s (s.onDeadAir f) :=
  (s.touches_deadAir _).trans (State.touches_rewriteIf _ .deadAir _ _)
theorem State.onLamps_touches (s : State) (f : LampDriver → LampDriver) : State.Touches [.lamps] s (s.onLamps f) :=
  (s.touches_lamps _).trans (State.touches_rewriteIf _ .lamps _ _)
theorem State.onLink_touches (s : State) (f : Link → Link) : State.Touches [.link] s (s.onLink f) :=
  (s.touches_link _).trans (State.touches_rewriteIf _ .link _ _)
/-- A seat is noted: the slot map the line summary shows beside it stays. -/
theorem State.seat_touches (s : State) (k : Line) (b : Bool) : State.Touches [.lines] s (s.seat k b) := by
  refine (s.touches_lines _).trans (State.touches_force _ _ _ fun r hr => ?_)
  split at hr <;> simp_all [RecordId.parts]
theorem State.touches_tell (s : State) (x : List Message) : State.Touches [] s (s.tell x) := s.touches_messages _

/-! ## Studio values, lamps, frames offered -/

theorem State.lampInput_touches (s : State) (i : LampInput) : State.Touches [.lamps] s (s.lampInput i) :=
  s.onLamps_touches fun d => { inputs := d.inputs.take i, lamps := _ }
@[simp] theorem State.lampInput_link (s : State) (i : LampInput) : (s.lampInput i).link = s.link := rfl
@[simp] theorem State.lampInput_messages (s : State) (i : LampInput) : (s.lampInput i).messages = s.messages := rfl

theorem State.count_touches (s : State) (c : Counter) : State.Touches [.counters] s (s.count c) := s.touches_counters _
theorem State.look_touches (s : State) : State.Touches [.link] s s.look := s.onLink_touches _

/-- The transmitter's look leaves the studio values. -/
@[simp] theorem Link.transmit_studio (l : Link) : l.transmit.studio = l.studio := by
  unfold Link.transmit Link.choose
  split
  · split
    · rename_i h
      split at h
      · cases h; rfl
      · split at h
        · split at h
          · cases h; rfl
          · cases h
        · cases h
    · rfl
  · rfl

theorem State.offerPriority_touches (s : State) (f : Frame) : State.Touches [.link, .counters] s (s.offerPriority f) := by
  unfold State.offerPriority
  split
  · exact ((s.onLink_touches _).trans (State.look_touches _)).mono (by simp)
  · exact (s.count_touches _).mono (by simp)
@[simp] theorem State.offerPriority_messages (s : State) (f : Frame) : (s.offerPriority f).messages = s.messages := by
  unfold State.offerPriority; split <;> rfl
@[simp] theorem State.offerPriority_studio (s : State) (f : Frame) : (s.offerPriority f).link.studio = s.link.studio := by
  unfold State.offerPriority; split <;> simp
theorem State.formStatus_touches (s : State) : State.Touches [.link, .counters] s s.formStatus := by
  unfold State.formStatus
  split
  · exact ((s.onLink_touches _).mono (by simp)).trans (State.offerPriority_touches _ _)
  · exact s.touches_refl _
@[simp] theorem State.formStatus_messages (s : State) : s.formStatus.messages = s.messages := by
  unfold State.formStatus; split <;> simp
@[simp] theorem State.formStatus_studio (s : State) : s.formStatus.link.studio = s.link.studio := by
  unfold State.formStatus; split <;> simp [Link.form]
theorem State.studioChange_touches (s : State) (c : StudioChange) : State.Touches [.link, .counters] s (s.studioChange c) := by
  unfold State.studioChange
  dsimp only
  split
  · exact (s.onLink_touches _).mono (by simp)
  · exact ((s.onLink_touches _).mono (by simp)).trans (State.formStatus_touches _)
@[simp] theorem State.studioChange_messages (s : State) (c : StudioChange) : (s.studioChange c).messages = s.messages := by
  unfold State.studioChange; dsimp only; split <;> simp
/-- The framer holds the value it took (R159). -/
@[simp] theorem State.studioChange_studio (s : State) (c : StudioChange) :
    (s.studioChange c).link.studio = s.link.studio.take c := by
  unfold State.studioChange
  dsimp only
  split <;> simp [Link.takeStudio]

theorem State.tapState_touches (s : State) (src : Source) (st : SourceState) :
    State.Touches [.link, .lamps, .counters] s (s.tapState src st) := by
  unfold State.tapState
  split
  · exact ((s.lampInput_touches _).mono (by simp)).trans
      ((State.studioChange_touches _ _).mono (by simp))
  · exact ((s.lampInput_touches _).mono (by simp)).trans
      ((State.studioChange_touches _ _).mono (by simp))
  · exact s.touches_refl _
@[simp] theorem State.tapState_messages (s : State) (src : Source) (st : SourceState) :
    (s.tapState src st).messages = s.messages := by
  unfold State.tapState; split <;> simp

/-! ## Notices that no owner acts on -/

theorem State.endPending_none (s : State) (d : DeckId) (h : (s.decks.get d).pendingEnd = .none) : s.endPending d = s := by
  simp [State.endPending, h]

/-- A calm deck takes a notice without an act: only its own record changes, and it stays calm. -/
theorem State.deckTake_calm (s : State) (d : DeckId) (m : DeckMessage) (h : (s.decks.get d).calm)
    (hm : m = .silent ∨ ∃ n, m = .state n) :
    ∃ f : DeckRec → DeckRec, s.deckTake d m = s.onDeck d f ∧ (f (s.decks.get d)).calm := by
  unfold State.deckTake
  split
  · rename_i hr
    exact ⟨_, rfl, .inl hr⟩
  · rename_i hr
    have hp : (s.decks.get d).pendingEnd = .none := h.resolve_left hr
    have id_deck : s = s.onDeck d id := by
      unfold State.onDeck State.rewriteIf State.force
      cases d <;> simp [PerDeck.modify, PerDeck.set, PerDeck.get]
    rcases hm with rfl | ⟨st, rfl⟩
    · refine ⟨fun r => { r with heldSilent := true }, ?_, .inr hp⟩
      simp only [State.deckHandle, State.deckSilent]
      rw [State.endPending_none _ _ (by simpa using hp), ite_self]
    · simp only [State.deckHandle, State.deckState]
      split
      · split
        · exact ⟨_, rfl, .inr hp⟩
        · exact ⟨id, id_deck, .inr hp⟩
      · cases hs : (s.decks.get d).state <;> simp only
        case held =>
          refine ⟨fun r => { r with state := .playing, heldSilent := false }, ?_, .inr hp⟩
          rw [State.endPending_none _ _ (by simpa using hp), ite_self]
        case loading =>
          refine ⟨fun r => { r with heldSilent := false }, ?_, .inr hp⟩
          rw [State.endPending_none _ _ (by simpa using hp), ite_self]
        all_goals
          refine ⟨id, ?_, .inr hp⟩
          rw [State.endPending_none _ _ hp, ite_self]
          exact id_deck

/-- The owners of the sources act on no notice of their own (R12). -/
structure State.Rest (s : State) (src : Source) (n : StateNotice) : Prop where
  deck : ∀ d, src = .deck d → (s.decks.get d).calm
  fallback : src = .fallback → n.state = .held → s.deadAir.state = .engaged

/-- What delivering a notice leaves when no owner acts: the parts of the source change, messages, air map and calm decks
stay. -/
structure State.Delivered (src : Source) (s v : State) : Prop where
  touches : State.Touches (noticeParts src) s v
  messages : v.messages = s.messages
  air : v.air = s.air
  calm : ∀ d, (s.decks.get d).calm → (v.decks.get d).calm
  engaged : v.deadAir.state = s.deadAir.state

theorem State.endGrantOf_touches (s : State) (w : Requester) (b : Bool) : State.Touches [.arbiter] s (s.endGrantOf w b) :=
  s.touches_arbiter _

theorem State.delivered_refl (src : Source) (s : State) : State.Delivered src s s :=
  ⟨s.touches_refl _, rfl, rfl, fun _ h => h, rfl⟩

theorem State.delivered_deck (s : State) (d : DeckId) (m : DeckMessage) (h : (s.decks.get d).calm)
    (hm : m = .silent ∨ ∃ n, m = .state n) : State.Delivered (.deck d) s (s.deckTake d m) := by
  obtain ⟨f, hf, hc⟩ := s.deckTake_calm d m h hm
  rw [hf]
  refine ⟨(s.onDeck_touches _ _).mono (by simp [noticeParts]), rfl, rfl, fun e he => ?_, rfl⟩
  simp only [State.onDeck_decks, PerDeck.get_modify]
  split
  · exact hc
  · exact he

theorem State.deliver_state (s : State) (src : Source) (n : StateNotice) (h : s.Rest src n) :
    State.Delivered src s (s.deliver (.state src n)) := by
  cases src with
  | deck d => exact s.delivered_deck d (.state n) (h.deck d rfl) (.inr ⟨n, rfl⟩)
  | alert => exact s.delivered_refl _
  | fallback =>
    show State.Delivered .fallback s (s.monitorTake (.notice n))
    unfold State.monitorTake
    split
    · exact ⟨(s.onDeadAir_touches _).mono (by simp [noticeParts]), rfl, rfl, fun _ h => h, rfl⟩
    · simp only [State.monitorHandle, State.fallbackNotice]
      split
      · rename_i hs
        rw [if_pos (h.fallback rfl hs)]; exact s.delivered_refl _
      · split
        · refine ⟨?_, rfl, rfl, fun _ h => h, rfl⟩
          exact (((s.onDeadAir_touches _).mono (by simp [noticeParts])).trans
            ((State.endGrantOf_touches _ _ _).mono (by simp [noticeParts])))
        · exact s.delivered_refl _
      · exact s.delivered_refl _
  | mic =>
    show State.Delivered .mic s ((s.lampInput _).studioChange _)
    have ht := (s.lampInput_touches (.mic n.state)).mono (qs := [.link, .lamps, .counters]) (by simp)
    have hu := ht.trans ((State.studioChange_touches _ (.mic n.state.isOpen)).mono (by simp))
    refine ⟨hu.mono (by simp [noticeParts]), by simp, hu.1 .air (by simp), fun d hd => ?_, ?_⟩
    · have := hu.1 .decks (by simp)
      simp only [State.keeps] at this
      rw [this]; exact hd
    · have := hu.1 .deadAir (by simp)
      simp only [State.keeps] at this
      rw [this]
  | line k =>
    show State.Delivered (.line k) s ((s.tapState (.line k) n.state).lineNotice k n.state)
    have ht := s.tapState_touches (.line k) n.state
    have hl : ∀ u : State, State.Touches [.lines] u (u.lineNotice k n.state) := fun u => by
      unfold State.lineNotice
      dsimp only
      split
      · exact (u.seat_touches _ _).trans (State.onLine_touches _ _ _)
      · exact u.seat_touches _ _
    have hm : ∀ u : State, (u.lineNotice k n.state).messages = u.messages := fun u => by
      unfold State.lineNotice; dsimp only; split <;> rfl
    have hu := (ht.mono (qs := [.link, .lamps, .counters, .lines]) (by simp)).trans
      ((hl _).mono (by simp))
    refine ⟨hu.mono (by simp [noticeParts]), by simp [hm], hu.1 .air (by simp), fun d hd => ?_, ?_⟩
    · have := hu.1 .decks (by simp)
      simp only [State.keeps] at this
      rw [this]; exact hd
    · have := hu.1 .deadAir (by simp)
      simp only [State.keeps] at this
      rw [this]

theorem State.deliver_silent (s : State) (src : Source) (h : ∀ d, src = .deck d → (s.decks.get d).calm) :
    State.Delivered src s (s.deliver (.silent src)) := by
  cases src with
  | deck d => exact s.delivered_deck d .silent (h d rfl) (.inl rfl)
  | _ => exact s.delivered_refl _

/-! ## Draining -/

/-- The source a notice is about. -/
def Message.source : Message → Option Source
  | .state src _ => some src
  | .silent src => some src
  | .segue _ => none

/-- A message no owner acts on in a state where a set of decks is calm. -/
def Message.restful (s : State) : Message → Prop
  | .state src n => s.Rest src n
  | .silent src => ∀ d, src = .deck d → (s.decks.get d).calm
  | .segue _ => False

theorem Message.restful_keep {src : Source} {s v : State} (h : State.Delivered src s v) {m : Message} (hm : m.restful s) :
    m.restful v := by
  cases m with
  | state src n => exact ⟨fun d hd => h.calm d (hm.deck d hd), fun h1 h2 => h.engaged.trans (hm.fallback h1 h2)⟩
  | silent src => exact fun d hd => h.calm d (hm d hd)
  | segue d => exact hm.elim

/-- What draining notices leaves when no owner acts. -/
structure State.Drained (ps : List Part) (s v : State) : Prop where
  touches : State.Touches ps s v
  messages : v.messages = []
  air : v.air = s.air
  calm : ∀ d, (s.decks.get d).calm → (v.decks.get d).calm
  engaged : v.deadAir.state = s.deadAir.state

theorem State.drainMessages_rest (ps : List Part) (n : Nat) (s : State) (hn : s.messages.length ≤ n)
    (hm : ∀ m ∈ s.messages, m.restful s ∧ ∀ src, m.source = some src → ∀ x ∈ noticeParts src, x ∈ ps) :
    State.Drained ps s (s.drainMessages n) := by
  induction n generalizing s with
  | zero =>
    have : s.messages = [] := List.length_eq_zero_iff.mp (by omega)
    exact ⟨s.touches_refl _, this, rfl, fun _ h => h, rfl⟩
  | succ n ih =>
    cases hms : s.messages with
    | nil =>
      rw [State.drainMessages_nil _ _ hms]
      exact ⟨s.touches_refl _, hms, rfl, fun _ h => h, rfl⟩
    | cons m t =>
      rw [State.drainMessages_cons _ _ _ _ hms]
      set u : State := { s with messages := t } with hu
      have hr := hm m (by simp [hms])
      have hstep : ∃ src, m.source = some src ∧ State.Delivered src u (u.deliver m) := by
        cases m with
        | state src n => exact ⟨src, rfl, u.deliver_state src n ⟨hr.1.deck, hr.1.fallback⟩⟩
        | silent src => exact ⟨src, rfl, u.deliver_silent src hr.1⟩
        | segue d => exact hr.1.elim
      obtain ⟨src, hsrc, hd⟩ := hstep
      have hps := hr.2 src hsrc
      have := ih (u.deliver m) (by rw [hd.messages]; simp [hms] at hn; exact hn) fun x hx => by
        rw [hd.messages] at hx
        have hx' := hm x (by rw [hms]; exact List.mem_cons_of_mem _ hx)
        refine ⟨Message.restful_keep hd ?_, hx'.2⟩
        cases x with
        | state a b => exact ⟨hx'.1.deck, hx'.1.fallback⟩
        | silent a => exact hx'.1
        | segue d => exact hx'.1.elim
      refine ⟨?_, this.messages, this.air.trans hd.air, fun d hd' => this.calm d (hd.calm d hd'),
        this.engaged.trans hd.engaged⟩
      have h0 : State.Touches ps s u := (s.touches_messages t).mono (by simp)
      exact (h0.trans (hd.touches.mono hps)).trans this.touches

/-- Draining notices that no owner acts on. -/
theorem State.drain_rest (ps : List Part) (s : State) (hn : s.messages.length ≤ 1000)
    (hm : ∀ m ∈ s.messages, m.restful s ∧ ∀ src, m.source = some src → ∀ x ∈ noticeParts src, x ∈ ps) :
    State.Drained ps s s.drain := by
  have h := s.drainMessages_rest ps 1000 hn hm
  refine ⟨h.touches.trans ((State.touches_messages _ _).mono (by simp)), rfl, h.air, h.calm, h.engaged⟩

/-! ## The whole step -/

/-- Publication within a frame: the parts named, the words named, and the records that show those parts. -/
theorem State.publish_within {s v : State} {ps : List Part} {w : Nat → Prop} (hk : ∀ x, x ∉ ps → s.keeps v x) (hforced : ∀ r ∈ v.forced, ∃ x ∈ r.parts, x ∈ ps) (hx : s.sameXmBut v w) :
    s.frame v.publish ps w := by
  have hkeep : ∀ x, (v.keeps v.publish x) := fun x => by cases x <;> simp [State.keeps]
  refine ⟨fun x hx => State.keeps_trans (hk x hx) (hkeep x), fun a ha => ?_⟩
  simp only [not_or] at ha
  rw [State.publish_read_other, hx a ha.1]
  intro r hr hin
  exact ha.2 ⟨r, hin, hforced r hr⟩

/-- The step of a running part whose act touches the parts named and the words named, and sends notices no owner acts
on. -/
theorem State.withinAct (s : State) (f : State → State) (ps : List Part) (w : Nat → Prop) (h : s.runs)
    (hk : ∀ x, x ∉ ps → s.keeps (f s) x) (hforced : ∀ r ∈ (f s).forced, ∃ x ∈ r.parts, x ∈ ps)
    (hp : s.samePorts (f s)) (hx : s.sameXmBut (f s) w)
    (hn : (f s).messages.length ≤ 1000)
    (hm : ∀ m ∈ (f s).messages, m.restful (f s) ∧ ∀ src, m.source = some src → ∀ x ∈ noticeParts src, x ∈ ps) :
    ∃ t, s.act f = t ∧ s.within t ps w ∧ t.blocks = (f s).drain.blocks ∧ t.air = (f s).air := by
  refine ⟨_, rfl, ?_⟩
  rw [State.act_runs _ _ h, State.settle]
  have hd := (f s).drain_rest ps hn hm
  have hall := hd.touches
  refine ⟨⟨fun q => ?_, ?_⟩, by simp, ?_⟩
  · rw [State.publish_bare, hall.ports]; exact hp q
  · refine State.publish_within (fun x hx' => State.keeps_trans (hk x hx') (hall.1 x hx')) ?_ ?_
    · exact fun r hr => (hall.forced r hr).elim (hforced r) id
    · intro a ha
      rw [hall.xm]; exact hx a ha
  · rw [State.publish_air, hd.air]

/-! ## Requests on the air map -/

/-- A source record put into the air map, with the retarget of K it may bring (R15). -/
theorem AirMap.put_eq_withSource (a : AirMap) (src : Source) (r : SourceRec) : a.put src r = a.withSource src r := by
  unfold AirMap.put AirMap.withSource AirMap.duckTarget
  by_cases hs : src = .mic
  · subst hs
    simp only [PerSource.set, true_and, AirMap.retarget, AirMap.duckTarget, Config.unity, Ramp.begin, Config.eventsPerMs]
    by_cases ho : r.state.isOpen = true <;> by_cases hm : a.sources.mic.state.isOpen = true <;>
      by_cases hd : a.duckDepth = 32768 <;> simp_all
    all_goals omega
  · have : (a.sources.set src r).mic = a.sources.mic := by cases src <;> first | rfl | exact absurd rfl hs
    simp [this, hs]

theorem stateNotice_mem {src : Source} {o n : SourceRec} {m : Message} (h : m ∈ stateNotice src o n) :
    m = .state src ⟨n.state, n.level⟩ := by
  unfold stateNotice at h; split at h <;> simp_all

theorem stateNotice_length (src : Source) (o n : SourceRec) : (stateNotice src o n).length ≤ 1 := by
  unfold stateNotice; split <;> simp

/-- The step of a running part whose act changes the air map and tells one source's owner of it. -/
theorem State.tellAct (s : State) (f : State → State) (src : Source) (air : AirMap) (ms : List Message) (h : s.runs)
    (hf : f s = ({ s with air := air } : State).tell ms) (hn : ms.length ≤ 10)
    (hr : ∀ m ∈ ms, m.source = some src ∧ m.restful s) :
    ∃ t, s.act f = t ∧ t.air = air ∧ s.within t (noticeParts src) (fun _ => False) := by
  have hq := h.2.1
  obtain ⟨t, ht, h1, _, h3⟩ := State.withinAct s f (noticeParts src) (fun _ => False) h
    (fun x hx => by
      rw [hf]
      have : x ≠ .air := by rintro rfl; cases src <;> simp [noticeParts] at hx
      cases x <;> first | rfl | exact absurd rfl this)
    (by rw [hf]; simp [State.tell, hq.2]) (by rw [hf]; exact fun _ => rfl) (by rw [hf]; exact fun _ _ => rfl)
    (by rw [hf]; simp [State.tell, hq.1]; omega)
    (by
      rw [hf]
      intro m hm
      simp only [State.tell, hq.1, List.nil_append] at hm
      obtain ⟨h1, h2⟩ := hr m hm
      refine ⟨?_, fun src' hs => by rw [h1] at hs; cases hs; exact fun _ h => h⟩
      cases m with
      | state a b => exact ⟨h2.deck, h2.fallback⟩
      | silent a => exact h2
      | segue d => exact h2.elim)
  exact ⟨t, ht, by rw [h3, hf]; rfl, h1⟩

end Sys2Proof.Machine
end

