-- ==== Sys2Proof/Laws/Ranges.lean ====
section
/-!
SUPPORT. Laws/Ranges.lean: what the operations of the air map keep in range (R2, R4, R15), the page runs in order (R40),
and the caller queue and screener in order (R100, R101).
-/
namespace Sys2Proof.Machine

/-! ## The ramp law -/

@[simp] theorem Ramp.levelAt_zero (r : Ramp) : r.levelAt 0 = r.start := by simp [Ramp.levelAt]

theorem Ramp.levelAt_length (r : Ramp) (h : 1 ≤ r.length) : r.levelAt r.length = r.target := by
  unfold Ramp.levelAt
  rw [Int.mul_tdiv_cancel _ (by omega)]
  omega

/-- The ramp law stays between the start and the target (R4). -/
theorem Ramp.levelAt_le (r : Ramp) (k b : Nat) (hs : r.start ≤ b) (ht : r.target ≤ b) (hk : k ≤ r.length) :
    r.levelAt k ≤ b := by
  unfold Ramp.levelAt
  by_cases h : r.start ≤ r.target
  · have h0 : (0 : Int) ≤ ((r.target : Int) - r.start) * k := by
      apply Int.mul_nonneg <;> omega
    have : Int.tdiv (((r.target : Int) - r.start) * k) r.length ≤ (r.target : Int) - r.start := by
      rw [Int.tdiv_eq_ediv_of_nonneg h0]
      rcases Nat.eq_zero_or_pos r.length with hl | hl
      · simp [hl]
        omega
      · apply Int.ediv_le_of_le_mul (by omega)
        apply Int.mul_le_mul_of_nonneg_left <;> omega
    omega
  · have h0 : ((r.target : Int) - r.start) * k ≤ 0 := by
      apply Int.mul_nonpos_of_nonpos_of_nonneg <;> omega
    have : Int.tdiv (((r.target : Int) - r.start) * k) r.length ≤ 0 := by
      have h1 : Int.tdiv (-(((r.target : Int) - r.start) * k)) r.length ≥ 0 := Int.tdiv_nonneg (by omega) (by omega)
      rw [Int.neg_tdiv] at h1
      omega
    omega

theorem Ramp.begin_inRange (level target length : Nat) (hl : level ≤ 32768) (ht : target ≤ 32768) :
    (Ramp.begin level target length).inRange level := by
  refine ⟨hl, ht, fun _ => ⟨?_, ?_, ?_⟩⟩ <;> simp [Ramp.begin, Ramp.levelAt_zero]

/-- A ramp's step keeps it in range, with the level it gives (R4). -/
theorem rampStep_inRange (level : Nat) (r : Ramp) (hl : level ≤ 32768) (h : r.inRange level) :
    (rampStep level r).1 ≤ 32768 ∧ (rampStep level r).2.inRange (rampStep level r).1 := by
  unfold rampStep
  split
  · rename_i hs
    simp only [Ramp.stepping, Bool.and_eq_true, decide_eq_true_eq] at hs
    obtain ⟨h1, h2, h3⟩ := h
    refine ⟨r.levelAt_le _ _ h1 h2 (by omega), h1, h2, fun hr => ?_⟩
    obtain ⟨h4, h5, h6⟩ := h3 hs.1
    exact ⟨h4, by simp; omega, rfl⟩
  · exact ⟨hl, h⟩

/-! ## Source records -/

theorem SourceRec.step_inRange {r : SourceRec} (h : r.inRange) : r.step.inRange := by
  obtain ⟨h1, h2, h3, h4⟩ := h
  have := rampStep_inRange r.level r.ramp h1 h2
  refine ⟨this.1, this.2, h3, fun hs => ?_⟩
  have h5 := h4 hs
  simp [SourceRec.step, rampStep, Ramp.stepping, h5.1, h5.2]

theorem Ramp.rest_inRange (r : Ramp) (level target : Nat) (h : r.inRange level) (ht : target ≤ 32768) (level' : Nat) :
    ({ r with target := target, running := false } : Ramp).inRange level' := ⟨h.1, ht, by simp⟩

theorem SourceRec.rampTo_inRange {r : SourceRec} (h : r.inRange) (target length : Nat) (ht : target ≤ 32768) :
    (r.rampTo target length).inRange := by
  obtain ⟨h1, h2, h3, h4⟩ := h
  unfold SourceRec.rampTo
  split
  · exact ⟨h1, Ramp.begin_inRange _ _ _ h1 ht, by simp, by simp⟩
  · split
    · exact ⟨h1, Ramp.begin_inRange _ _ _ h1 ht, by simp, by simp⟩
    · refine ⟨h1, Ramp.rest_inRange _ _ _ h2 ht _, by simp, ?_⟩
      by_cases hz : target = 0
      · simp [hz]
        omega
      · simp [hz]

theorem SourceRec.settled_inRange {r : SourceRec} (h : r.inRange) (he : r.ramp.atEnd = true) :
    ({ r with state := r.settledState, ramp := { r.ramp with running := false } } : SourceRec).inRange := by
  obtain ⟨h1, h2, h3, h4⟩ := h
  refine ⟨h1, ⟨h2.1, h2.2.1, by simp⟩, h3, fun hs => ⟨?_, rfl⟩⟩
  simp only [Ramp.atEnd, Bool.and_eq_true, decide_eq_true_eq] at he
  obtain ⟨h5, h6, h7⟩ := h2.2.2 he.1
  have hk : r.ramp.position = r.ramp.length := by omega
  rw [hk, Ramp.levelAt_length _ h5] at h7
  simp only [SourceRec.settledState] at hs
  split at hs
  · split at hs
    · show r.level = 0
      omega
    · cases hs
  · split at hs
    · show r.level = 0
      omega
    · cases hs
  · exact (h4 hs).1

theorem SourceRec.held_inRange {r : SourceRec} (h : r.inRange) (length : Nat) : (r.held length).inRange := by
  obtain ⟨h1, h2, h3, h4⟩ := h
  refine ⟨h1, ?_, ?_, by simp [SourceRec.held]⟩
  · unfold SourceRec.held
    dsimp only
    split
    · exact Ramp.rest_inRange _ _ _ h2 (by omega) _
    · exact Ramp.begin_inRange _ _ _ h1 (by omega)
  · simp only [SourceRec.held, SourceRec.savedByHold]
    split
    · intro x hx
      cases hx
      exact h2.2.1
    · intro x hx
      cases hx
      exact h2.2.1
    · intro x hx
      cases hx
      exact h1
    · exact h3
    · simp

/-! ## The air map -/

theorem AirMap.retarget_inRange {a : AirMap} (h : a.inRange) : a.retarget.inRange := by
  obtain ⟨h1, h2, h3, h4, h5⟩ := h
  refine ⟨h1, h2, Ramp.begin_inRange _ _ _ h2 ?_, h4, h5⟩
  simp only [AirMap.duckTarget]
  split
  · exact h4
  · exact le_refl _

theorem AirMap.put_inRange {a : AirMap} (h : a.inRange) (src : Source) (r : SourceRec) (hr : r.inRange) :
    (a.put src r).inRange := by
  have h' : ({ a with sources := a.sources.set src r } : AirMap).inRange := by
    refine ⟨fun x => ?_, h.2⟩
    simp only [PerSource.get_set]
    split
    · exact hr
    · exact h.1 x
  unfold AirMap.put
  dsimp only
  split
  · exact h'
  · exact AirMap.retarget_inRange h'

theorem AirMap.step_inRange {a : AirMap} (h : a.inRange) : a.step.inRange := by
  obtain ⟨h1, h2, h3, h4, h5⟩ := h
  have := rampStep_inRange _ _ h2 h3
  refine ⟨fun src => ?_, this.1, this.2, h4, h5⟩
  simp only [AirMap.step, PerSource.get_mapWith]
  exact SourceRec.step_inRange (h1 src)

/-! ## Page runs (R40, R42) -/

theorem runsFrom_mono {lo lo' : Nat} {m : List PageRun} (h : runsFrom lo m) (hl : lo' ≤ lo) : runsFrom lo' m := by
  cases m with
  | nil => trivial
  | cons r t => exact ⟨le_trans hl h.1, h.2⟩

theorem runsFrom_filter (p : PageRun → Bool) {lo : Nat} {m : List PageRun} (h : runsFrom lo m) :
    runsFrom lo (m.filter p) := by
  induction m generalizing lo with
  | nil => trivial
  | cons r t ih =>
    simp only [List.filter_cons]
    split
    · exact ⟨h.1, h.2.1, ih h.2.2⟩
    · exact runsFrom_mono (ih h.2.2) (by have := h.1; have := h.2.1; omega)

theorem runsFrom_ge {lo : Nat} {m : List PageRun} (h : runsFrom lo m) : ∀ r ∈ m, lo ≤ r.first := by
  induction m generalizing lo with
  | nil => simp
  | cons r t ih =>
    intro x hx
    rcases List.mem_cons.mp hx with rfl | hx
    · exact h.1
    · have := ih h.2.2 x hx
      have := h.1
      omega

theorem firstFit_ge {want total lo f : Nat} {m : List PageRun} (h : firstFit want total lo m = some f)
    (hr : runsFrom lo m) : lo ≤ f := by
  induction m generalizing lo with
  | nil =>
    simp only [firstFit] at h
    split at h <;> simp_all
  | cons r t ih =>
    simp only [firstFit] at h
    split at h
    · simp_all
    · have := ih h hr.2.2
      have := hr.1
      omega

/-- The pages a first fit gives meet no run of the map: the map with them is in order (R42). -/
theorem runsFrom_insert {want total lo f : Nat} {m : List PageRun} (i : Fin 128) (hw : 1 ≤ want) (hr : runsFrom lo m)
    (h : firstFit want total lo m = some f) : runsFrom lo (insertRun ⟨f, want, i⟩ m) := by
  induction m generalizing lo with
  | nil =>
    have := firstFit_ge h hr
    exact ⟨this, hw, trivial⟩
  | cons r t ih =>
    have hr' := hr
    obtain ⟨h1, h2, h3⟩ := hr
    simp only [firstFit] at h
    split at h
    · rename_i hfit
      cases h
      simp only [insertRun]
      rw [if_pos (by omega)]
      exact ⟨le_refl _, hw, by simp only; omega, h2, h3⟩
    · have hge := firstFit_ge h h3
      simp only [insertRun]
      rw [if_neg (by omega)]
      exact ⟨h1, h2, ih h3 h⟩

/-! ## Callers (R100, R101) -/

theorem LineControl.toQueue_inOrder {c : LineControl} (h : c.inOrder) (k : Line) (f : LineRec → LineRec)
    (hs : (c.recs.get k).state ≠ .waiting) (hf : (f (c.recs.get k)).state = .waiting) :
    ({ c with recs := c.recs.modify k f, queue := c.queue.filter (· ≠ k) ++ [k]
              screener := if c.screener = some k then none else c.screener } : LineControl).inOrder := by
  obtain ⟨h1, h2, h3⟩ := h
  have hk : k ∉ c.queue := fun hc => hs ((h2 k).mp hc)
  have hq : c.queue.filter (· ≠ k) = c.queue := by
    apply List.filter_eq_self.mpr
    intro x hx
    simp only [ne_eq, decide_not, Bool.not_eq_true', decide_eq_false_iff_not]
    rintro rfl
    exact hk hx
  refine ⟨?_, ?_, ?_⟩
  · show (c.queue.filter (· ≠ k) ++ [k]).Nodup
    rw [hq]
    exact List.nodup_append.mpr ⟨h1, by simp, by simpa using fun a ha => by rintro rfl; exact hk ha⟩
  · intro j
    show j ∈ c.queue.filter (· ≠ k) ++ [k] ↔ _
    rw [hq]
    simp only [List.mem_append, List.mem_singleton, PerLine.modify, PerLine.get_set]
    by_cases hj : j = k
    · subst hj
      simp [hf]
    · simp [hj, h2 j]
  · intro j
    simp only [PerLine.modify, PerLine.get_set]
    by_cases hj : j = k
    · subst hj
      rw [if_pos rfl, hf]
      split <;> simp_all
    · rw [if_neg hj]
      split
      · rename_i hsk
        have := (h3 j).not.mp (by rw [hsk]; simpa using fun e => hj e.symm)
        simp [this]
      · exact h3 j

/-- A line that leaves the queue and the screener and takes a state that is neither WAITING nor SCREEN. -/
theorem LineControl.leave_inOrder {c : LineControl} (h : c.inOrder) (k : Line) (f : LineRec → LineRec)
    (hw : (f (c.recs.get k)).state ≠ .waiting) (hs : (f (c.recs.get k)).state ≠ .screen) :
    ({ c with recs := c.recs.modify k f, queue := c.queue.filter (· ≠ k)
              screener := if c.screener = some k then none else c.screener } : LineControl).inOrder := by
  obtain ⟨h1, h2, h3⟩ := h
  refine ⟨h1.filter _, ?_, ?_⟩
  · intro j
    simp only [PerLine.modify, PerLine.get_set, List.mem_filter, ne_eq, decide_not, Bool.not_eq_true',
      decide_eq_false_iff_not]
    by_cases hj : j = k
    · subst hj
      simp [hw]
    · simp [hj, h2 j]
  · intro j
    simp only [PerLine.modify, PerLine.get_set]
    by_cases hj : j = k
    · subst hj
      rw [if_pos rfl]
      split <;> simp_all
    · rw [if_neg hj]
      split
      · rename_i hsk
        have := (h3 j).not.mp (by rw [hsk]; simpa using fun e => hj e.symm)
        simp [this]
      · exact h3 j

/-- A line that leaves the queue and is bound to a free screener. -/
theorem LineControl.toScreener_inOrder {c : LineControl} (h : c.inOrder) (k : Line) (f : LineRec → LineRec)
    (hn : c.screener = none) (hf : (f (c.recs.get k)).state = .screen) :
    ({ c with recs := c.recs.modify k f, queue := c.queue.filter (· ≠ k), screener := some k } : LineControl).inOrder := by
  obtain ⟨h1, h2, h3⟩ := h
  refine ⟨h1.filter _, ?_, ?_⟩
  · intro j
    simp only [PerLine.modify, PerLine.get_set, List.mem_filter, ne_eq, decide_not, Bool.not_eq_true',
      decide_eq_false_iff_not]
    by_cases hj : j = k
    · subst hj
      simp [hf]
    · simp [hj, h2 j]
  · intro j
    simp only [PerLine.modify, PerLine.get_set]
    by_cases hj : j = k
    · subst hj
      simp [hf]
    · have := (h3 j).not.mp (by simp [hn])
      simp [hj, this, Ne.symm hj]

/-- A record changed but for its state. -/
theorem LineControl.sameState_inOrder {c : LineControl} (h : c.inOrder) (k : Line) (f : LineRec → LineRec)
    (hf : (f (c.recs.get k)).state = (c.recs.get k).state) :
    ({ c with recs := c.recs.modify k f } : LineControl).inOrder := by
  obtain ⟨h1, h2, h3⟩ := h
  have : ∀ j, ((c.recs.modify k f).get j).state = (c.recs.get j).state := by
    intro j
    simp only [PerLine.modify, PerLine.get_set]
    split
    · rename_i e
      rw [hf, e]
    · rfl
  exact ⟨h1, fun j => by rw [this]; exact h2 j, fun j => by rw [this]; exact h3 j⟩

/-- A line that changes between states that are neither WAITING nor SCREEN. -/
theorem LineControl.aside_inOrder {c : LineControl} (h : c.inOrder) (k : Line) (f : LineRec → LineRec)
    (hw : (c.recs.get k).state ≠ .waiting) (hs : (c.recs.get k).state ≠ .screen)
    (hw' : (f (c.recs.get k)).state ≠ .waiting) (hs' : (f (c.recs.get k)).state ≠ .screen) :
    ({ c with recs := c.recs.modify k f } : LineControl).inOrder := by
  obtain ⟨h1, h2, h3⟩ := h
  refine ⟨h1, fun j => ?_, fun j => ?_⟩
  · simp only [PerLine.modify, PerLine.get_set]
    by_cases hj : j = k
    · subst hj
      simp [hw', h2 j, hw]
    · simp [hj, h2 j]
  · simp only [PerLine.modify, PerLine.get_set]
    by_cases hj : j = k
    · subst hj
      simp [hs', h3 j, hs]
    · simp [hj, h3 j]

end Sys2Proof.Machine
end

