-- ==== Sys2Proof/Laws/Moves.lean ====
section
/-!
SUPPORT. Laws/Moves.lean: what any operation of the part does to a state, as a chain of moves of nine kinds, so that an
invariant that every move keeps is kept by every command but RESET_N_ASSERT. This file holds the moves and the operations of
the shared blocks; Laws/MovesRows.lean goes on to the rows.
-/
namespace Sys2Proof.Machine

/-- One move of a state. The cues of the decks stay in the cue area under a premise P, which the chains of moves below take
to be that they did in the state a step began in. -/
inductive Move (P : Prop) : State → State → Prop
  /-- Exchange memory is written, its canonical form kept. -/
  | xm (s : State) (f : Mem 16 → Mem 16) (h : ∀ m, m.wf = true → (f m).wf = true) : Move P s (s.onXm f)
  /-- A pair is written into the clip store. -/
  | sdram (s : State) (a : Nat) (v : BitVec 48) : Move P s { s with sdram := s.sdram.write a v }
  /-- Port states change; what a read-ahead holds afterwards it held before or read from exchange memory. -/
  | ports (s : State) (ps : PerPort PortState)
      (h : ∀ p, ∀ e ∈ (ps.get p).readAhead, e ∈ (s.ports.get p).readAhead ∨ e.2 = s.xm.read e.1) :
      Move P s { s with ports := ps }
  /-- Counters change within their range. -/
  | counters (s : State) (cs : Vector Nat 29)
      (h : s.countersInRange → ∀ c : Counter, cs[c.index] ≤ Config.counterMax) : Move P s { s with counters := cs }
  /-- The air map changes within its ranges. -/
  | air (s : State) (a : AirMap) (h : s.air.inRange → a.inRange) : Move P s { s with air := a }
  /-- The decks change, their cues in the cue area. -/
  | decks (s : State) (ds : PerDeck DeckRec) (h : P → s.cuesPlaced → ∀ d, (ds.get d).placed) : Move P s { s with decks := ds }
  /-- The clip store manager changes, its page map in order. -/
  | clips (s : State) (c : ClipStore) (h : s.clips.inOrder → c.inOrder) : Move P s { s with clips := c }
  /-- The line controller changes, its queue and screener in order. -/
  | lines (s : State) (l : LineControl) (h : s.lines.inOrder → l.inOrder) : Move P s { s with lines := l }
  /-- Anything else changes but the queue of commands and the free values. -/
  | rest (s t : State) (hq : t.pending = s.pending) (hu : t.unstated = s.unstated) (hx : t.xm = s.xm)
      (hs : t.sdram = s.sdram) (hp : t.ports = s.ports) (hc : t.counters = s.counters) (ha : t.air = s.air)
      (hd : t.decks = s.decks) (hk : t.clips = s.clips) (hl : t.lines = s.lines) : Move P s t

/-- A chain of moves. -/
def State.moves (P : Prop) (s t : State) : Prop := Relation.ReflTransGen (Move P) s t

variable {P : Prop}

theorem State.moves_refl (s : State) : s.moves P s := Relation.ReflTransGen.refl
theorem Move.moves {s t : State} (h : Move P s t) : s.moves P t := Relation.ReflTransGen.single h
theorem State.moves.trans {s t u : State} (h : s.moves P t) (g : t.moves P u) : s.moves P u :=
  Relation.ReflTransGen.trans h g
theorem State.moves.after {s t u : State} (g : t.moves P u) (h : s.moves P t) : s.moves P u :=
  Relation.ReflTransGen.trans h g

/-- What every move keeps, a chain keeps. -/
theorem State.moves.keep {s t : State} (h : s.moves P t) (Q : State → Prop) (hQ : ∀ s t, Move P s t → Q s → Q t) (hs : Q s) :
    Q t := by
  induction h with
  | refl => exact hs
  | tail _ h ih => exact hQ _ _ h ih

theorem foldl_moves {α : Type} (f : State → α → State) (h : ∀ (s : State) x, s.moves P (f s x)) (l : List α) (s : State) :
    s.moves P (l.foldl f s) := by
  induction l generalizing s with
  | nil => exact s.moves_refl
  | cons a t ih => exact (h s a).trans (ih (f s a))

/-! ## Updates of one part (Ops) -/

/-- Nothing but the list of rewrites asked for changes. -/
theorem State.force_moves (s : State) (rs : List RecordId) : s.moves P (s.force rs) :=
  Relation.ReflTransGen.single (.rest s _ rfl rfl rfl rfl rfl rfl rfl rfl rfl rfl)
theorem State.rewriteIf_moves (s : State) (r : RecordId) (b a : List Nat) : s.moves P (s.rewriteIf r b a) := s.force_moves _

theorem State.xmWrite_moves (s : State) (a : Nat) (v : Word) : s.moves P (s.xmWrite a v) :=
  (Move.xm s _ fun m h => m.wf_write a v h).moves
theorem State.xmWriteBlock_moves (s : State) (a : Nat) (ws : List Word) : s.moves P (s.xmWriteBlock a ws) :=
  (Move.xm s _ fun m h => m.wf_writeBlock a ws h).moves
theorem State.raise_moves (s : State) (p : Port) (e : Event) : s.moves P (s.raise p e) :=
  (Move.xm s _ fun m h => m.wf_write _ _ h).moves
theorem State.raiseAll_moves (s : State) (e : Event) : s.moves P (s.raiseAll e) :=
  ((s.raise_moves _ _).trans (State.raise_moves _ _ _)).trans (State.raise_moves _ _ _)

theorem State.onPort_moves (s : State) (p : Port) (f : PortState → PortState)
    (h : ∀ q, ∀ e ∈ (f q).readAhead, e ∈ q.readAhead ∨ e.2 = s.xm.read e.1) : s.moves P (s.onPort p f) := by
  refine (Move.ports s _ ?_).moves
  intro q e he
  simp only [PerPort.get_modify] at he
  split at he
  · rename_i hq
    rw [hq]
    exact h _ e he
  · exact .inl he

/-- A port's state changes but for its read-ahead. -/
theorem State.onPort_moves_same (s : State) (p : Port) (f : PortState → PortState)
    (h : ∀ q, (f q).readAhead = q.readAhead) : s.moves P (s.onPort p f) :=
  s.onPort_moves p f fun q _ he => .inl (h q ▸ he)

theorem State.count_moves (s : State) (c : Counter) : s.moves P (s.count c) := by
  refine (Move.counters s _ ?_).moves
  intro h d
  have := h d
  by_cases hd : c.index = d.index
  · simp [hd]
  · rw [Fin.getElem_fin, Vector.getElem_set_ne _ _ (by intro e; exact hd (Fin.ext e))]
    exact h d

/-- A deck record changes, its cues in the cue area under the premise. -/
theorem State.onDeck_movesIf (s : State) (d : DeckId) (f : DeckRec → DeckRec)
    (h : P → (s.decks.get d).placed → (f (s.decks.get d)).placed) : s.moves P (s.onDeck d f) := by
  refine .after (State.rewriteIf_moves _ _ _ _) (Move.decks s (s.decks.modify d f) ?_).moves
  intro hP hp e
  simp only [PerDeck.get_modify]
  split
  · exact h hP (hp d)
  · exact hp e
theorem State.onDeck_moves (s : State) (d : DeckId) (f : DeckRec → DeckRec)
    (h : (s.decks.get d).placed → (f (s.decks.get d)).placed) : s.moves P (s.onDeck d f) :=
  s.onDeck_movesIf d f fun _ => h

theorem State.onClips_moves (s : State) (f : ClipStore → ClipStore) (h : s.clips.inOrder → (f s.clips).inOrder) :
    s.moves P (s.onClips f) := (Move.clips s _ h).moves
theorem State.onLine_moves (s : State) (k : Line) (f : LineRec → LineRec) (h : ∀ r, (f r).state = r.state) :
    s.moves P (s.onLine k f) :=
  .after (State.rewriteIf_moves _ _ _ _) (Move.lines s _ fun ho => LineControl.sameState_inOrder ho k f (h _)).moves

theorem State.onLink_moves (s : State) (f : Link → Link) : s.moves P (s.onLink f) :=
  Relation.ReflTransGen.single (.rest s _ rfl rfl rfl rfl rfl rfl rfl rfl rfl rfl)
theorem State.onAlert_moves (s : State) (f : AlertEngine → AlertEngine) : s.moves P (s.onAlert f) :=
  Relation.ReflTransGen.single (.rest s _ rfl rfl rfl rfl rfl rfl rfl rfl rfl rfl)
theorem State.onDeadAir_moves (s : State) (f : DeadAir → DeadAir) : s.moves P (s.onDeadAir f) :=
  Relation.ReflTransGen.single (.rest s _ rfl rfl rfl rfl rfl rfl rfl rfl rfl rfl)
theorem State.withDeadAir_moves (s : State) (d : DeadAir) : s.moves P { s with deadAir := d } :=
  Relation.ReflTransGen.single (.rest s _ rfl rfl rfl rfl rfl rfl rfl rfl rfl rfl)
theorem State.withAlert_moves (s : State) (e : AlertEngine) : s.moves P { s with alert := e } :=
  Relation.ReflTransGen.single (.rest s _ rfl rfl rfl rfl rfl rfl rfl rfl rfl rfl)
theorem State.onArbiter_moves (s : State) (f : Arbiter → Arbiter) : s.moves P (s.onArbiter f) :=
  Relation.ReflTransGen.single (.rest s _ rfl rfl rfl rfl rfl rfl rfl rfl rfl rfl)
theorem State.tell_moves (s : State) (ms : List Message) : s.moves P (s.tell ms) :=
  Relation.ReflTransGen.single (.rest s _ rfl rfl rfl rfl rfl rfl rfl rfl rfl rfl)
theorem State.onLamps_moves (s : State) (f : LampDriver → LampDriver) : s.moves P (s.onLamps f) :=
  Relation.ReflTransGen.single (.rest s _ rfl rfl rfl rfl rfl rfl rfl rfl rfl rfl)
theorem State.summarize_moves (b s : State) : s.moves P (b.summarize s) := s.force_moves _
theorem State.onClip_moves (s : State) (i : Fin 128) (f : ClipEntry → ClipEntry) : s.moves P (s.onClip i f) :=
  .after (State.force_moves _ _) (s.onClips_moves _ id)
theorem State.onPages_moves (s : State) (f : List PageRun → List PageRun)
    (h : s.clips.inOrder → ({ s.clips with pages := f s.clips.pages } : ClipStore).inOrder) : s.moves P (s.onPages f) :=
  .after (State.summarize_moves _ _) (s.onClips_moves _ h)
theorem State.look_moves (s : State) : s.moves P s.look := s.onLink_moves _
theorem State.withAnswer_moves (s : State) (x : Option Answer) : s.moves P { s with airAnswer := x } :=
  Relation.ReflTransGen.single (.rest s _ rfl rfl rfl rfl rfl rfl rfl rfl rfl rfl)
theorem State.withMessages_moves (s : State) (ms : List Message) : s.moves P { s with messages := ms } :=
  Relation.ReflTransGen.single (.rest s _ rfl rfl rfl rfl rfl rfl rfl rfl rfl rfl)
theorem State.withMixer_moves (s : State) (f : MixFrame) : s.moves P { s with mixer := f } :=
  Relation.ReflTransGen.single (.rest s _ rfl rfl rfl rfl rfl rfl rfl rfl rfl rfl)
theorem State.withClock_moves (s : State) (c : Clock) : s.moves P { s with clock := c } :=
  Relation.ReflTransGen.single (.rest s _ rfl rfl rfl rfl rfl rfl rfl rfl rfl rfl)
theorem State.withHighway_moves (s : State) (h : Highway) : s.moves P { s with highway := h } :=
  Relation.ReflTransGen.single (.rest s _ rfl rfl rfl rfl rfl rfl rfl rfl rfl rfl)
theorem State.withLamps_moves (s : State) (l : LampDriver) : s.moves P { s with lamps := l } :=
  Relation.ReflTransGen.single (.rest s _ rfl rfl rfl rfl rfl rfl rfl rfl rfl rfl)
theorem State.withAir_moves (s : State) (a : AirMap) (h : s.air.inRange → a.inRange) : s.moves P { s with air := a } :=
  (Move.air s a h).moves

/-! ## The air map -/

theorem State.put_moves (s : State) (src : Source) (r : SourceRec) (h : s.air.inRange → r.inRange) :
    s.moves P { s with air := s.air.put src r } :=
  s.withAir_moves _ fun ha => AirMap.put_inRange ha src r (h ha)

theorem State.airRamp_moves (s : State) (src : Source) (target length : Nat) :
    s.moves P (s.airRamp src target length).1 := by
  have hT : min target Config.unity ≤ 32768 := Nat.min_le_right _ _
  have hp : ∀ ms, s.moves P (({ s with air := s.air.put src ((s.air.sources.get src).rampTo (min target Config.unity)
      (min length Config.maxRamp)) } : State).tell ms) := fun ms =>
    (s.put_moves src _ fun ha => SourceRec.rampTo_inRange (ha.1 src) _ _ hT).trans (State.tell_moves _ _)
  unfold State.airRamp
  dsimp only
  split
  · exact hp _
  · split
    · refine s.put_moves src _ fun ha => ?_
      obtain ⟨h1, h2, h3, h4⟩ := ha.1 src
      exact ⟨h1, h2, by simpa using hT, h4⟩
    · split
      · split
        · exact s.moves_refl
        · refine (s.put_moves src _ fun ha => ?_).trans (State.tell_moves _ _)
          obtain ⟨h1, h2, h3, h4⟩ := ha.1 src
          exact ⟨by simp, Ramp.rest_inRange _ _ _ h2 (by omega) _, by simpa using hT, by simp⟩
      · exact hp _

theorem State.airCut_moves (s : State) (src : Source) : s.moves P (s.airCut src).1 := by
  unfold State.airCut
  dsimp only
  refine (s.put_moves src _ fun ha => ?_).trans (State.tell_moves _ _)
  exact ⟨by simp, Ramp.rest_inRange _ _ _ (ha.1 src).2.1 (by omega) _, by simp, by simp⟩

theorem State.endRamp_moves (s : State) (src : Source) : s.moves P (s.endRamp src) := by
  unfold State.endRamp
  dsimp only
  split
  · rename_i h
    exact (s.put_moves src _ fun ha => SourceRec.settled_inRange (ha.1 src) h).trans (State.tell_moves _ _)
  · exact s.moves_refl

theorem State.holdSource_moves (S : Nat) (s : State) (src : Source) : s.moves P (State.holdSource S s src) := by
  unfold State.holdSource
  dsimp only
  split
  · exact s.moves_refl
  · exact (s.put_moves src _ fun ha => SourceRec.held_inRange (ha.1 src) _).trans (State.tell_moves _ _)

theorem State.airHold_moves (s : State) (length : Nat) : s.moves P (s.airHold length) :=
  (s.withAir_moves { s.air with hold := true } id).trans (foldl_moves _ (State.holdSource_moves _) _ _)

theorem State.restoreSource_moves (S : Nat) (s : State) (src : Source) : s.moves P (State.restoreSource S s src) := by
  unfold State.restoreSource
  dsimp only
  split
  · refine (s.put_moves src _ fun ha => SourceRec.rampTo_inRange (ha.1 src) _ _ ?_).trans (State.tell_moves _ _)
    have := (ha.1 src).2.2.1
    cases h : (s.air.sources.get src).saved with
    | none => simp
    | some x => simpa [h] using this
  · exact s.moves_refl

theorem State.airRestore_moves (s : State) (length : Nat) : s.moves P (s.airRestore length) :=
  (s.withAir_moves { s.air with hold := false } id).trans (foldl_moves _ (State.restoreSource_moves _) _ _)

theorem State.endDuck_moves (s : State) : s.moves P s.endDuck := by
  unfold State.endDuck
  split
  · refine s.withAir_moves _ fun ⟨h1, h2, h3, h4⟩ => ⟨h1, h3.2.1, ⟨h3.1, h3.2.1, by simp⟩, h4⟩
  · exact s.moves_refl

theorem State.openMic_moves (s : State) : s.moves P s.openMic := by
  unfold State.openMic
  split
  · exact s.moves_refl
  · exact s.moves_refl
  · exact State.airRamp_moves _ _ _ _

theorem State.closeMic_moves (s : State) : s.moves P s.closeMic := by
  unfold State.closeMic
  split <;> first | exact s.moves_refl | exact State.airRamp_moves _ _ _ _

theorem State.setMicGain_moves (s : State) (gain fade : Nat) (h : gain ≤ 32768) : s.moves P (s.setMicGain gain fade) := by
  have h0 : s.moves P { s with air := { s.air with micGain := gain, micFade := fade } } :=
    s.withAir_moves _ fun ⟨h1, h2, h3, h4, h5⟩ => ⟨h1, h2, h3, h4, h⟩
  unfold State.setMicGain
  dsimp only
  split
  · exact h0.trans (State.airRamp_moves _ _ _ _)
  · exact h0.trans (State.airRamp_moves _ _ _ _)
  · split
    · exact h0.trans (State.airRamp_moves _ _ _ _)
    · exact h0
  · exact h0
  · exact h0

theorem State.setDuck_moves (s : State) (depth time : Nat) (h : depth ≤ 32768) : s.moves P (s.setDuck depth time) := by
  have h0 : s.air.inRange → ({ s.air with duckDepth := depth, duckTime := time } : AirMap).inRange :=
    fun ⟨h1, h2, h3, h4, h5⟩ => ⟨h1, h2, h3, h, h5⟩
  unfold State.setDuck
  dsimp only
  split
  · exact s.withAir_moves _ fun ha => AirMap.retarget_inRange (h0 ha)
  · exact s.withAir_moves _ h0

/-! ## The clip store -/

theorem State.enqueue_moves (s : State) (r : ClipRequest) : s.moves P (s.enqueue r) := s.onClips_moves _ id
theorem State.beginSearch_moves (s : State) (p : Port) (n : Nat) : s.moves P (s.beginSearch p n) :=
  s.onClips_moves _ fun ⟨h1, h2, _⟩ => ⟨h1, h2, fun q hq => by
    cases hq
    show 1 ≤ min s.clips.capacity (max 1 n)
    have : 1 ≤ s.clips.capacity := by
      unfold ClipStore.capacity Config.pagePairs
      omega
    omega⟩
theorem State.endGrantOf_moves (s : State) (w : Requester) (b : Bool) : s.moves P (s.endGrantOf w b) :=
  s.onArbiter_moves _

theorem pagesFor_pos (n : Nat) (h : 1 ≤ n) : 1 ≤ pagesFor n := by
  unfold pagesFor Config.pagePairs
  omega

theorem State.endSearch_moves (s : State) (q : Search) (hq : s.clips.search = some q) : s.moves P (s.endSearch q).1 := by
  have h0 : s.moves P (s.onClips fun c => { c with search := none }) :=
    s.onClips_moves _ fun ⟨h1, h2, _⟩ => ⟨h1, h2, fun q hq => nomatch hq⟩
  unfold State.endSearch
  dsimp only
  split
  · rename_i f i hf hi
    have h1 : s.moves P (s.onClips fun c =>
        { c with search := none, pages := insertRun ⟨f, pagesFor q.pairs, i⟩ c.pages }) :=
      s.onClips_moves _ fun ⟨h1, h2, h3⟩ =>
        ⟨runsFrom_insert i (pagesFor_pos _ (h3 q hq)) h1 hf, h2, fun q hq => nomatch hq⟩
    have h2 : s.moves P ((s.onClips fun c => { c with search := none }).onPages (insertRun ⟨f, pagesFor q.pairs, i⟩)) :=
      h1.trans (State.summarize_moves _ _)
    dsimp only
    exact h2.trans (State.onClip_moves _ _ _)
  · exact h0

theorem PortState.pointTo_ahead (q : PortState) (c : Cursor) : (q.pointTo c).readAhead = q.readAhead := by
  unfold PortState.pointTo
  dsimp only
  split <;> rfl

theorem State.setCursor_moves (s : State) (p : Port) (clip offset : Nat) : s.moves P (s.setCursor p clip offset).1 := by
  unfold State.setCursor
  split
  · exact s.moves_refl
  · dsimp only
    split
    · exact s.moves_refl
    · dsimp only
      exact State.moves.after (State.endGrantOf_moves _ _ _) (s.onPort_moves_same p _ fun q => q.pointTo_ahead _)

theorem PortState.loseClip_ahead (i : Fin 128) (q : PortState) : (q.loseClip i).readAhead = q.readAhead := by
  unfold PortState.loseClip
  dsimp only
  split
  · split <;> rfl
  · rfl

theorem State.endDeadReads_moves (s : State) : s.moves P s.endDeadReads := by
  refine foldl_moves _ (fun s p => ?_) _ s
  split
  · exact State.endGrantOf_moves _ _ _
  · exact s.moves_refl

theorem State.clipWriteFault_moves (s : State) (p : Port) : s.moves P (s.clipWriteFault p) :=
  (s.count_moves _).trans (State.raise_moves _ _ _)

theorem State.drainPair_moves (s : State) (p : Port) : s.moves P (s.drainPair p) := by
  unfold State.drainPair
  split
  · exact s.moves_refl
  · dsimp only
    split
    · exact State.moves.after (State.clipWriteFault_moves _ _) (s.onPort_moves_same p _ fun _ => rfl)
    · exact State.moves.after (Relation.ReflTransGen.single (.sdram _ _ _)) (s.onPort_moves_same p _ fun _ => rfl)

theorem State.writeBurst_moves (s : State) (p : Port) (n : Nat) : s.moves P (s.writeBurst p n) :=
  foldl_moves _ (fun s _ => s.drainPair_moves p) _ s

/-- Fewer pairs of a burst have moved than it moves (R57). -/
theorem State.pairsMoved_lt (s : State) {n : Nat} (h : 0 < n) : s.pairsMoved n < n := by
  have := Nat.mod_lt (Config.pairsMoved s.arbiter.cuts) (show 0 < max 1 n by omega)
  unfold State.pairsMoved
  omega

/-- What has been written so far (R57): nothing, or fewer of a running write grant's pairs than it moves, which its port has
given and the grant has not still to move. -/
theorem State.writtenSoFar_cases (s : State) (f : BoundPair → Bool) :
    s.writtenSoFar f = s ∨
      ∃ (g : Grant) (p : Port) (k : Nat), s.arbiter.grant = some g ∧ g.holder = .port p ∧ g.writes = true ∧
        k < ((s.ports.get p).writeBuffer.take g.pairs).length ∧
        s.writtenSoFar f = (s.writeBurst p k).onArbiter fun a => a.moved k := by
  unfold State.writtenSoFar
  split
  · rename_i p n _ hg
    dsimp only
    split
    · rename_i h
      refine .inr ⟨_, p, _, hg, rfl, rfl, s.pairsMoved_lt (List.length_pos_of_ne_nil fun h0 => ?_), rfl⟩
      simp [h0] at h
    · exact .inl rfl
  · exact .inl rfl

/-- With no write grant running nothing is on its way to the SDRAM. -/
theorem State.writtenSoFar_idle (s : State) (f : BoundPair → Bool) (h : ∀ g ∈ s.arbiter.grant, g.writes = false) :
    s.writtenSoFar f = s := by
  rcases s.writtenSoFar_cases f with h0 | ⟨g, _, _, hg, _, hw, _, _⟩
  · exact h0
  · exact absurd (h g hg) (by simp [hw])

theorem State.writtenSoFar_moves (s : State) (f : BoundPair → Bool) : s.moves P (s.writtenSoFar f) := by
  rcases s.writtenSoFar_cases f with h | ⟨_, p, k, _, _, _, _, h⟩ <;> rw [h]
  · exact s.moves_refl
  · exact .after (State.onArbiter_moves _ _) (s.writeBurst_moves p k)

theorem State.endDeadWrite_moves (s : State) (p : Port) : s.moves P (s.endDeadWrite p) := by
  unfold State.endDeadWrite
  split
  · split
    · exact .after (State.endGrantOf_moves _ _ _) (s.writeBurst_moves _ _)
    · exact s.moves_refl
  · exact s.moves_refl

theorem State.endDeadWrites_moves (s : State) : s.moves P s.endDeadWrites :=
  .after (State.endDeadWrite_moves _ _) (.after (State.endDeadWrite_moves _ _) (s.endDeadWrite_moves _))

theorem State.becomeFree_moves (s : State) (i : Fin 128) : s.moves P (s.becomeFree i) := by
  unfold State.becomeFree
  have h0 : s.moves P ((s.onPages fun m => m.filter fun r => r.clip ≠ i).onClip i fun _ => .free) :=
    .after (State.onClip_moves _ _ _) (s.onPages_moves _ fun ho => ⟨runsFrom_filter _ ho.1, ho.2⟩)
  generalize ((s.onPages fun m => m.filter fun r => r.clip ≠ i).onClip i fun _ => .free) = u at h0
  have h1 : u.moves P { u with ports := u.ports.mapWith fun _ q => q.loseClip i } := by
    refine (Move.ports u _ fun p e he => ?_).moves
    rw [PerPort.get_mapWith, PortState.loseClip_ahead] at he
    exact .inl he
  have h2 := ((h0.trans h1).trans (State.endDeadReads_moves _)).trans (State.endDeadWrites_moves _)
  dsimp only
  split
  · exact h2.trans (State.raise_moves _ _ _)
  · exact h2

theorem State.takeSeal_moves (s : State) (p : Port) (q : Seal) : s.moves P (s.takeSeal p q).1 := by
  unfold State.takeSeal
  exact .after (State.endDeadWrites_moves _) (.after (State.onPort_moves_same _ p _ fun _ => rfl)
    (.after (State.onClip_moves _ _ _) (s.writtenSoFar_moves _)))

theorem State.sealClip_moves (s : State) (p : Port) (clip length : Nat) : s.moves P (s.sealClip p clip length).1 := by
  unfold State.sealClip
  split
  · exact s.moves_refl
  · dsimp only
    split_ifs <;> (try dsimp only) <;> first | exact s.moves_refl | exact State.takeSeal_moves _ _ _ | exact s.onPort_moves_same p _ fun q => rfl

theorem State.freeClip_moves (s : State) (p : Port) (clip : Nat) : s.moves P (s.freeClip p clip).1 := by
  unfold State.freeClip
  split
  · exact s.moves_refl
  · dsimp only
    split_ifs <;> (try dsimp only) <;> first
      | exact s.moves_refl | exact .after (State.becomeFree_moves _ _) (s.writtenSoFar_moves _) | exact s.onClip_moves _ _

theorem State.lockNow_moves (s : State) (i : Fin 128) : s.moves P (s.lockNow i).1 := by
  unfold State.lockNow
  dsimp only
  split
  · dsimp only
    exact s.onClip_moves _ _
  · exact s.moves_refl

theorem State.unlockNow_moves (s : State) (i : Fin 128) : s.moves P (s.unlockNow i) := by
  unfold State.unlockNow
  dsimp only
  split_ifs <;> first | exact s.moves_refl | exact State.becomeFree_moves _ _ | exact s.onClip_moves _ _

theorem State.unlockClip_moves (s : State) (i : Fin 128) : s.moves P (s.unlockClip i) := by
  unfold State.unlockClip
  split
  · exact s.enqueue_moves _
  · exact s.unlockNow_moves _

theorem State.requestLock_moves (s : State) (i : Fin 128) : s.moves P (s.requestLock i) := by
  unfold State.requestLock
  split
  · exact s.enqueue_moves _
  · exact (s.lockNow_moves i).trans (State.onClips_moves _ _ id)

/-! ## Clip data, fetches and grants -/

theorem State.placePair_moves (s : State) (p : Port) (v : Pair) : s.moves P (s.placePair p v) := by
  unfold State.placePair
  dsimp only
  split
  · exact State.moves.after (State.onPort_moves_same _ p _ fun _ => rfl) (s.onPort_moves_same p _ fun _ => rfl)
  · exact State.moves.after (State.clipWriteFault_moves _ _) (s.onPort_moves_same p _ fun _ => rfl)

theorem State.clipWrite_moves (s : State) (p : Port) (w : Word) : s.moves P (s.clipWrite p w) := by
  have h0 : s.moves P ((s.onPort p PortState.discardAhead).endGrantOf (.port p) false) :=
    State.moves.after (State.endGrantOf_moves _ _ _) (s.onPort_moves_same p _ fun _ => rfl)
  unfold State.clipWrite
  dsimp only
  refine h0.trans ?_
  split
  · split
    · exact State.placePair_moves _ _ _
    · exact State.onPort_moves_same _ p _ fun _ => rfl
  · exact State.onPort_moves_same _ p _ fun _ => rfl

theorem State.releaseWrite_moves (s : State) (p : Port) : s.moves P (s.releaseWrite p) := by
  unfold State.releaseWrite
  split
  · exact s.moves_refl
  · exact .after (State.placePair_moves _ _ _) (s.onPort_moves_same p (fun q => { q with wait := none }) fun q => rfl)

theorem PortState.takeWord_ahead (q : PortState) : q.takeWord.readAhead = q.readAhead := by
  unfold PortState.takeWord
  split <;> rfl

theorem State.readWord_moves (s : State) (p : Port) : s.moves P (s.readWord p) := by
  unfold State.readWord
  split
  · exact s.onPort_moves_same p _ fun q => rfl
  · split
    · exact s.onPort_moves_same p _ fun q => rfl
    · refine s.onPort_moves_same p _ fun q => ?_
      dsimp only
      split_ifs <;> (try dsimp only) <;> first | rfl | rw [PortState.takeWord_ahead]

theorem State.clipRead_moves (s : State) (p : Port) : s.moves P (s.clipRead p) :=
  State.moves.after (State.readWord_moves _ _) (s.onPort_moves_same p _ fun _ => rfl)

theorem State.releaseRead_moves (s : State) (p : Port) : s.moves P (s.releaseRead p) := by
  unfold State.releaseRead
  split
  · exact s.readWord_moves p
  · exact s.moves_refl

theorem State.portFetch_moves (s : State) (p : Port) (n : Nat) : s.moves P (s.portFetch p n) := by
  unfold State.portFetch
  dsimp only
  split
  · exact s.moves_refl
  · exact s.onPort_moves_same p _ fun q => rfl

theorem DeckRec.fetch_placed (m : Mem 48) (r : DeckRec) (n : Nat) (h : r.placed) : (r.fetch m n).placed := by
  obtain ⟨h1, h2, h3⟩ := h
  unfold DeckRec.fetch
  dsimp only
  split
  · exact ⟨h1, h2, h3⟩
  · rename_i c hc
    split
    · refine ⟨?_, h2, h3⟩
      intro x hx
      cases hx
      exact h1 c hc
    · split
      · rename_i x hx
        refine ⟨h1, ?_, h3⟩
        intro y hy
        cases hy
        exact h2 x hx
      · exact ⟨h1, h2, h3⟩

theorem State.give_moves (s : State) (w : Requester) (n : Nat) (b : Bool) : s.moves P (s.give w n b) :=
  s.onArbiter_moves _

theorem State.grantNext_moves (s : State) : s.moves P s.grantNext := by
  unfold State.grantNext
  split
  · exact s.onArbiter_moves _
  · exact s.give_moves _ _ _
  · exact s.give_moves _ _ _

theorem State.arbitrate_moves (s : State) : s.moves P s.arbitrate := by
  unfold State.arbitrate
  split
  · exact s.grantNext_moves
  · exact s.moves_refl

theorem State.cutDeck_moves (s : State) (d : DeckId) : s.moves P (s.cutDeck d) := by
  unfold State.cutDeck
  split
  · split
    · exact .after (State.onArbiter_moves _ _) (s.onDeck_moves _ _ fun h => DeckRec.fetch_placed _ _ _ h)
    · exact s.moves_refl
  · exact s.moves_refl

theorem State.moveBurst_moves (s : State) (g : Grant) : s.moves P (s.moveBurst g) := by
  unfold State.moveBurst
  split
  · exact s.onAlert_moves _
  · exact s.onDeck_moves _ _ fun h => DeckRec.fetch_placed _ _ _ h
  · exact s.onDeadAir_moves _
  · split
    · exact s.writeBurst_moves _ _
    · exact s.portFetch_moves _ _

theorem State.burstDone_moves (s : State) : s.moves P s.burstDone := by
  unfold State.burstDone
  split
  · exact s.moves_refl
  · rename_i g _
    dsimp only
    refine ((s.moveBurst_moves g).trans (State.onArbiter_moves _ fun a => { a with grant := none })).trans ?_
    split_ifs
    · exact State.grantNext_moves _
    · exact State.give_moves _ _ _ _
    · exact State.moves_refl _

end Sys2Proof.Machine
end

