-- ==== Sys2Proof/Laws/MovesDecks.lean ====
section
/-!
SUPPORT. Laws/MovesDecks.lean: the operations of the decks and of the line controller as chains of moves.
-/
namespace Sys2Proof.Machine

variable {P : Prop}

/-! ## Answers -/

theorem State.answer_moves (s : State) (p : Port) (r : Reply) : s.moves P (s.answer p r) := by
  unfold State.answer
  dsimp only
  split
  · exact s.moves_refl
  · exact .after (.after (State.onPort_moves_same _ p _ fun _ => rfl) (State.xmWrite_moves _ _ _)) (s.xmWriteBlock_moves _ _)
  · exact .after (.after (State.onPort_moves_same _ p _ fun _ => rfl) (State.xmWrite_moves _ _ _)) (s.xmWriteBlock_moves _ _)

/-! ## Cue records -/

theorem State.writeCompletion_moves (s : State) (a : Nat) (st : CueStatus) (n : Nat) (f : Option CueFault) :
    s.moves P (s.writeCompletion a st n f) := s.xmWriteBlock_moves _ _

theorem State.markFault_moves (s : State) (d : DeckId) (a : Nat) (f : CueFault) : s.moves P (s.markFault d a f) := by
  unfold State.markFault
  dsimp only
  refine .after (State.onDeck_moves _ d _ fun h => h) (.after (State.count_moves _ _) (.after (State.raiseAll_moves _ _) ?_))
  split
  · exact s.moves_refl
  · exact s.writeCompletion_moves _ _ _ _

/-- A record read gives a cue of the address it was read from. -/
theorem State.lockedRead_address {s : State} {d : DeckId} {a : Nat} {ws : List Word} {i : Fin 128} {c : Cue}
    (h : (s.lockedRead d a ws i).2 = .good c) : c.address = a := by
  unfold State.lockedRead at h
  split at h
  · simp at h
  · split at h
    · simp only [ReadResult.good.injEq] at h
      rw [← h]
      rfl
    · simp at h

theorem State.lockedRead_moves (s : State) (d : DeckId) (a : Nat) (ws : List Word) (i : Fin 128) :
    s.moves P (s.lockedRead d a ws i).1 := by
  have h0 := s.lockNow_moves (P := P) i
  unfold State.lockedRead
  split
  · rename_i u _ heq
    rw [heq] at h0
    exact h0.trans (State.markFault_moves _ _ _ _)
  · rename_i u _ _ _ heq
    rw [heq] at h0
    split
    · exact (h0.trans (State.writeCompletion_moves _ _ _ _ _)).trans (State.onDeck_moves _ d _ fun h => h)
    · exact (h0.trans (State.unlockNow_moves _ _)).trans (State.markFault_moves _ _ _ _)

theorem State.readRecord_moves (s : State) (d : DeckId) (a : Nat) (ctx : ReadContext) :
    s.moves P (s.readRecord d a ctx).1 := by
  unfold State.readRecord
  split
  · exact s.markFault_moves _ _ _
  · rename_i h
    dsimp only
    split
    · exact s.markFault_moves _ _ _
    · split
      · refine .after (State.enqueue_moves _ _) (s.onDeck_moves d _ fun ⟨h1, h2, _⟩ => ⟨h1, h2, ?_⟩)
        intro q hq
        cases hq
        exact ⟨Nat.le_of_not_lt fun hc => h (.inl hc), Nat.le_of_not_lt fun hc => h (.inr hc)⟩
      · exact s.lockedRead_moves _ _ _ _

theorem State.readRecord_address {s : State} {d : DeckId} {a : Nat} {ctx : ReadContext} {c : Cue}
    (h : (s.readRecord d a ctx).2 = .good c) : inCueArea c.address := by
  unfold State.readRecord at h
  split at h
  · simp at h
  · rename_i ha
    dsimp only at h
    split at h
    · simp at h
    · split at h
      · simp at h
      · rw [State.lockedRead_address h]
        exact ⟨by omega, by omega⟩

/-- What a deck's found cue is: one of the cue area. -/
def WalkResult.placed : WalkResult → Prop
  | .found c => inCueArea c.address
  | _ => True

theorem State.walk_moves (fuel : Nat) (s : State) (d : DeckId) (link : Nat) (ctx : ReadContext) :
    s.moves P (State.walk fuel s d link ctx).1 ∧ (State.walk fuel s d link ctx).2.placed := by
  induction fuel generalizing s link with
  | zero => exact ⟨s.moves_refl, trivial⟩
  | succ n ih =>
    unfold State.walk
    split
    · exact ⟨s.moves_refl, trivial⟩
    · have h0 := s.readRecord_moves (P := P) d link ctx
      have h1 : ∀ c, (s.readRecord d link ctx).2 = .good c → inCueArea c.address := fun c => State.readRecord_address
      split
      · rename_i heq
        rw [heq] at h0 h1
        exact ⟨h0, h1 _ rfl⟩
      · rename_i heq
        rw [heq] at h0
        exact ⟨h0, trivial⟩
      · rename_i u f heq
        rw [heq] at h0
        have h2 := h0.trans (u.onDeck_moves d (fun r => { r with faultStreak := r.faultStreak + 1 }) fun h => h)
        dsimp only at h2 ⊢
        split
        · exact ⟨h2, trivial⟩
        · split
          · exact ⟨h2, trivial⟩
          · exact ⟨h2.trans (ih _ _).1, (ih _ _).2⟩

theorem State.walkFrom_moves (s : State) (d : DeckId) (a : Nat) (ctx : ReadContext) : s.moves P (s.walkFrom d a ctx).1 :=
  (State.walk_moves _ _ _ _ _).1
theorem State.walkFrom_placed (s : State) (d : DeckId) (a : Nat) (ctx : ReadContext) : (s.walkFrom d a ctx).2.placed :=
  (State.walk_moves (P := True) _ _ _ _ _).2

/-! ## Entering IDLE or SUSPENDED, starting, going on -/

theorem State.releaseCue_moves (s : State) (c : Option Cue) : s.moves P (s.releaseCue c) := by
  unfold State.releaseCue
  split
  · exact s.unlockClip_moves _
  · exact s.moves_refl

theorem State.rest_moves (s : State) (d : DeckId) (resume : Option Nat) : s.moves P (s.rest d resume) := by
  unfold State.rest
  dsimp only
  generalize s.decks.get d = r
  have h0 : s.moves P (if (s.air.sources.get (.deck d)).state = .off then s else (s.airCut (.deck d)).1) := by
    split
    · exact s.moves_refl
    · exact s.airCut_moves _
  generalize (if (s.air.sources.get (.deck d)).state = .off then s else (s.airCut (.deck d)).1) = u at h0
  have h1 := ((h0.trans (State.endGrantOf_moves u (.deck d) false)).trans (State.releaseCue_moves _ r.current)).trans
    (State.releaseCue_moves _ r.next)
  generalize ((u.endGrantOf (.deck d) false).releaseCue r.current).releaseCue r.next = v at h1
  have h3 : ∀ w : State, s.moves P w → s.moves P (if raisesStopped r.notify r.state resume.isNone then
      (w.onDeck d fun r =>
        { r with state := if resume.isSome then .suspended else .idle
                 current := none, next := none, buffer := [], playPending := false
                 pendingEnd := .none, heldSilent := false, resumeAddress := resume }).raiseAll .deckStopped
      else (w.onDeck d fun r =>
        { r with state := if resume.isSome then .suspended else .idle
                 current := none, next := none, buffer := [], playPending := false
                 pendingEnd := .none, heldSilent := false, resumeAddress := resume })) := by
    intro w hw
    split
    · refine .after (State.raiseAll_moves _ _) (.after (w.onDeck_moves d _ fun h => ?_) hw)
      exact ⟨(fun _ hx => nomatch hx), (fun _ hx => nomatch hx), h.2.2⟩
    · refine .after (w.onDeck_moves d _ fun h => ?_) hw
      exact ⟨(fun _ hx => nomatch hx), (fun _ hx => nomatch hx), h.2.2⟩
  cases r.next with
  | none => exact h3 _ h1
  | some n => exact h3 _ (h1.trans (State.writeCompletion_moves _ _ _ _ _))

theorem State.startCue_moves (s : State) (d : DeckId) : s.moves P (s.startCue d) := by
  unfold State.startCue
  split
  · exact s.moves_refl
  · rename_i c hc
    dsimp only
    have h1 := s.writeCompletion_moves (P := P) c.address .playing 0 none
    have hd : (s.writeCompletion c.address .playing 0 none).decks = s.decks := rfl
    generalize s.writeCompletion c.address .playing 0 none = u at h1 hd
    have h2 : ∀ w : State × Answer, (∃ t l, w = u.airRamp (.deck d) t l) → s.moves P (w.1.onDeck d fun r =>
        { r with state := if w.2 = .deferred then .held else .playing
                 current := some { c with played := 0, fadeDone := decide (0 < c.fadeOut ∧ c.fadePoint = 0)
                                          segueDone := c.segues && decide (0 < c.segue ∧ c.seguePoint = 0) } }) := by
      rintro w ⟨t, l, rfl⟩
      have hair : (u.airRamp (.deck d) t l).1.decks = u.decks := by
        unfold State.airRamp
        dsimp only
        split_ifs <;> rfl
      refine (h1.trans (u.airRamp_moves _ _ _)).trans (State.onDeck_moves _ d _ fun h => ⟨?_, h.2.1, h.2.2⟩)
      intro x hx
      cases hx
      rw [hair, hd] at h
      exact h.1 c hc
    have h3 : ∀ w : State × Answer, (∃ t l, w = u.airRamp (.deck d) t l) → ∀ b : Bool, s.moves P (if b then
        (w.1.onDeck d fun r =>
        { r with state := if w.2 = .deferred then .held else .playing
                 current := some { c with played := 0, fadeDone := decide (0 < c.fadeOut ∧ c.fadePoint = 0)
                                          segueDone := c.segues && decide (0 < c.segue ∧ c.seguePoint = 0) } }).tell
          [.segue d.other] else (w.1.onDeck d fun r =>
        { r with state := if w.2 = .deferred then .held else .playing
                 current := some { c with played := 0, fadeDone := decide (0 < c.fadeOut ∧ c.fadePoint = 0)
                                          segueDone := c.segues && decide (0 < c.segue ∧ c.seguePoint = 0) } })) := by
      intro w hw b
      cases b
      · exact h2 w hw
      · exact (h2 w hw).trans (State.tell_moves _ _)
    by_cases hf : decide (0 < c.fadeOut ∧ c.fadePoint = 0) = true
    · rw [if_pos hf]
      exact h3 _ ⟨_, _, rfl⟩ _
    · rw [if_neg hf]
      exact h3 _ ⟨_, _, rfl⟩ _

theorem State.loadPending_moves (s : State) (d : DeckId) (c : Cue) (hc : inCueArea c.address) :
    s.moves P (s.loadPending d c) :=
  s.onDeck_moves d _ fun h => ⟨fun x hx => by cases hx; exact hc, by simp, h.2.2⟩

theorem State.finishReread_moves (s : State) (d : DeckId) (a : Nat) (w : WalkResult) (hw : w.placed) :
    s.moves P (s.finishReread d a w) := by
  cases w with
  | found c => exact s.loadPending_moves d c hw
  | waits => exact s.moves_refl
  | none => exact s.rest_moves _ _
  | exhausted => exact s.rest_moves _ _

theorem State.goOn_moves (s : State) (d : DeckId) (a : Nat) (holds ends : Bool) : s.moves P (s.goOn d a holds ends) := by
  unfold State.goOn
  dsimp only
  split
  · rename_i n hn
    exact .after (State.startCue_moves _ d)
      (s.onDeck_moves d _ fun h => ⟨fun x hx => by cases hx; exact h.2.1 n hn, by simp, h.2.2⟩)
  · split_ifs
    · exact s.rest_moves _ _
    · exact s.rest_moves _ _
    · exact (s.walkFrom_moves _ _ _).trans (State.finishReread_moves _ _ _ _ (s.walkFrom_placed _ _ _))

theorem State.finishSkip_moves (s : State) (d : DeckId) (a : Nat) (ends : Bool) (w : WalkResult) (hw : w.placed) :
    s.moves P (s.finishSkip d a ends w) := by
  cases w with
  | found c => exact s.loadPending_moves d c hw
  | waits => exact s.moves_refl
  | none => exact .after (State.goOn_moves _ _ _ _ _) (s.onDeck_moves d _ fun h => h)
  | exhausted => exact .after (State.goOn_moves _ _ _ _ _) (s.onDeck_moves d _ fun h => h)

theorem State.finishLookahead_moves (s : State) (d : DeckId) (w : WalkResult) (hw : w.placed) :
    s.moves P (s.finishLookahead d w) := by
  cases w with
  | found c => exact s.onDeck_moves d _ fun h => ⟨h.1, fun x hx => by cases hx; exact hw, h.2.2⟩
  | waits => exact s.moves_refl
  | none => exact s.onDeck_moves d _ fun h => h
  | exhausted => exact s.onDeck_moves d _ fun h => h

theorem State.finishResume_moves (s : State) (d : DeckId) (w : WalkResult) (hw : w.placed) :
    s.moves P (s.finishResume d w) := by
  unfold State.finishResume
  cases w with
  | found c => exact .after (State.answer_moves _ _ _) (s.loadPending_moves d c hw)
  | waits => exact s.moves_refl
  | none => exact State.answer_moves _ _ _
  | exhausted => exact State.answer_moves _ _ _

theorem State.finishLoad_moves (s : State) (d : DeckId) (w : ReadResult) (hw : ∀ c, w = .good c → inCueArea c.address) :
    s.moves P (s.finishLoad d w) := by
  unfold State.finishLoad
  cases w with
  | good c =>
    exact .after (State.answer_moves _ _ _)
      (s.onDeck_moves d _ fun h => ⟨fun x hx => by cases hx; exact hw c rfl, by simp, h.2.2⟩)
  | waits => exact s.moves_refl
  | faulty f =>
    dsimp only
    refine .after (State.answer_moves _ _ _) ?_
    split
    · exact s.raiseAll_moves _
    · exact s.moves_refl

theorem State.makeLookahead_moves (s : State) (d : DeckId) : s.moves P (s.makeLookahead d) := by
  unfold State.makeLookahead
  dsimp only
  split
  · split
    · exact (s.walkFrom_moves _ _ _).trans (State.finishLookahead_moves _ _ _ (s.walkFrom_placed _ _ _))
    · exact s.moves_refl
  · exact s.moves_refl

/-! ## Ends and points -/

theorem State.writeCut_moves (s : State) (d : DeckId) : s.moves P (s.writeCut d) := by
  unfold State.writeCut
  split
  · exact s.moves_refl
  · dsimp only
    split
    · exact (s.writeCompletion_moves _ _ _ _).trans (State.raiseAll_moves _ _)
    · exact s.writeCompletion_moves _ _ _ _

theorem State.stopDone_moves (s : State) (d : DeckId) : s.moves P (s.stopDone d) :=
  (s.writeCut_moves d).trans (State.rest_moves _ _ _)

theorem State.skipDone_moves (s : State) (d : DeckId) : s.moves P (s.skipDone d) := by
  unfold State.skipDone
  dsimp only
  split
  · exact s.moves_refl
  · rename_i c _
    have h1 := (s.writeCut_moves (P := P) d).trans (State.unlockClip_moves _ c.clip)
    generalize (s.writeCut d).unlockClip c.clip = u at h1
    have h2 : s.moves P (if c.played < c.length then u.cutDeck d else u) := by
      split
      · exact h1.trans (State.cutDeck_moves _ _)
      · exact h1
    generalize (if c.played < c.length then u.cutDeck d else u) = v at h2
    have h3 : v.moves P (v.onDeck d fun r =>
        { r with current := none, pendingEnd := .none, buffer := r.buffer.drop r.ownPairs }) :=
      v.onDeck_moves d _ fun h => ⟨by simp, h.2.1, h.2.2⟩
    split
    · exact ((h2.trans h3).trans (State.walkFrom_moves _ _ _ _)).trans
        (State.finishSkip_moves _ _ _ _ _ (State.walkFrom_placed _ _ _ _))
    · exact (h2.trans h3).trans (State.goOn_moves _ _ _ _ _)

theorem State.endPending_moves (s : State) (d : DeckId) : s.moves P (s.endPending d) := by
  unfold State.endPending
  split
  · exact s.moves_refl
  · exact s.stopDone_moves d
  · exact s.skipDone_moves d

theorem State.playedOut_moves (s : State) (d : DeckId) : s.moves P (s.playedOut d) := by
  unfold State.playedOut
  split
  · exact s.moves_refl
  · rename_i c _
    dsimp only
    refine .after (State.goOn_moves _ _ _ _ _) (.after (State.onDeck_moves _ d _ fun h => ⟨by simp, h.2.1, h.2.2⟩)
      (.after (State.unlockClip_moves _ _) ?_))
    split
    · exact (s.writeCompletion_moves _ _ _ _).trans (State.raiseAll_moves _ _)
    · exact s.writeCompletion_moves _ _ _ _

theorem State.endCue_moves (s : State) (d : DeckId) : s.moves P (s.endCue d) := by
  unfold State.endCue
  dsimp only
  have h0 := s.makeLookahead_moves (P := P) d
  split_ifs
  · exact h0
  · exact h0.trans (State.playedOut_moves _ _)
  · exact h0.trans (State.endPending_moves _ _)
  · exact s.moves_refl

theorem State.airRamp_decks (s : State) (src : Source) (t l : Nat) : (s.airRamp src t l).1.decks = s.decks := by
  unfold State.airRamp
  dsimp only
  split_ifs <;> rfl

theorem State.fadeOutPoint_moves (s : State) (d : DeckId) : s.moves P (s.fadeOutPoint d) := by
  unfold State.fadeOutPoint
  dsimp only
  split
  · split
    · rename_i c hc
      refine (s.airRamp_moves _ _ _).trans (State.onDeck_moves _ d _ fun h => ⟨?_, h.2⟩)
      rw [State.airRamp_decks] at h
      intro x hx
      cases hx
      exact h.1 c hc
    · exact s.moves_refl
  · exact s.moves_refl

theorem State.seguePoint_moves (s : State) (d : DeckId) : s.moves P (s.seguePoint d) := by
  unfold State.seguePoint
  dsimp only
  split
  · split
    · rename_i c hc
      refine .after (State.tell_moves _ _) (s.onDeck_moves d _ fun h => ⟨?_, h.2⟩)
      intro x hx
      cases hx
      exact h.1 c hc
    · exact s.moves_refl
  · exact s.moves_refl

theorem State.deckPrimed_moves (s : State) (d : DeckId) : s.moves P (s.deckPrimed d) := by
  unfold State.deckPrimed
  dsimp only
  split
  · split
    · exact .after (State.startCue_moves _ d) (s.onDeck_moves d _ fun h => h)
    · exact s.onDeck_moves d _ fun h => h
  · exact s.moves_refl

/-! ## Commands and what reaches a deck -/

theorem State.loadDeck_moves (s : State) (d : DeckId) (a : Nat) : s.moves P (s.loadDeck d a).1 := by
  unfold State.loadDeck
  dsimp only
  split
  · exact s.moves_refl
  · refine .after (State.finishLoad_moves _ _ _ fun c => State.readRecord_address) (.after (State.readRecord_moves _ _ _ _)
      (s.onDeck_moves d _ fun h => h))

theorem State.playDeck_moves (s : State) (d : DeckId) : s.moves P (s.playDeck d).1 := by
  unfold State.playDeck
  dsimp only
  split
  · exact s.startCue_moves d
  · exact s.onDeck_moves d _ fun h => h
  · exact s.moves_refl

theorem State.fadeToEnd_moves (s : State) (d : DeckId) (fade : Nat) : s.moves P (s.fadeToEnd d fade) := by
  unfold State.fadeToEnd
  dsimp only
  split
  · exact (s.airRamp_moves _ _ _).trans (State.endPending_moves _ _)
  · exact s.airRamp_moves _ _ _

theorem State.stopDeck_moves (s : State) (d : DeckId) (fade : Nat) : s.moves P (s.stopDeck d fade).1 := by
  unfold State.stopDeck
  dsimp only
  split
  · exact .after (State.fadeToEnd_moves _ _ _) (s.onDeck_moves d _ fun h => h)
  · exact .after (State.fadeToEnd_moves _ _ _) (s.onDeck_moves d _ fun h => h)
  · exact s.stopDone_moves d
  · exact s.stopDone_moves d
  · exact s.rest_moves _ _
  · exact s.moves_refl

theorem State.skipDeck_moves (s : State) (d : DeckId) (fade : Nat) : s.moves P (s.skipDeck d fade).1 := by
  unfold State.skipDeck
  dsimp only
  split
  · have h0 : s.moves P ((s.onDeck d fun r =>
        { r with pendingEnd := .skip, pendingFade := min fade 10000 }).fadeToEnd d (min fade 10000)) :=
      .after (State.fadeToEnd_moves _ _ _) (s.onDeck_moves d _ fun h => h)
    split
    · exact .after (State.onDeck_moves _ d _ fun h => h) h0
    · exact h0
  · exact s.moves_refl

theorem State.answerSkip_moves (s : State) (d : DeckId) : s.moves P (s.answerSkip d) := by
  unfold State.answerSkip
  dsimp only
  split
  · exact .after (State.answer_moves _ _ _) (s.onDeck_moves d _ fun h => h)
  · exact s.moves_refl

theorem State.resumeDeck_moves (s : State) (d : DeckId) : s.moves P (s.resumeDeck d).1 := by
  unfold State.resumeDeck
  dsimp only
  split
  · exact .after (State.finishResume_moves _ _ _ (State.walkFrom_placed _ _ _ _)) (.after (State.walkFrom_moves _ _ _ _)
      (s.onDeck_moves d _ fun h => h))
  · exact s.moves_refl

theorem State.notifyDeck_moves (s : State) (d : DeckId) (mode : Nat) : s.moves P (s.notifyDeck d mode).1 := by
  unfold State.notifyDeck
  split
  · exact s.moves_refl
  · exact s.onDeck_moves d _ fun h => h

theorem State.deckCommand_moves (s : State) (c : Command) (d : DeckId) (ws : List Word) :
    s.moves P (s.deckCommand c d ws).1 := by
  unfold State.deckCommand
  split
  · exact s.loadDeck_moves _ _
  · exact s.playDeck_moves _
  · exact s.stopDeck_moves _ _
  · exact s.skipDeck_moves _ _
  · exact s.resumeDeck_moves _
  · exact s.notifyDeck_moves _ _
  · exact s.moves_refl

theorem State.deckState_moves (s : State) (d : DeckId) (st : SourceState) : s.moves P (s.deckState d st) := by
  unfold State.deckState
  dsimp only
  split
  · split
    · exact s.onDeck_moves d _ fun h => h
    · exact s.moves_refl
  · have h0 : ∀ u : State, s.moves P u →
        s.moves P (if st = .off ∧ (u.decks.get d).live = true then u.endPending d else u) := by
      intro u hu
      split
      · exact hu.trans (State.endPending_moves _ _)
      · exact hu
    split
    · exact h0 _ (s.onDeck_moves d _ fun h => h)
    · exact h0 _ (s.onDeck_moves d _ fun h => h)
    · exact h0 _ s.moves_refl

theorem State.deckSilent_moves (s : State) (d : DeckId) : s.moves P (s.deckSilent d) := by
  unfold State.deckSilent
  dsimp only
  split
  · exact .after (State.endPending_moves _ _) (s.onDeck_moves d _ fun h => h)
  · exact s.onDeck_moves d _ fun h => h

theorem State.deckSegue_moves (s : State) (d : DeckId) : s.moves P (s.deckSegue d) := by
  unfold State.deckSegue
  split
  · exact s.startCue_moves d
  · exact s.onDeck_moves d _ fun h => h
  · exact (s.raiseAll_moves _).trans (State.count_moves _ _)

theorem State.deckHandle_moves (s : State) (d : DeckId) (m : DeckMessage) : s.moves P (s.deckHandle d m) := by
  unfold State.deckHandle
  split
  · exact s.deckState_moves d _
  · exact s.deckSilent_moves d
  · exact s.deckSegue_moves d
  · split
    · exact s.moves_refl
    · split
      · exact s.moves_refl
      · exact (s.deckCommand_moves _ _ _).trans (State.answer_moves _ _ _)

theorem State.deckTake_moves (s : State) (d : DeckId) (m : DeckMessage) : s.moves P (s.deckTake d m) := by
  unfold State.deckTake
  split
  · exact s.onDeck_moves d _ fun h => h
  · exact s.deckHandle_moves d m

theorem State.fetchesTaken_moves (s : State) (d : DeckId) : s.moves P (s.fetchesTaken d) :=
  (s.makeLookahead_moves d).trans (State.deckPrimed_moves _ d)

theorem State.takesUpTo_moves (s : State) (d : DeckId) (n : Nat) : s.moves P (s.takesUpTo d n) := by
  have h1 : s.moves P (if ((s.decks.get d).upTo n).fadeDue then s.fadeOutPoint d else s) := by
    split
    · exact s.fadeOutPoint_moves d
    · exact s.moves_refl
  unfold State.takesUpTo
  generalize (if ((s.decks.get d).upTo n).fadeDue then s.fadeOutPoint d else s) = u at h1
  have h2 : u.moves P (if ((u.decks.get d).upTo n).segueDue then u.seguePoint d else u) := by
    split
    · exact u.seguePoint_moves d
    · exact u.moves_refl
  dsimp only
  generalize (if ((u.decks.get d).upTo n).segueDue then u.seguePoint d else u) = v at h2
  refine (h1.trans h2).trans ?_
  split
  · exact v.endCue_moves d
  · exact v.moves_refl

theorem State.deckDrain_moves (fuel : Nat) (s : State) (d : DeckId) : s.moves P (State.deckDrain fuel s d) := by
  induction fuel generalizing s with
  | zero => exact s.moves_refl
  | succ n ih =>
    unfold State.deckDrain
    split
    · exact s.moves_refl
    · rename_i m t _
      have h := ((s.fetchesTaken_moves (P := P) d).trans (State.takesUpTo_moves _ d m.played)).trans
        (State.fetchesTaken_moves _ d)
      dsimp only
      generalize ((s.fetchesTaken d).takesUpTo d m.played).fetchesTaken d = u at h
      refine h.trans ?_
      split
      · exact u.moves_refl
      · exact .after (ih _) (.after (State.deckHandle_moves _ _ _) (u.onDeck_moves d _ fun h => h))

theorem State.deckMailbox_moves (s : State) (c : Command) (ws : List Word) : s.moves P (s.deckMailbox c ws).1 := by
  unfold State.deckMailbox
  split
  · exact s.moves_refl
  · split
    · exact s.deckTake_moves _ _
    · exact s.deckCommand_moves _ _ _

theorem State.finishWalk_moves (s : State) (d : DeckId) (ctx : ReadContext) (w : WalkResult) (hw : w.placed) :
    s.moves P (s.finishWalk d ctx w) := by
  unfold State.finishWalk
  split
  · exact s.moves_refl
  · exact s.finishLookahead_moves _ _ hw
  · exact s.finishSkip_moves _ _ _ _ hw
  · exact s.finishReread_moves _ _ _ hw
  · exact s.finishResume_moves _ _ hw

end Sys2Proof.Machine
end

