-- ==== Sys2Proof/Laws/MovesRows.lean ====
section
/-!
SUPPORT. Laws/MovesRows.lean: the remaining operations as chains of moves, up to the commands themselves: what any command
but RESET_N_ASSERT can do.
-/
namespace Sys2Proof.Machine

variable {P : Prop}

/-! ## Lamps and link -/

theorem State.lampInput_moves (s : State) (i : LampInput) : s.moves P (s.lampInput i) :=
  s.onLamps_moves fun _ => _

theorem State.flashOver_moves (s : State) (l : Lamp) : s.moves P (s.flashOver l) := by
  unfold State.flashOver
  dsimp only
  split
  · exact s.onLamps_moves _
  · exact s.moves_refl

theorem State.offerPriority_moves (s : State) (f : Frame) : s.moves P (s.offerPriority f) := by
  unfold State.offerPriority
  split
  · exact .after (State.look_moves _) (s.onLink_moves _)
  · exact s.count_moves _

theorem State.offerProgram_moves (s : State) (f : Frame) : s.moves P (s.offerProgram f) := by
  unfold State.offerProgram
  split
  · exact .after (State.look_moves _) (s.onLink_moves _)
  · exact .after (State.look_moves _) (.after (State.count_moves _ _) (s.onLink_moves _))

theorem State.formStatus_moves (s : State) : s.moves P s.formStatus := by
  unfold State.formStatus
  split
  · exact .after (State.offerPriority_moves _ _) (s.onLink_moves fun _ => _)
  · exact s.moves_refl

theorem State.studioChange_moves (s : State) (c : StudioChange) : s.moves P (s.studioChange c) := by
  unfold State.studioChange
  dsimp only
  split
  · exact s.onLink_moves _
  · exact .after (State.formStatus_moves _) (s.onLink_moves _)

theorem State.promote_moves (s : State) : s.moves P s.promote := .after (State.look_moves _) (s.onLink_moves _)

theorem State.handNotice_moves (s : State) (n : AlertNotice) : s.moves P (s.handNotice n) := by
  unfold State.handNotice
  split
  · exact .after (State.offerPriority_moves _ _) (s.onLink_moves fun _ => _)
  · exact s.moves_refl

theorem State.formProgram_moves (s : State) : s.moves P s.formProgram := by
  unfold State.formProgram
  split
  · exact .after (State.offerProgram_moves _ _) (s.onLink_moves fun _ => _)
  · exact s.moves_refl

theorem State.endPause_moves (s : State) : s.moves P s.endPause := by
  unfold State.endPause
  split
  · exact .after (State.lampInput_moves _ _) (.after (State.look_moves _) (s.onLink_moves _))
  · exact s.moves_refl

theorem State.withLink_moves (s : State) (l : Link) : s.moves P { s with link := l } :=
  Relation.ReflTransGen.single (.rest s _ rfl rfl rfl rfl rfl rfl rfl rfl rfl rfl)

theorem State.startPause_moves (s : State) (t ms : Nat) : s.moves P (s.startPause t ms) :=
  .after (State.lampInput_moves _ _) (.after (State.look_moves _) (.after (State.force_moves _ _) (s.withLink_moves _)))

theorem State.linkUp_moves (s : State) : s.moves P s.linkUp :=
  .after (State.formStatus_moves _) (.after (State.lampInput_moves _ _) (.after (State.raiseAll_moves _ _)
    (s.onLink_moves _)))

theorem State.keepAlive_moves (s : State) (n : BitVec 16) : s.moves P (s.keepAlive n) := by
  unfold State.keepAlive
  dsimp only
  split
  · exact .after (State.onLink_moves _ _) (.after (State.force_moves _ _) (s.onLink_moves _))
  · exact .after (State.linkUp_moves _) (.after (State.force_moves _ _) (s.onLink_moves _))

theorem State.linkLost_moves (s : State) : s.moves P s.linkLost := by
  unfold State.linkLost
  split
  · exact .after (State.endPause_moves _) (.after (State.lampInput_moves _ _) (.after (State.count_moves _ _)
      (.after (State.raiseAll_moves _ _) (s.onLink_moves _))))
  · exact s.moves_refl

theorem State.pauseOver_moves (s : State) : s.moves P s.pauseOver := by
  unfold State.pauseOver
  split
  · split
    · exact s.endPause_moves
    · exact s.moves_refl
  · exact s.moves_refl

theorem State.hunt_moves (s : State) : s.moves P s.hunt := s.onLink_moves _

theorem State.receivePause_moves (s : State) (bytes : List Byte) : s.moves P (s.receivePause bytes) := by
  unfold State.receivePause
  split
  · split
    · have h0 : ∀ n, s.moves P (((s.hunt).keepAlive n).count .rxPause) := fun n =>
        .after (State.count_moves _ _) (.after (State.keepAlive_moves _ _) s.hunt_moves)
      dsimp only
      split
      · exact .after (State.endPause_moves _) (h0 _)
      · exact .after (State.startPause_moves _ _ _) (h0 _)
    · exact s.moves_refl
  · exact s.moves_refl

theorem State.receiveStatus_moves (s : State) (bytes : List Byte) : s.moves P (s.receiveStatus bytes) := by
  unfold State.receiveStatus
  split
  · split
    · dsimp only
      split
      · exact .after (State.raiseAll_moves _ _) (.after (State.onLink_moves _ _) (.after (State.keepAlive_moves _ _)
          s.hunt_moves))
      · exact .after (State.onLink_moves _ _) (.after (State.keepAlive_moves _ _) s.hunt_moves)
    · exact s.moves_refl
  · exact s.moves_refl

theorem State.receiveBadCheck_moves (s : State) (bytes : List Byte) : s.moves P (s.receiveBadCheck bytes) := by
  unfold State.receiveBadCheck
  split
  · exact .after (State.count_moves _ _) s.hunt_moves
  · exact s.moves_refl

theorem State.receiveBadFrame_moves (s : State) (bytes : List Byte) : s.moves P (s.receiveBadFrame bytes) := by
  unfold State.receiveBadFrame
  split
  · exact .after (State.count_moves _ _) s.hunt_moves
  · exact s.moves_refl

theorem State.readBits_moves (s : State) (bits : Word) : s.moves P (s.readBits bits) := by
  unfold State.readBits
  split
  · exact s.onLink_moves _
  · exact s.moves_refl

theorem State.disableLink_moves (s : State) : s.moves P s.disableLink := by
  unfold State.disableLink
  dsimp only
  split
  · exact .after (State.lampInput_moves _ _) (.after (State.endPause_moves _) (s.onLink_moves _))
  · exact .after (State.raiseAll_moves _ _) (.after (State.lampInput_moves _ _) (.after (State.endPause_moves _)
      (s.onLink_moves _)))

theorem State.setLink_moves (s : State) (enable rate timeout : Nat) : s.moves P (s.setLink enable rate timeout).1 := by
  unfold State.setLink
  split
  · dsimp only
    split_ifs
    · exact .after (State.formStatus_moves _) (.after (State.look_moves _) (.after (State.onLink_moves _ _)
        (s.onLink_moves _)))
    · exact .after (State.disableLink_moves _) (s.onLink_moves _)
    · exact s.onLink_moves _
  · exact s.moves_refl

theorem State.gapEnd_moves (s : State) : s.moves P s.gapEnd := by
  unfold State.gapEnd
  split
  · exact .after (State.look_moves _) (s.onLink_moves _)
  · exact s.moves_refl

/-! ## Lines -/

/-- The line controller goes to a value in order, and rewrites are asked for. -/
theorem State.lines_moves {s t : State} (ht : t = { s with lines := t.lines, forced := t.forced })
    (h : s.lines.inOrder → t.lines.inOrder) : s.moves P t :=
  ht ▸ .after (Relation.ReflTransGen.single (.lines ({ s with forced := t.forced } : State) t.lines h))
    (Relation.ReflTransGen.single (.rest s _ rfl rfl rfl rfl rfl rfl rfl rfl rfl rfl))

theorem State.seat_moves (s : State) (k : Line) (b : Bool) : s.moves P (s.seat k b) := State.lines_moves rfl id

theorem State.lineRamp_moves (s : State) (k : Line) (t ms : Nat) : s.moves P (s.lineRamp k t ms).1 :=
  .after (State.seat_moves _ _ _) (s.airRamp_moves _ _ _)

theorem State.lineCut_moves (s : State) (k : Line) : s.moves P (s.lineCut k) := by
  unfold State.lineCut
  split
  · exact s.moves_refl
  · exact .after (State.seat_moves _ _ _) (s.airCut_moves _)

/-- The line controller once a line has left the queue and the screener. -/
theorem State.leave_lines (s : State) (k : Line) :
    (s.leave k).lines = { s.lines with queue := s.lines.queue.filter (· ≠ k)
                                       screener := if s.lines.screener = some k then none else s.lines.screener } := by
  unfold State.leave
  dsimp only
  by_cases h : s.lines.screener = some k
  · rw [if_pos h, if_pos (by exact h)]
    rfl
  · rw [if_neg h, if_neg (by exact h)]
    rfl

/-- Leaving the queue and the screener changes nothing outside the line controller. -/
theorem State.leave_rest (s : State) (k : Line) :
    s.leave k = { s with lines := (s.leave k).lines, forced := (s.leave k).forced } := by
  unfold State.leave
  dsimp only
  split <;> rfl

/-- A chain of line controller changes changes nothing outside it. -/
theorem State.rest_trans {s u t : State} (hu : u = { s with lines := u.lines, forced := u.forced })
    (ht : t = { u with lines := t.lines, forced := t.forced }) : t = { s with lines := t.lines, forced := t.forced } := by
  rw [hu] at ht
  exact ht

theorem State.leaveFor_moves (s : State) (k : Line) (f : LineRec → LineRec)
    (hw : (f (s.lines.recs.get k)).state ≠ .waiting) (hs : (f (s.lines.recs.get k)).state ≠ .screen) :
    s.moves P ((s.leave k).onLine k f) := by
  refine State.lines_moves (State.rest_trans (s.leave_rest k) rfl) fun h => ?_
  rw [State.onLine_lines, State.leave_lines]
  exact LineControl.leave_inOrder h k f hw hs

theorem State.hangup_moves (s : State) (k : Line) : s.moves P (s.hangup k) :=
  .after (State.count_moves _ _) (.after (State.raiseAll_moves _ _)
    (.after (State.leaveFor_moves _ k _ (by simp) (by simp)) (s.lineCut_moves k)))

theorem LineRec.arrival_state (r : LineRec) (ring loop : Bool) : (r.arrival ring loop).state = r.state := by
  unfold LineRec.arrival
  dsimp only
  split <;> (try dsimp only) <;> (try split_ifs) <;> simp_all

theorem State.slotArrival_moves (s : State) (slot : Fin 16) (w : BitVec 32) : s.moves P (s.slotArrival slot w) := by
  unfold State.slotArrival
  dsimp only
  split
  · exact .after (State.onLine_moves _ _ _ fun r => r.arrival_state _ _) (s.withHighway_moves _)
  · exact s.withHighway_moves _

theorem State.aside_moves (s : State) (k : Line) (f : LineRec → LineRec) (hw : (s.lines.recs.get k).state ≠ .waiting)
    (hs : (s.lines.recs.get k).state ≠ .screen) (hw' : ∀ r, (f r).state ≠ .waiting) (hs' : ∀ r, (f r).state ≠ .screen) :
    s.moves P (s.onLine k f) :=
  State.lines_moves rfl fun h => LineControl.aside_inOrder h k f hw hs (hw' _) (hs' _)

theorem State.ringQualified_moves (s : State) (k : Line) : s.moves P (s.ringQualified k) := by
  unfold State.ringQualified
  dsimp only
  split
  · rename_i h
    exact .after (State.raiseAll_moves _ _) (s.aside_moves k _ (by simp [h.2]) (by simp [h.2]) (by simp) (by simp))
  · exact s.moves_refl

theorem State.ringGone_moves (s : State) (k : Line) : s.moves P (s.ringGone k) := by
  unfold State.ringGone
  dsimp only
  split
  · rename_i h
    exact .after (State.count_moves _ _) (.after (State.raiseAll_moves _ _)
      (s.aside_moves k _ (by simp [h.2]) (by simp [h.2]) (by simp) (by simp)))
  · exact s.moves_refl

theorem State.graceOver_moves (s : State) (k : Line) : s.moves P (s.graceOver k) := by
  unfold State.graceOver
  dsimp only
  split
  · exact s.hangup_moves k
  · exact s.moves_refl

theorem State.loopLost_moves (s : State) (k : Line) : s.moves P (s.loopLost k) := by
  unfold State.loopLost
  dsimp only
  split
  · exact s.hangup_moves k
  · exact s.moves_refl

theorem State.lineCut_recs (s : State) (k : Line) : (s.lineCut k).lines.recs = s.lines.recs := by
  unfold State.lineCut
  split <;> rfl

theorem State.guardOver_moves (s : State) (k : Line) : s.moves P (s.guardOver k) := by
  unfold State.guardOver
  dsimp only
  split
  · rename_i h
    exact .after (State.aside_moves _ k _ (by rw [State.lineCut_recs]; simp [h.2]) (by rw [State.lineCut_recs]; simp [h.2])
      (by simp) (by simp)) (s.lineCut_moves k)
  · exact s.moves_refl

theorem State.lineNotice_moves (s : State) (k : Line) (st : SourceState) : s.moves P (s.lineNotice k st) := by
  unfold State.lineNotice
  dsimp only
  split
  · exact .after (State.onLine_moves _ _ _ fun _ => rfl) (s.seat_moves _ _)
  · exact s.seat_moves _ _

theorem State.mapHighway_moves (s : State) (ws : List Word) : s.moves P (s.mapHighway ws).1 := by
  unfold State.mapHighway
  split
  · exact s.moves_refl
  · dsimp only
    split_ifs
    · exact s.moves_refl
    · exact s.moves_refl
    · rename_i m _ _ _
      refine .after (State.rewriteIf_moves _ _ _ _) (.after (Relation.ReflTransGen.single (.lines ({ s with highway := { s.highway with map := m } } : State) _
        fun ⟨h1, h2, h3⟩ => ⟨h1, fun j => ?_, fun j => ?_⟩)) (s.withHighway_moves _))
      · rw [PerLine.get_mapWith]
        exact h2 j
      · rw [PerLine.get_mapWith]
        exact h3 j

theorem State.answerLine_moves (s : State) (line dest : Nat) : s.moves P (s.answerLine line dest).1 := by
  unfold State.answerLine
  split
  · rename_i k queued _ _
    split
    · exact s.moves_refl
    · rename_i hr
      simp only [ne_eq, not_not] at hr
      split
      · exact s.moves_refl
      · rename_i hs
        dsimp only
        split
        · dsimp only
          refine .after (State.lines_moves (s := s.count .callsAnswered) rfl fun h => ?_) (State.count_moves _ _)
          rw [State.count_lines] at h
          have this : ((((s.onLine k fun r => { r with seize := true, ringGap := none, loopSeen := false
                                                       answerGrace := startTimer 2000 }).count .callsAnswered).toQueue
              k).lines) = { s.lines with
                recs := s.lines.recs.modify k fun r => { r with state := .waiting, seize := true, ringGap := none
                                                                loopSeen := false, answerGrace := startTimer 2000 }
                queue := s.lines.queue ++ [k] } := by cases k <;> rfl
          rw [this]
          have h' := LineControl.toQueue_inOrder h k (fun r => { r with state := .waiting, seize := true, ringGap := none
                                                                        loopSeen := false, answerGrace := startTimer 2000 })
            (by simp [hr]) rfl
          have hq : s.lines.queue.filter (· ≠ k) = s.lines.queue := by
            apply List.filter_eq_self.mpr
            intro x hx
            simp only [ne_eq, decide_not, Bool.not_eq_true', decide_eq_false_iff_not]
            rintro rfl
            have := (h.2.1 x).mp hx
            simp_all
          have hsc : s.lines.screener ≠ some k := by
            intro hc
            have := (h.2.2 k).mp hc
            simp_all
          rw [hq, if_neg hsc] at h'
          exact h'
        · dsimp only
          refine .after (State.lines_moves (s := s.count .callsAnswered) rfl fun h => ?_) (State.count_moves _ _)
          rw [State.count_lines] at h
          have this : ((((s.onLine k fun r => { r with seize := true, ringGap := none, loopSeen := false
                                                       answerGrace := startTimer 2000 }).count .callsAnswered).toScreener
              k).lines) = { s.lines with
                recs := s.lines.recs.modify k fun r => { r with state := .screen, seize := true, ringGap := none
                                                                loopSeen := false, answerGrace := startTimer 2000 }
                screener := some k } := by cases k <;> rfl
          rw [this]
          have hn : s.lines.screener = none := by
            cases hc : s.lines.screener with
            | none => rfl
            | some x => simp_all
          have h' := LineControl.toScreener_inOrder h k (fun r => { r with state := .screen, seize := true, ringGap := none
                                                                           loopSeen := false, answerGrace := startTimer 2000 })
            hn rfl
          have hq : s.lines.queue.filter (· ≠ k) = s.lines.queue := by
            apply List.filter_eq_self.mpr
            intro x hx
            simp only [ne_eq, decide_not, Bool.not_eq_true', decide_eq_false_iff_not]
            rintro rfl
            have := (h.2.1 x).mp hx
            simp_all
          rw [hq] at h'
          exact h'
  · exact s.moves_refl

theorem State.queueLine_moves (s : State) (line : Nat) : s.moves P (s.queueLine line).1 := by
  unfold State.queueLine
  split
  · exact s.moves_refl
  · rename_i k _
    split
    · exact s.moves_refl
    · rename_i hr
      simp only [ne_eq, not_not] at hr
      refine State.lines_moves (State.rest_trans (s.leave_rest k) rfl) fun h => ?_
      show LineControl.inOrder { (s.leave k).lines with
        recs := (s.leave k).lines.recs.modify k fun r => { r with state := .waiting }
        queue := (s.leave k).lines.queue ++ [k] }
      rw [State.leave_lines]
      exact LineControl.toQueue_inOrder h k _ (by simp [hr]) rfl

theorem State.screenLine_moves (s : State) (line : Nat) : s.moves P (s.screenLine line).1 := by
  unfold State.screenLine
  split
  · exact s.moves_refl
  · rename_i k _
    split_ifs with h1 h2
    · exact s.moves_refl
    · exact s.moves_refl
    · refine State.lines_moves (State.rest_trans (s.leave_rest k) rfl) fun h => ?_
      show LineControl.inOrder { (s.leave k).lines with
        recs := (s.leave k).lines.recs.modify k fun r => { r with state := .screen }, screener := some k }
      rw [State.leave_lines]
      refine LineControl.toScreener_inOrder h k _ ?_ rfl
      cases hc : s.lines.screener with
      | none => rfl
      | some x => simp_all

theorem State.takeLine_moves (s : State) (n : Nat) : s.moves P (s.takeLine n).1 := by
  unfold State.takeLine
  split
  · exact s.moves_refl
  · dsimp only
    split_ifs
    · exact s.moves_refl
    · exact s.moves_refl
    · exact .after (State.lineRamp_moves _ _ _ _) (s.leaveFor_moves _ _ (by simp) (by simp))

theorem State.lineCut_lines (s : State) (k : Line) :
    ∃ b, (s.lineCut k).lines = { s.lines with seats := b } := by
  unfold State.lineCut
  split
  · exact ⟨s.lines.seats, rfl⟩
  · exact ⟨_, rfl⟩

theorem State.backLine_moves (s : State) (line : Nat) : s.moves P (s.backLine line).1 := by
  unfold State.backLine
  split
  · exact s.moves_refl
  · rename_i k _
    split
    · exact s.moves_refl
    · rename_i hr
      simp only [ne_eq, not_not] at hr
      dsimp only
      refine .after (State.lines_moves (s := s.lineCut k) rfl fun h => ?_) (s.lineCut_moves k)
      have hk : ((s.lineCut k).lines.recs.get k).state = .onAir := by rw [State.lineCut_recs]; exact hr
      have h' := LineControl.toQueue_inOrder h k (fun r => { r with state := .waiting }) (by simp [hk]) rfl
      have hq : (s.lineCut k).lines.queue.filter (· ≠ k) = (s.lineCut k).lines.queue := by
        apply List.filter_eq_self.mpr
        intro x hx
        simp only [ne_eq, decide_not, Bool.not_eq_true', decide_eq_false_iff_not]
        rintro rfl
        have := (h.2.1 x).mp hx
        simp_all
      have hsc : (s.lineCut k).lines.screener ≠ some k := by
        intro hc
        have := (h.2.2 k).mp hc
        simp_all
      rw [hq, if_neg hsc] at h'
      exact h'

theorem State.gainLine_moves (s : State) (line gain fade : Nat) : s.moves P (s.gainLine line gain fade).1 := by
  unfold State.gainLine
  split
  · exact s.moves_refl
  · dsimp only
    split
    · exact s.moves_refl
    · split
      · exact .after (State.lineRamp_moves _ _ _ _) (s.onLine_moves _ _ fun _ => rfl)
      · exact s.onLine_moves _ _ fun _ => rfl

theorem State.lineRamp_recs (s : State) (k : Line) (t ms : Nat) : (s.lineRamp k t ms).1.lines.recs = s.lines.recs := by
  unfold State.lineRamp State.airRamp
  dsimp only
  split_ifs <;> rfl

theorem State.dropLine_moves (s : State) (line : Nat) : s.moves P (s.dropLine line).1 := by
  unfold State.dropLine
  split
  · exact s.moves_refl
  · rename_i k _
    dsimp only
    split
    · exact s.leaveFor_moves _ _ (by simp) (by simp)
    · exact s.leaveFor_moves _ _ (by simp) (by simp)
    · rename_i hr
      exact .after (State.aside_moves _ k _ (by rw [State.lineRamp_recs]; simp [hr]) (by rw [State.lineRamp_recs]; simp [hr])
        (by simp) (by simp)) (s.lineRamp_moves _ _ _)
    · exact s.moves_refl

theorem State.promoteLine_moves (s : State) (line : Nat) : s.moves P (s.promoteLine line).1 := by
  unfold State.promoteLine
  split
  · exact s.moves_refl
  · rename_i k _
    split
    · exact s.moves_refl
    · rename_i hr
      simp only [ne_eq, not_not] at hr
      refine State.lines_moves rfl fun ⟨h1, h2, h3⟩ => ⟨?_, fun j => ?_, h3⟩
      · exact List.nodup_cons.mpr ⟨by simp, h1.filter _⟩
      · show j ∈ k :: s.lines.queue.filter (· ≠ k) ↔ (s.lines.recs.get j).state = .waiting
        by_cases hj : j = k
        · subst hj
          simp [hr]
        · simp [hj, h2 j]

theorem State.sendHighwayFrame_moves (s : State) : s.moves P s.sendHighwayFrame := s.withHighway_moves _

/-! ## Alerts -/

theorem State.onAlertQueue_moves (s : State) (f : List AlertRec → List AlertRec) : s.moves P (s.onAlertQueue f) :=
  .after (State.lampInput_moves _ _) (s.onAlert_moves _)

theorem State.onAlertRec_moves (s : State) (id : Nat) (f : AlertRec → AlertRec) : s.moves P (s.onAlertRec id f) :=
  s.onAlertQueue_moves _

theorem State.addHistory_moves (s : State) (h : HistoryEntry) : s.moves P (s.addHistory h) :=
  .after (State.raiseAll_moves _ _) (.after (State.force_moves _ _) (s.onAlert_moves _))

theorem State.countOutcome_moves (s : State) (o : AlertOutcome) : s.moves P (s.countOutcome o) := by
  unfold State.countOutcome
  split <;> first | exact s.count_moves _ | exact s.moves_refl

theorem State.leaveQueue_moves (s : State) (r : AlertRec) (o : AlertOutcome) : s.moves P (s.leaveQueue r o) :=
  .after (State.countOutcome_moves _ _) (.after (State.addHistory_moves _ _) (.after (State.unlockClip_moves _ _)
    (s.onAlertQueue_moves _)))

theorem State.setPhase_moves (s : State) (p : Phase) (n : Nat) : s.moves P (s.setPhase p n) := by
  unfold State.setPhase
  exact .after (State.lampInput_moves _ _) (.after (State.studioChange_moves _ _) (s.onAlert_moves _))

theorem State.becomeAiring_moves (s : State) (r : AlertRec) : s.moves P (s.becomeAiring r) := by
  unfold State.becomeAiring
  exact .after (State.onAlert_moves _ _) (s.onAlertQueue_moves _)

theorem State.bindAlert_moves (s : State) (r : AlertRec) : s.moves P (s.bindAlert r) := s.onAlert_moves _
theorem State.unbindAlert_moves (s : State) : s.moves P s.unbindAlert :=
  .after (State.endGrantOf_moves _ _ _) (s.onAlert_moves _)

theorem State.enterTone_moves (s : State) (r : AlertRec) : s.moves P (s.enterTone r) := by
  unfold State.enterTone
  split
  · exact s.setPhase_moves _ _
  · exact .after (State.setPhase_moves _ _ _) (s.onAlert_moves _)

theorem State.enterPreempt_moves (s : State) (r : AlertRec) : s.moves P (s.enterPreempt r) :=
  .after (State.bindAlert_moves _ _) (.after (State.promote_moves _) (.after (State.handNotice_moves _ _) (.after (State.raiseAll_moves _ _)
    (.after (State.airRamp_moves _ _ _ _) (.after (State.airHold_moves _ _) (.after (State.setPhase_moves _ _ _)
      (s.becomeAiring_moves r)))))))

theorem State.airFirst_moves (s : State) : s.moves P s.airFirst := by
  unfold State.airFirst
  split
  · split
    · exact s.enterPreempt_moves _
    · exact s.moves_refl
  · exact s.moves_refl

theorem State.enterRestore_moves (s : State) : s.moves P s.enterRestore :=
  .after (State.airRestore_moves _ _) (.after (State.airCut_moves _ _) (s.setPhase_moves _ _))

theorem State.endAiring_moves (s : State) (r : AlertRec) (o : AlertOutcome) : s.moves P (s.endAiring r o) := by
  have h0 : ∀ n, s.moves P (((s.leaveQueue r o).unbindAlert).handNotice n) := fun n =>
    .after (State.handNotice_moves _ _) (.after (State.unbindAlert_moves _) (s.leaveQueue_moves r o))
  unfold State.endAiring
  dsimp only
  split
  · exact .after (State.enterTone_moves _ _) (.after (State.handNotice_moves _ _) (.after (State.bindAlert_moves _ _)
      (.after (State.raiseAll_moves _ _) (.after (State.becomeAiring_moves _ _) (h0 _)))))
  · exact .after (State.enterRestore_moves _) (h0 _)

theorem State.preemptOver_moves (s : State) : s.moves P s.preemptOver := by
  unfold State.preemptOver
  split
  · split
    · exact s.enterTone_moves _
    · exact s.moves_refl
  · exact s.moves_refl

theorem State.toneOver_moves (s : State) : s.moves P s.toneOver := by
  unfold State.toneOver
  split
  · exact s.setPhase_moves _ _
  · exact s.moves_refl

theorem State.messageOver_moves (s : State) : s.moves P s.messageOver := by
  unfold State.messageOver
  split
  · split
    · exact s.endAiring_moves _ _
    · exact s.moves_refl
  · exact s.moves_refl

theorem State.restoreOver_moves (s : State) : s.moves P s.restoreOver := by
  unfold State.restoreOver
  split
  · exact .after (State.airFirst_moves _) (s.setPhase_moves _ _)
  · exact s.moves_refl

theorem State.toneOverflow_moves (s : State) (g : Generator) : s.moves P (s.toneOverflow g) := by
  unfold State.toneOverflow
  split <;> exact s.onAlert_moves _

theorem State.forwardOver_moves (s : State) (id : Nat) : s.moves P (s.forwardOver id) := by
  unfold State.forwardOver
  split
  · split
    · exact .after (State.airFirst_moves _) (s.onAlertRec_moves _ _)
    · exact s.moves_refl
  · exact s.moves_refl

theorem State.expiryOver_moves (s : State) (id : Nat) : s.moves P (s.expiryOver id) := by
  unfold State.expiryOver
  split
  · split
    · exact s.leaveQueue_moves _ _
    · exact s.moves_refl
  · exact s.moves_refl

theorem State.setPolicy_moves (s : State) (ws : List Word) : s.moves P (s.setPolicy ws).1 := by
  unfold State.setPolicy
  split
  · split
    · dsimp only
      exact s.onAlert_moves _
    · exact s.moves_refl
  · dsimp only
    exact s.onAlert_moves _
  · split
    · dsimp only
      exact s.onAlert_moves _
    · exact s.moves_refl
  · exact s.moves_refl

theorem State.queuePost_moves (s : State) (q : AlertPost) (first pages sealed displaced : Nat) :
    s.moves P (s.queuePost q first pages sealed displaced).1 := by
  unfold State.queuePost
  dsimp only
  split
  · exact .after (State.raiseAll_moves _ _) (s.onAlertQueue_moves _)
  · exact .after (State.airFirst_moves _) (s.onAlertQueue_moves _)

theorem State.lockedPost_moves (s : State) (q : AlertPost) : s.moves P (s.lockedPost q).1 := by
  have h0 := s.lockNow_moves (P := P) q.clip
  unfold State.lockedPost
  split
  · rename_i heq
    rw [heq] at h0
    exact h0
  · rename_i heq
    rw [heq] at h0
    split
    · exact h0.trans (State.queuePost_moves _ _ _ _ _ _)
    · split
      · split
        · exact .after (State.queuePost_moves _ _ _ _ _ _) (.after (State.leaveQueue_moves _ _ _) h0)
        · exact h0.trans (State.unlockNow_moves _ _)
      · exact h0

theorem State.postAlert_moves (s : State) (ws : List Word) : s.moves P (s.postAlert ws).1 := by
  unfold State.postAlert
  dsimp only
  split
  · split_ifs
    · exact s.moves_refl
    · exact s.moves_refl
    · exact s.addHistory_moves _
    · exact s.enqueue_moves _
    · exact s.lockedPost_moves _
  · exact s.moves_refl

theorem State.releaseAlert_moves (s : State) (id : Nat) : s.moves P (s.releaseAlert id).1 := by
  unfold State.releaseAlert
  split
  · exact s.moves_refl
  · split
    · exact s.moves_refl
    · split
      · exact .after (State.airFirst_moves _) (s.onAlertRec_moves _ _)
      · exact s.moves_refl

theorem State.declineAlert_moves (s : State) (id : Nat) : s.moves P (s.declineAlert id).1 := by
  unfold State.declineAlert
  split
  · exact s.moves_refl
  · split
    · exact s.moves_refl
    · split
      · dsimp only
        exact s.leaveQueue_moves _ _
      · exact s.moves_refl

theorem State.cancelAlert_moves (s : State) (id : Nat) : s.moves P (s.cancelAlert id).1 := by
  unfold State.cancelAlert
  split
  · exact s.moves_refl
  · split
    · exact s.moves_refl
    · split
      · exact s.endAiring_moves _ _
      · dsimp only
        exact s.leaveQueue_moves _ _

/-! ## Dead air and fallback -/

theorem State.setMonitor_moves (s : State) (m : MonitorState) : s.moves P (s.setMonitor m) :=
  .after (State.studioChange_moves _ _) (s.onDeadAir_moves _)

theorem State.rampFallback_moves (s : State) (t : Nat) : s.moves P (s.rampFallback t) := s.airRamp_moves _ _ _

theorem State.reportDeadAir_moves (s : State) : s.moves P s.reportDeadAir := by
  unfold State.reportDeadAir
  split
  · exact s.moves_refl
  · exact .after (State.count_moves _ _) (.after (State.raiseAll_moves _ _) (s.onDeadAir_moves _))

theorem State.engage_moves (s : State) : s.moves P s.engage := by
  unfold State.engage
  split
  · exact .after (State.rampFallback_moves _ _) (.after (State.setMonitor_moves _ _) (s.onDeadAir_moves _))
  · exact s.moves_refl

theorem State.judgeSilence_moves (s : State) (w : Nat) : s.moves P (s.judgeSilence w) := by
  unfold State.judgeSilence
  dsimp only
  split_ifs
  all_goals first
    | exact .after (State.engage_moves _) (.after (State.reportDeadAir_moves _) (s.onDeadAir_moves _))
    | exact s.onDeadAir_moves _

theorem State.judgeRecovery_moves (s : State) (w : Nat) : s.moves P (s.judgeRecovery w) := by
  unfold State.judgeRecovery
  dsimp only
  split_ifs
  · exact s.onDeadAir_moves _
  · exact .after (State.setMonitor_moves _ _) (.after (State.onDeadAir_moves _ _) (.after (State.rampFallback_moves _ _)
      (.after (State.raiseAll_moves _ _) (s.onDeadAir_moves _))))
  · exact s.onDeadAir_moves _

theorem State.judgeWindow_moves (s : State) (w : Nat) (b : Bool) : s.moves P (s.judgeWindow w b) := by
  unfold State.judgeWindow
  split
  · split
    · exact s.moves_refl
    · exact s.judgeSilence_moves w
    · exact s.judgeRecovery_moves w
  · exact s.moves_refl

theorem State.takeWindow_moves (s : State) (w : Peaks) (b : Bool) : s.moves P (s.takeWindow w b) :=
  .after (State.force_moves _ _) (.after (State.judgeWindow_moves _ _ _) (s.onDeadAir_moves _))

theorem State.rearm_moves (s : State) : s.moves P s.rearm := by
  unfold State.rearm
  dsimp only
  split
  · split
    · exact .after (State.setMonitor_moves _ _) (s.onDeadAir_moves _)
    · exact s.moves_refl
  · split
    · exact s.onDeadAir_moves _
    · exact .after (State.setMonitor_moves _ _) (s.onDeadAir_moves _)
  · exact s.onDeadAir_moves _

theorem State.setDeadAir_moves (s : State) (a b c d : Nat) : s.moves P (s.setDeadAir a b c d).1 := by
  unfold State.setDeadAir
  dsimp only
  split
  · exact s.moves_refl
  · exact .after (State.rearm_moves _) (s.onDeadAir_moves _)

theorem State.rewindFallback_moves (s : State) : s.moves P s.rewindFallback :=
  .after (State.endGrantOf_moves _ _ _) (s.onDeadAir_moves _)

theorem State.releaseFallback_moves (s : State) : s.moves P s.releaseFallback := by
  unfold State.releaseFallback
  split
  · exact s.unlockClip_moves _
  · exact s.moves_refl

theorem State.lockedFallback_moves (s : State) (i : Fin 128) (gain : Nat) : s.moves P (s.lockedFallback i gain).1 := by
  have h0 := s.lockNow_moves (P := P) i
  unfold State.lockedFallback
  split
  · rename_i heq
    rw [heq] at h0
    exact h0
  · rename_i heq
    rw [heq] at h0
    exact .after (State.rewindFallback_moves _) (.after (State.force_moves _ _) (.after (State.withDeadAir_moves _ _)
      (.after (State.releaseFallback_moves _) h0)))

theorem State.disarmFallback_moves (s : State) (gain : Nat) : s.moves P (s.disarmFallback gain).1 :=
  .after (State.rewindFallback_moves _) (.after (State.onDeadAir_moves _ _) s.releaseFallback_moves)

theorem State.setFallback_moves (s : State) (clip gain armed : Nat) : s.moves P (s.setFallback clip gain armed).1 := by
  unfold State.setFallback
  dsimp only
  split
  · exact s.moves_refl
  · split
    · exact s.disarmFallback_moves _
    · exact s.moves_refl
  · split
    · exact s.moves_refl
    · split_ifs
      · exact s.moves_refl
      · exact .after (State.enqueue_moves _ _) (s.onDeadAir_moves _)
      · exact s.lockedFallback_moves _ _

theorem State.fallbackNotice_moves (s : State) (st : SourceState) : s.moves P (s.fallbackNotice st) := by
  unfold State.fallbackNotice
  split
  · split
    · exact s.moves_refl
    · exact s.airCut_moves _
  · split
    · exact s.rewindFallback_moves
    · exact s.moves_refl
  · exact s.moves_refl

theorem State.monitorHandle_moves (s : State) (m : MonitorMessage) : s.moves P (s.monitorHandle m) := by
  unfold State.monitorHandle
  split
  · exact s.takeWindow_moves _ _
  · exact s.fallbackNotice_moves _

theorem State.monitorTake_moves (s : State) (m : MonitorMessage) : s.moves P (s.monitorTake m) := by
  unfold State.monitorTake
  split
  · exact s.onDeadAir_moves _
  · exact s.monitorHandle_moves m

theorem State.monitorDrain_moves (s : State) : s.moves P s.monitorDrain :=
  .after (foldl_moves _ State.monitorHandle_moves _ _) (s.onDeadAir_moves _)

theorem State.windowEnd_moves (s : State) : s.moves P s.windowEnd := by
  unfold State.windowEnd
  split
  · exact .after (State.monitorTake_moves _ _) (s.onDeadAir_moves _)
  · exact s.moves_refl

/-! ## The mixer -/

theorem State.takeDeck_moves (s : State) (d : DeckId) : s.moves P (s.takeDeck d).1 := by
  unfold State.takeDeck
  dsimp only
  split
  · split
    · rename_i r _ heq
      refine s.onDeck_moves d _ fun h => ?_
      unfold DeckRec.take at heq
      split at heq
      · cases heq
      · cases heq
        refine ⟨?_, h.2⟩
        intro c hc
        simp only [Option.mem_def, Option.map_eq_some_iff] at hc
        obtain ⟨x, hx, rfl⟩ := hc
        exact h.1 x hx
    · exact s.count_moves _
  · exact s.moves_refl

theorem State.takeFallback_moves (s : State) : s.moves P s.takeFallback.1 := by
  unfold State.takeFallback
  split
  · split
    · exact s.withDeadAir_moves _
    · exact s.count_moves _
  · exact s.moves_refl

theorem State.takeAlert_moves (s : State) : s.moves P s.takeAlert.1 := by
  unfold State.takeAlert
  split
  · exact s.moves_refl
  · split
    · exact s.withAlert_moves _
    · exact s.count_moves _
  · exact s.moves_refl

theorem State.takeInputs_moves (s : State) : s.moves P s.takeInputs.1 :=
  .after (State.takeFallback_moves _) (.after (State.takeAlert_moves _) (.after (State.takeDeck_moves _ _)
    (s.takeDeck_moves _)))

theorem State.mixNow_moves (s : State) : s.moves P s.mixNow := by
  unfold State.mixNow
  dsimp only
  split
  · exact .after (State.count_moves _ _) (.after (State.withMixer_moves _ _) s.takeInputs_moves)
  · exact .after (State.withMixer_moves _ _) s.takeInputs_moves

/-! ## Publication -/

theorem State.rewrite_moves (s : State) (r : RecordId) : s.moves P (s.rewrite r) := s.xmWriteBlock_moves _ _

theorem State.publish_moves (s : State) : s.moves P s.publish :=
  .after (Relation.ReflTransGen.single (.rest (s.forced.foldl State.rewrite s) _ rfl rfl rfl rfl rfl rfl rfl rfl rfl rfl))
    (foldl_moves _ (fun s r => s.rewrite_moves r) s.forced s)

/-! ## Decks whose cues lie in the cue area -/

/-- A move keeps the decks' cues in the cue area. -/
theorem Move.cuesPlaced {s t : State} (h : Move P s t) (hP : P) (hs : s.cuesPlaced) : t.cuesPlaced := by
  cases h with
  | decks ds h => exact h hP hs
  | rest _ _ _ _ _ _ _ _ hd =>
    unfold State.cuesPlaced at *
    rw [hd]
    exact hs
  | _ => exact hs

theorem State.moves.cuesPlaced {s t : State} (h : s.moves P t) (hs : P → s.cuesPlaced) : P → t.cuesPlaced := fun hP =>
  h.keep State.cuesPlaced (fun _ _ m => m.cuesPlaced hP) (hs hP)

/-! ## Mailboxes -/

theorem State.loadPending_movesIf (s : State) (d : DeckId) (c : Cue) (hc : P → inCueArea c.address) :
    s.moves P (s.loadPending d c) := by
  exact s.onDeck_movesIf d _ fun hP hs => ⟨fun x hx => by cases hx; exact hc hP, (fun _ hx => nomatch hx), hs.2.2⟩

theorem State.finishWalkFound_moves (s : State) (d : DeckId) (ctx : ReadContext) (c : Cue)
    (hc : P → inCueArea c.address) : s.moves P (s.finishWalk d ctx (.found c)) := by
  unfold State.finishWalk
  split
  · exact s.moves_refl
  · exact s.onDeck_movesIf d _ fun hP hs => ⟨hs.1, fun x hx => by cases hx; exact hc hP, hs.2.2⟩
  · exact s.loadPending_movesIf d c hc
  · exact s.loadPending_movesIf d c hc
  · unfold State.finishResume
    exact .after (State.answer_moves _ _ _) (s.loadPending_movesIf d c hc)

theorem State.finishLoadFound_moves (s : State) (d : DeckId) (w : ReadResult)
    (hw : P → ∀ c, w = .good c → inCueArea c.address) : s.moves P (s.finishLoad d w) := by
  cases w with
  | good c =>
    unfold State.finishLoad
    exact .after (State.answer_moves _ _ _) (s.onDeck_movesIf d _ fun hP hs =>
      ⟨fun x hx => by cases hx; exact hw hP c rfl, (fun _ hx => nomatch hx), hs.2.2⟩)
  | waits => exact s.finishLoad_moves d _ fun c hc => nomatch hc
  | faulty f => exact s.finishLoad_moves d _ fun c hc => nomatch hc

theorem State.deckReadAnswered_moves (s : State) (d : DeckId) (h : P → s.cuesPlaced) : s.moves P (s.deckReadAnswered d) := by
  unfold State.deckReadAnswered
  split
  · exact s.moves_refl
  · rename_i q hq
    dsimp only
    have hqa : P → inCueArea q.address := fun hP => (h hP d).2.2 q hq
    have h0 : s.moves P (s.onDeck d fun r => { r with reading := none }) :=
      s.onDeck_moves d _ fun h => ⟨h.1, h.2.1, fun _ hx => nomatch hx⟩
    split
    · exact h0
    · rename_i i _
      refine .after (State.deckDrain_moves _ _ _) (.after (State.answerSkip_moves _ _) ?_)
      have h1 : s.moves P ((s.onDeck d fun r => { r with reading := none }).lockedRead d q.address q.words i).1 :=
        h0.trans (State.lockedRead_moves _ _ _ _ _)
      have h2 : ∀ c, ((s.onDeck d fun r => { r with reading := none }).lockedRead d q.address q.words i).2 = .good c →
          c.address = q.address := fun c => State.lockedRead_address
      generalize (s.onDeck d fun r => { r with reading := none }).lockedRead d q.address q.words i = w at h1 h2
      split
      · exact h1.trans (State.finishLoadFound_moves _ _ _ fun hP c hc => by rw [h2 c hc]; exact hqa hP)
      · rename_i hc _
        exact h1.trans (State.finishWalkFound_moves _ _ _ _ fun hP => by rw [h2 _ hc]; exact hqa hP)
      · exact h1
      · have h3 : s.moves P (w.1.onDeck d fun r => { r with faultStreak := r.faultStreak + 1 }) :=
          h1.trans (State.onDeck_moves _ d _ fun h => h)
        split
        · exact h3.trans (State.finishWalk_moves _ _ _ _ trivial)
        · exact (h3.trans (State.walk_moves _ _ _ _ _).1).trans
            (State.finishWalk_moves _ _ _ _ (State.walk_moves (P := True) _ _ _ _ _).2)

theorem State.micGainCommand_moves (s : State) (g f : Nat) : s.moves P (s.micGainCommand g f).1 :=
  s.setMicGain_moves _ _ (Nat.min_le_right _ _)

theorem State.clearCounters_moves (s : State) : s.moves P s.clearCounters.1 := by
  refine .after (State.rewrite_moves _ _) (Relation.ReflTransGen.single (.counters s _ fun _ c => ?_))
  simp

theorem State.clipCommand_moves (s : State) (p : Port) (c : Command) (ws : List Word) :
    s.moves P (s.clipCommand p c ws).1 := by
  unfold State.clipCommand
  split
  · exact s.beginSearch_moves _ _
  · exact s.setCursor_moves _ _ _
  · exact s.sealClip_moves _ _ _
  · exact s.freeClip_moves _ _
  · exact s.moves_refl

theorem State.clipRequest_moves (s : State) (p : Port) (c : Command) (ws : List Word) :
    s.moves P (s.clipRequest p c ws).1 := by
  unfold State.clipRequest
  split
  · exact s.enqueue_moves _
  · exact s.clipCommand_moves _ _ _

theorem State.runCommand_moves (s : State) (p : Port) (c : Command) (ws : List Word) :
    s.moves P (s.runCommand p c ws).1 := by
  unfold State.runCommand
  split
  any_goals exact s.clipRequest_moves _ _ _
  any_goals exact s.deckMailbox_moves _ _
  · unfold State.arbiterCommand
    exact .after (State.summarize_moves _ _) (s.onArbiter_moves _)
  · exact s.setFallback_moves _ _ _
  · exact s.setDeadAir_moves _ _ _ _
  · exact s.setLink_moves _ _ _
  · unfold State.micOpenCommand
    split
    · exact s.moves_refl
    · exact s.openMic_moves
  · exact s.closeMic_moves
  · exact s.micGainCommand_moves _ _
  · exact s.setDuck_moves _ _ (Nat.min_le_right _ _)
  · exact s.mapHighway_moves _
  · exact s.answerLine_moves _ _
  · exact s.queueLine_moves _
  · exact s.screenLine_moves _
  · exact s.takeLine_moves _
  · exact s.backLine_moves _
  · exact s.dropLine_moves _
  · exact s.promoteLine_moves _
  · exact s.gainLine_moves _ _ _
  · exact s.postAlert_moves _
  · exact s.cancelAlert_moves _
  · exact s.setPolicy_moves _
  · exact s.releaseAlert_moves _
  · exact s.declineAlert_moves _
  · exact s.clearCounters_moves
  · unfold State.setLamp
    split
    · exact s.moves_refl
    · dsimp only
      exact s.onLamps_moves _

theorem State.judgeCommand_moves (s : State) (p : Port) (v : Word) (ws : List Word) :
    s.moves P (s.judgeCommand p v ws).1 := by
  unfold State.judgeCommand
  split
  · exact s.moves_refl
  · split
    · exact s.runCommand_moves _ _ _
    · exact s.moves_refl

theorem State.overrun_moves (s : State) (p : Port) : s.moves P (s.overrun p) :=
  .after (State.raise_moves _ _ _) (s.count_moves _)

theorem State.taken_moves (s : State) (p : Port) (v : Word) (ws : List Word) : s.moves P (s.taken p v ws) :=
  .after (State.onPort_moves_same _ p _ fun _ => rfl) (.after (State.xmWrite_moves _ _ _) (s.xmWrite_moves _ _))

theorem State.commandWordWrite_moves (s : State) (p : Port) (v : Word) : s.moves P (s.commandWordWrite p v) := by
  unfold State.commandWordWrite
  split
  · exact s.xmWrite_moves _ _
  · split
    · exact s.overrun_moves _
    · exact .after (State.answer_moves _ _ _) (.after (State.judgeCommand_moves _ _ _ _) (s.taken_moves _ _ _))

theorem State.access_moves (s : State) (p : Port) (f : State → State) (h : s.moves P (f s)) : s.moves P (s.access p f) := by
  unfold State.access
  split
  · exact s.moves_refl
  · exact h

theorem State.issue_moves (s : State) (p : Port) (c : Command) (ws : List Word) : s.moves P (s.issue p c ws) :=
  s.access_moves p _ (.after (State.commandWordWrite_moves _ _ _) (s.xmWriteBlock_moves _ _))

theorem State.pointerWrite_moves (s : State) (p : Port) (v : Word) : s.moves P (s.pointerWrite p v) :=
  s.onPort_moves p _ fun _ _ he => nomatch he

theorem State.movePointer_moves (s : State) (p : Port) : s.moves P (s.movePointer p) := by
  refine s.onPort_moves p _ fun q e he => ?_
  simp only [aheadAt, List.mem_cons, List.not_mem_nil, or_false] at he
  rcases he with rfl | rfl <;> exact .inr rfl

theorem State.dataRead_moves (s : State) (p : Port) : s.moves P (s.dataRead p) :=
  .after (State.movePointer_moves _ _) (s.onPort_moves_same p _ fun _ => rfl)

theorem State.regionWrite_moves (s : State) (p : Port) (a : Nat) (v : Word) : s.moves P (s.regionWrite p a v) := by
  unfold State.regionWrite
  split_ifs
  · exact s.commandWordWrite_moves _ _
  · exact s.xmWrite_moves _ _
  · exact s.xmWrite_moves _ _
  · exact .after (State.raise_moves _ _ _) (s.count_moves _)

theorem State.dataWrite_moves (s : State) (p : Port) (v : Word) : s.moves P (s.dataWrite p v) :=
  .after (State.movePointer_moves _ _) (s.regionWrite_moves _ _ _)

theorem State.clearPort_moves (s : State) (p : Port) (v : Word) : s.moves P (s.clearPort p v) := by
  unfold State.clearPort
  split
  · exact .after (State.endGrantOf_moves _ _ _) (.after (State.xmWriteBlock_moves _ _ _)
      (s.onPort_moves p _ fun _ _ he => nomatch he))
  · exact s.moves_refl

theorem State.takeRequest_moves (s : State) (r : ClipRequest) (h : P → s.cuesPlaced) : s.moves P (s.takeRequest r) := by
  unfold State.takeRequest
  split
  · split
    · exact s.moves_refl
    · split
      · exact s.moves_refl
      · exact .after (State.answer_moves _ _ _) (s.clipCommand_moves _ _ _)
  · exact .after (State.onClips_moves _ _ id) (s.lockNow_moves _)
  · exact s.unlockNow_moves _
  · exact s.deckReadAnswered_moves _ h
  · exact .after (State.answer_moves _ _ _) (s.lockedPost_moves _)
  · exact .after (State.monitorDrain_moves _) (.after (State.answer_moves _ _ _) (.after (State.onDeadAir_moves _ _)
      (s.lockedFallback_moves _ _)))

theorem State.takeWaiting_moves (fuel : Nat) (s : State) (h : P → s.cuesPlaced) :
    s.moves P (State.takeWaiting fuel s) := by
  induction fuel generalizing s with
  | zero => exact s.moves_refl
  | succ n ih =>
    unfold State.takeWaiting
    split
    · exact s.moves_refl
    · split
      · exact s.moves_refl
      · have h0 : s.moves P (s.onClips fun c => { c with waiting := ‹List ClipRequest› }) := s.onClips_moves _ id
        have h1 := h0.trans (State.takeRequest_moves _ ‹ClipRequest› (h0.cuesPlaced h))
        exact h1.trans (ih _ (h1.cuesPlaced h))

theorem State.searchOver_moves (s : State) (h : P → s.cuesPlaced) : s.moves P s.searchOver := by
  unfold State.searchOver
  split
  · exact s.moves_refl
  · rename_i q hq
    have h0 : s.moves P ((s.endSearch q).1.answer q.port (s.endSearch q).2) :=
      .after (State.answer_moves _ _ _) (s.endSearch_moves q hq)
    exact h0.trans (State.takeWaiting_moves _ _ (h0.cuesPlaced h))

theorem State.sealOver_moves (s : State) (p : Port) : s.moves P (s.sealOver p) := by
  unfold State.sealOver
  split
  · split
    · exact .after (State.answer_moves _ _ _) (s.takeSeal_moves _ _)
    · exact s.moves_refl
  · exact s.moves_refl

/-! ## The end of a step -/

theorem State.ownerState_moves (s : State) (src : Source) (n : StateNotice) : s.moves P (s.ownerState src n) := by
  unfold State.ownerState
  split
  · exact s.deckTake_moves _ _
  · exact s.lineNotice_moves _ _
  · exact s.monitorTake_moves _
  · exact s.moves_refl
  · exact s.moves_refl

theorem State.ownerSilent_moves (s : State) (src : Source) : s.moves P (s.ownerSilent src) := by
  unfold State.ownerSilent
  split
  · exact s.deckTake_moves _ _
  · exact s.moves_refl

theorem State.tapState_moves (s : State) (src : Source) (st : SourceState) : s.moves P (s.tapState src st) := by
  unfold State.tapState
  split
  · exact .after (State.studioChange_moves _ _) (s.lampInput_moves _)
  · exact .after (State.studioChange_moves _ _) (s.lampInput_moves _)
  · exact s.moves_refl

theorem State.deliver_moves (s : State) (m : Message) : s.moves P (s.deliver m) := by
  unfold State.deliver
  split
  · exact .after (State.ownerState_moves _ _ _) (s.tapState_moves _ _)
  · exact s.ownerSilent_moves _
  · exact s.deckTake_moves _ _

theorem State.drainMessages_moves (fuel : Nat) (s : State) : s.moves P (State.drainMessages fuel s) := by
  induction fuel generalizing s with
  | zero => exact s.moves_refl
  | succ n ih =>
    unfold State.drainMessages
    split
    · exact s.moves_refl
    · exact .after (ih _) (.after (State.deliver_moves _ _) (s.withMessages_moves _))

theorem State.drain_moves (s : State) : s.moves P s.drain :=
  .after (State.withMessages_moves _ _) (s.drainMessages_moves _)

theorem State.landed_moves (s : State) : s.moves P s.landed :=
  .after (State.drain_moves _) (foldl_moves _ State.endRamp_moves _ s)

theorem State.settle_moves (s : State) : s.moves P s.settle := .after (State.publish_moves _) s.drain_moves

theorem State.released_moves (s : State) (f : State → State) (h : s.moves P (f s)) : s.moves P (s.released f) := by
  unfold State.released
  split
  · exact s.moves_refl
  · exact h

/-- Acts one after another are a chain of moves if each is one. -/
theorem State.acts_moves (l : List (State → State)) (h : ∀ f ∈ l, ∀ u : State, (P → u.cuesPlaced) → u.moves P (f u))
    (s : State) (hP : P → s.cuesPlaced) : s.moves P (s.acts l) := by
  unfold State.acts
  induction l generalizing s with
  | nil => exact s.moves_refl
  | cons f t ih =>
    have h1 := (h f (by simp) s hP).trans (State.drain_moves _)
    exact h1.trans (ih (fun g hg => h g (by simp [hg])) _ (h1.cuesPlaced hP))

/-- What a deck owes is a chain of moves. -/
theorem deckActions_moves (d : DeckId) : ∀ f ∈ deckActions d, ∀ s : State, (P → s.cuesPlaced) → s.moves P (f s) := by
  intro f hf s _
  simp only [deckActions, List.mem_cons, List.not_mem_nil, or_false] at hf
  rcases hf with rfl | rfl | rfl | rfl | rfl | rfl
  · exact s.makeLookahead_moves d
  · exact s.deckPrimed_moves d
  · exact s.fadeOutPoint_moves d
  · exact s.seguePoint_moves d
  · exact s.endCue_moves d
  · exact s.makeLookahead_moves d

theorem State.lastTake_moves (s : State) (d : DeckId) (hP : P → s.cuesPlaced) : s.moves P (s.lastTake d) := by
  unfold State.lastTake
  split
  · refine .after (State.endCue_moves _ _) (State.acts_moves _ ?_ s hP)
    simp only [List.forall_mem_cons]
    exact ⟨fun v _ => v.fadeOutPoint_moves d, fun v _ => v.seguePoint_moves d, by simp⟩
  · exact s.moves_refl

theorem State.decksFound_moves (s : State) (hP : P → s.cuesPlaced) : s.moves P s.decksFound :=
  s.landed_moves.trans (State.acts_moves _
    (List.forall_mem_append.2 ⟨deckActions_moves .d1, deckActions_moves .d2⟩) _ (s.landed_moves.cuesPlaced hP))

theorem State.found_moves (s : State) (hP : P → s.cuesPlaced) : s.moves P s.found := by
  have h := s.decksFound_moves hP
  unfold State.found
  dsimp only
  split
  · exact h.trans (State.acts_moves _ (List.forall_mem_cons.2 ⟨fun v _ => v.messageOver_moves,
      List.forall_mem_append.2 ⟨deckActions_moves .d1, deckActions_moves .d2⟩⟩) _ (h.cuesPlaced hP))
  · exact h

/-- An act is a chain of moves if it is one from the state it is made in. -/
theorem State.act_moves (s : State) (f : State → State) (h : ∀ u : State, (P → u.cuesPlaced) → u.moves P (f u))
    (hP : P → s.cuesPlaced) : s.moves P (s.act f) :=
  s.released_moves _ (((s.found_moves hP).trans (h _ ((s.found_moves hP).cuesPlaced hP))).trans (State.settle_moves _))

/-- The end of a message by its row is a chain of moves if its act is one from the state it is made in. -/
theorem State.messageAct_moves (s : State) (f : State → State) (h : ∀ u : State, (P → u.cuesPlaced) → u.moves P (f u))
    (hP : P → s.cuesPlaced) : s.moves P (s.messageAct f) :=
  s.released_moves _ (((s.decksFound_moves hP).trans (h _ ((s.decksFound_moves hP).cuesPlaced hP))).trans
    (State.settle_moves _))

/-- A deck's act on a point of its own is a chain of moves if it is one from the state it is made in. -/
theorem State.deckAct_moves (s : State) (f : State → State) (h : ∀ u : State, (P → u.cuesPlaced) → u.moves P (f u))
    (hP : P → s.cuesPlaced) : s.moves P (s.deckAct f) :=
  s.released_moves _ ((s.landed_moves.trans (h _ (s.landed_moves.cuesPlaced hP))).trans (State.settle_moves _))

/-! ## Clock -/

theorem releaseXm_wf (m : Mem 16) (h : m.wf = true) : (releaseXm m).wf = true :=
  Mem.wf_write _ _ _ (Mem.wf_write _ _ _ (Mem.wf_write _ _ _ (Mem.wf_filter _ _ h)))

theorem pagesOf_pos (a b : Bool) : 1 ≤ pagesOf a b := by cases a <;> cases b <;> simp [pagesOf]

theorem State.releaseReset_moves (s : State) (sz1 sz0 : Bool) : s.moves P (s.releaseReset sz1 sz0) := by
  unfold State.releaseReset
  split
  · refine .after (Relation.ReflTransGen.single (.xm _ _ releaseXm_wf)) ?_
    refine .after (Relation.ReflTransGen.single (.clips
      ({ s with clock := ⟨.startUp, 0, 0, false, false⟩, counters := Vector.replicate 29 0 } : State) _
      fun h => ⟨h.1, pagesOf_pos _ _, h.2.2⟩)) ?_
    refine .after (Relation.ReflTransGen.single (.counters
      ({ s with clock := ⟨.startUp, 0, 0, false, false⟩ } : State) _ fun _ c => by simp)) ?_
    exact s.withClock_moves _
  · exact s.moves_refl

theorem State.startPage_moves (s : State) (p : Port) : s.moves P (s.startPage p) :=
  .after (State.xmWrite_moves _ _ _) (s.xmWriteBlock_moves _ _)

theorem State.startUpOver_moves (s : State) : s.moves P s.startUpOver := by
  unfold State.startUpOver
  split
  · exact .after (State.force_moves _ _) (.after (State.withClock_moves _ _) (.after (State.startPage_moves _ _)
      (.after (State.startPage_moves _ _) (s.startPage_moves _))))
  · exact s.moves_refl

theorem State.millisecondOver_moves (s : State) : s.moves P s.millisecondOver := by
  unfold State.millisecondOver
  split
  · exact .after (State.force_moves _ _) (Relation.ReflTransGen.single (.rest s _ rfl rfl rfl rfl rfl rfl rfl rfl rfl rfl))
  · exact s.moves_refl

theorem State.searchDeadline_moves (s : State) (h : P → s.cuesPlaced) : s.moves P s.searchDeadline := by
  unfold State.searchDeadline
  split
  · split
    · exact s.searchOver_moves h
    · exact s.moves_refl
  · exact s.moves_refl

theorem State.forwardsOver_moves (s : State) : s.moves P s.forwardsOver :=
  foldl_moves _ (fun s id => s.forwardOver_moves id) _ s
theorem State.expiriesOver_moves (s : State) : s.moves P s.expiriesOver :=
  foldl_moves _ (fun s id => s.expiryOver_moves id) _ s

/-- Every act that may be due is a chain of moves. -/
theorem dueActions_moves : ∀ f ∈ dueActions, ∀ s : State, (P → s.cuesPlaced) → s.moves P (f s) := by
  have hl : ∀ k, ∀ f ∈ lineActions k, ∀ s : State, (P → s.cuesPlaced) → s.moves P (f s) := by
    intro k f hf s _
    simp only [lineActions, List.mem_cons, List.not_mem_nil, or_false] at hf
    rcases hf with rfl | rfl | rfl | rfl | rfl
    · exact s.ringQualified_moves k
    · exact s.ringGone_moves k
    · exact s.graceOver_moves k
    · exact s.loopLost_moves k
    · exact s.guardOver_moves k
  have hp : ∀ p, ∀ f ∈ portActions p, ∀ s : State, (P → s.cuesPlaced) → s.moves P (f s) := by
    intro p f hf s _
    simp only [portActions, List.mem_cons, List.not_mem_nil, or_false] at hf
    rcases hf with rfl | rfl | rfl
    · exact s.sealOver_moves p
    · exact s.releaseWrite_moves p
    · exact s.releaseRead_moves p
  unfold dueActions
  simp only [List.forall_mem_append, List.forall_mem_cons, List.forall_mem_flatMap]
  refine ⟨⟨⟨⟨⟨⟨⟨⟨⟨⟨fun s _ => s.landed_moves, fun s _ => s.endDuck_moves, by simp⟩, deckActions_moves _⟩, deckActions_moves _⟩,
    fun s _ => s.messageOver_moves, fun s _ => s.preemptOver_moves, fun s _ => s.toneOver_moves,
    fun s _ => s.restoreOver_moves, fun s _ => s.toneOverflow_moves _, fun s _ => s.toneOverflow_moves _, by simp⟩,
    fun k _ => hl k⟩,
    fun s _ => s.forwardsOver_moves, fun s _ => s.expiriesOver_moves, fun s _ => s.pauseOver_moves,
    fun s _ => s.linkLost_moves, fun s _ => s.flashOver_moves _, fun s _ => s.flashOver_moves _,
    fun s _ => s.windowEnd_moves, fun s _ => s.formProgram_moves, by simp⟩, hp _⟩, hp _⟩, hp _⟩,
    fun s h => s.searchDeadline_moves h, fun s _ => s.startUpOver_moves, fun s _ => s.millisecondOver_moves, by simp⟩

theorem State.takeDue_moves (s : State) (h : P → s.cuesPlaced) : s.moves P s.takeDue :=
  State.acts_moves _ dueActions_moves s h

theorem State.tickTimers_moves (s : State) : s.moves P s.tickTimers := by
  unfold State.tickTimers
  refine .after (Relation.ReflTransGen.single (.clips ({ s with
      lines := { s.lines with recs := s.lines.recs.mapWith fun _ r => r.tick }
      alert := s.alert.tick, link := s.link.tick
      lamps := { s.lamps with lamps := s.lamps.lamps.mapWith fun _ r => { r with timer := Machine.tick r.timer } } } : State)
      _ fun ⟨h1, h2, h3⟩ => ⟨h1, h2, ?_⟩)) ?_
  · intro q hq
    simp only [Option.mem_def, Option.map_eq_some_iff] at hq
    obtain ⟨x, hx, rfl⟩ := hq
    exact h3 x hx
  · refine .after (Relation.ReflTransGen.single (.rest ({ s with
      lines := { s.lines with recs := s.lines.recs.mapWith fun _ r => r.tick } } : State) _
      rfl rfl rfl rfl rfl rfl rfl rfl rfl rfl)) ?_
    refine Relation.ReflTransGen.single (.lines s _ fun ⟨h1, h2, h3⟩ => ⟨h1, fun j => ?_, fun j => ?_⟩)
    · rw [PerLine.get_mapWith]
      exact h2 j
    · rw [PerLine.get_mapWith]
      exact h3 j

theorem State.tickClock_moves (s : State) : s.moves P s.tickClock := by
  unfold State.tickClock
  split
  · exact s.moves_refl
  · exact s.withClock_moves _
  · split
    · exact s.withClock_moves _
    · exact Relation.ReflTransGen.single (.rest s _ rfl rfl rfl rfl rfl rfl rfl rfl rfl rfl)

theorem State.handOn_moves (s : State) : s.moves P s.handOn := by
  unfold State.handOn
  dsimp only
  split
  · exact .after (State.onDeadAir_moves _ _) (s.onLink_moves _)
  · exact s.onLink_moves _

theorem State.sampleEvent_moves (s : State) : s.moves P s.sampleEvent :=
  .after (State.tickClock_moves _) (.after (State.tickTimers_moves _) (.after (State.handOn_moves _)
    (.after (State.mixNow_moves _) (s.withAir_moves _ AirMap.step_inRange))))

theorem State.programSample_moves (s : State) (h : P → s.cuesPlaced) : s.moves P s.programSample :=
  .after (State.settle_moves _) (.after (State.sampleEvent_moves _) (.after (State.settle_moves _) (s.takeDue_moves h)))

/-! ## Any command -/

/-- What any command does: RESET_N_ASSERT puts the part into reset, and every other command is a chain of moves. -/
theorem exec_moves {c : Instr} {s t : State} (h : exec c s = .next t) :
    t = s.assertReset ∨ s.moves s.cuesPlaced t := by
  have hid : s.cuesPlaced → s.cuesPlaced := id
  cases c <;> injection h with h <;> subst h
  case resetNAssert => exact .inl rfl
  all_goals right
  case resetNRelease => exact s.releaseReset_moves _ _
  case startUpEnd => exact s.act_moves _ (fun u _ => u.startUpOver_moves) hid
  case programSampleEvent => exact s.released_moves _ (s.programSample_moves hid)
  case rampEnd => exact s.released_moves _ ((s.endRamp_moves _).trans (State.settle_moves _))
  case duckRampEnd => exact s.released_moves _ s.endDuck_moves
  case millisecondRewrite => exact s.act_moves _ (fun u _ => u.millisecondOver_moves) hid
  case windowEnd => exact s.act_moves _ (fun u _ => u.windowEnd_moves) hid
  case pageSearchEnd => exact s.act_moves _ (fun u h => u.searchOver_moves h) hid
  case sealTaken => exact s.act_moves _ (fun u _ => u.sealOver_moves _) hid
  case unknownCommand => exact s.act_moves _ (fun u _ => u.access_moves _ _ (u.commandWordWrite_moves _ _)) hid
  case mailboxOverrun p v =>
    refine s.released_moves _ (s.access_moves _ _ ?_)
    split
    · exact s.overrun_moves _
    · exact s.moves_refl
  case xmPointerWrite => exact s.released_moves _ (s.access_moves _ _ (s.pointerWrite_moves _ _))
  case xmDataRead => exact s.released_moves _ (s.access_moves _ _ (s.dataRead_moves _))
  case xmDataWrite =>
    refine s.released_moves _ (s.access_moves _ _ ?_)
    split
    · exact .after (State.movePointer_moves _ _) (.after (State.settle_moves _)
        (.after (State.commandWordWrite_moves _ _ _) (s.found_moves hid)))
    · exact s.dataWrite_moves _ _
  case eventWordWrite => exact s.released_moves _ (s.access_moves _ _ (s.xmWrite_moves _ _))
  case eventMaskWrite => exact s.released_moves _ (s.access_moves _ _ (s.xmWrite_moves _ _))
  case clipDataWrite => exact s.released_moves _ (s.access_moves _ _ (s.clipWrite_moves _ _))
  case clipDataRead => exact s.released_moves _ (s.access_moves _ _ (s.clipRead_moves _))
  case heldWriteReleased => exact s.released_moves _ (s.releaseWrite_moves _)
  case heldReadReleased => exact s.released_moves _ (s.releaseRead_moves _)
  case portClear => exact s.released_moves _ (s.access_moves _ _ (s.clearPort_moves _ _))
  case ramp => exact s.act_moves _ (fun u _ => .after (State.withAnswer_moves _ _) (u.airRamp_moves _ _ _)) hid
  case cut => exact s.act_moves _ (fun u _ => .after (State.withAnswer_moves _ _) (u.airCut_moves _)) hid
  case hold => exact s.act_moves _ (fun u _ => u.airHold_moves _) hid
  case restore => exact s.act_moves _ (fun u _ => u.airRestore_moves _) hid
  case stateNotice => exact s.act_moves _ (fun u _ => u.ownerState_moves _ _) hid
  case silentNotice => exact s.act_moves _ (fun u _ => u.ownerSilent_moves _) hid
  case lockRequest => exact s.act_moves _ (fun u _ => u.requestLock_moves _) hid
  case unlock => exact s.act_moves _ (fun u _ => u.unlockClip_moves _) hid
  case arbiterGrant => exact s.released_moves _ s.arbitrate_moves
  case burstEnd => exact s.released_moves _ s.burstDone_moves
  case deckPrimed => exact s.deckAct_moves _ (fun u _ => u.deckPrimed_moves _) hid
  case lookahead => exact s.deckAct_moves _ (fun u _ => u.makeLookahead_moves _) hid
  case cueFadeOutPoint => exact s.deckAct_moves _ (fun u _ => u.fadeOutPoint_moves _) hid
  case cueSeguePoint => exact s.deckAct_moves _ (fun u _ => u.seguePoint_moves _) hid
  case segueSignal => exact s.act_moves _ (fun u _ => u.deckTake_moves _ _) hid
  case cueEnd => exact s.deckAct_moves _ (fun u hu => u.lastTake_moves _ hu) hid
  case slotWordArrival => exact s.act_moves _ (fun u _ => u.slotArrival_moves _ _) hid
  case transmitFrame => exact s.act_moves _ (fun u _ => u.sendHighwayFrame_moves) hid
  case ringQualifyExpiry => exact s.act_moves _ (fun u _ => u.ringQualified_moves _) hid
  case ringGapExpiry => exact s.act_moves _ (fun u _ => u.ringGone_moves _) hid
  case answerGraceExpiry => exact s.act_moves _ (fun u _ => u.graceOver_moves _) hid
  case loopLossExpiry => exact s.act_moves _ (fun u _ => u.loopLost_moves _) hid
  case releaseGuardExpiry => exact s.act_moves _ (fun u _ => u.guardOver_moves _) hid
  case forwardTimerExpiry => exact s.act_moves _ (fun u _ => u.forwardOver_moves _) hid
  case expiryTimerExpiry => exact s.act_moves _ (fun u _ => u.expiryOver_moves _) hid
  case preemptEnd => exact s.act_moves _ (fun u _ => u.preemptOver_moves) hid
  case toneGeneratorOverflow => exact s.released_moves _ (s.toneOverflow_moves _)
  case toneEnd => exact s.act_moves _ (fun u _ => u.toneOver_moves) hid
  case messageEnd => exact s.messageAct_moves _ (fun u _ => u.messageOver_moves) hid
  case restoreEnd => exact s.act_moves _ (fun u _ => u.restoreOver_moves) hid
  case programFrameFormed => exact s.act_moves _ (fun u _ => u.formProgram_moves) hid
  case alertNoticeHanded => exact s.act_moves _ (fun u _ => u.handNotice_moves _) hid
  case studioValueChange => exact s.act_moves _ (fun u _ => u.studioChange_moves _) hid
  case standbyDeparture => exact s.act_moves _ (fun u _ => u.promote_moves) hid
  case transmitGapEnd => exact s.act_moves _ (fun u _ => u.gapEnd_moves) hid
  case pauseFrame => exact s.act_moves _ (fun u _ => u.receivePause_moves _) hid
  case siteStatusFrame => exact s.act_moves _ (fun u _ => u.receiveStatus_moves _) hid
  case rxBadCheck => exact s.act_moves _ (fun u _ => u.receiveBadCheck_moves _) hid
  case rxBadFrame => exact s.act_moves _ (fun u _ => u.receiveBadFrame_moves _) hid
  case lossTimerExpiry => exact s.act_moves _ (fun u _ => u.linkLost_moves) hid
  case pauseTimerExpiry => exact s.act_moves _ (fun u _ => u.pauseOver_moves) hid
  case lampInputChange => exact s.act_moves _ (fun u _ => u.lampInput_moves _) hid
  case flashTimerExpiry => exact s.released_moves _ (s.flashOver_moves _)
  case counterIncrement => exact s.released_moves _ (s.count_moves _)
  case startPatternFound => exact s.released_moves _ (s.readBits_moves _)
  all_goals exact s.act_moves _ (fun u _ => u.issue_moves _ _ _) hid

end Sys2Proof.Machine
end

