-- ==== Sys2Proof/Laws/PerInstr.lean ====
section
/-!
SUPPORT. Laws/PerInstr.lean: the shape of every command, one lemma per constructor of `Instr`: a well-formed command that
issues a mailbox command fills no more than the 24 parameter words of a page, and names a command the table of R182 knows.
-/
namespace Sys2Proof.Laws.Shape

open Sys2Proof.Machine

/-- A well-formed command that is a mailbox command has at most 24 parameter words (R181), and its code is that of a
command (R182). -/
def Statement (i : Instr) : Prop :=
  i.wellFormed = true → ∀ p c ws, i.issued = some (p, c, ws) → ws.length ≤ 24 ∧ commandOf c.code = some c

/-- Every command is the one its code spells (R182, chapter 11). -/
theorem command_of_code (c : Command) : commandOf c.code = some c := by cases c <;> decide +kernel

theorem resetNAssert : Statement (.resetNAssert) := by
  intro _ p c ws e; exact nomatch e
theorem resetNRelease (sz1 sz0 : Bool) : Statement (.resetNRelease sz1 sz0) := by
  intro _ p c ws e; exact nomatch e
theorem startUpEnd : Statement (.startUpEnd) := by
  intro _ p c ws e; exact nomatch e
theorem programSampleEvent : Statement (.programSampleEvent) := by
  intro _ p c ws e; exact nomatch e
theorem rampEnd (src : Source) : Statement (.rampEnd src) := by
  intro _ p c ws e; exact nomatch e
theorem duckRampEnd : Statement (.duckRampEnd) := by
  intro _ p c ws e; exact nomatch e
theorem millisecondRewrite : Statement (.millisecondRewrite) := by
  intro _ p c ws e; exact nomatch e
theorem windowEnd : Statement (.windowEnd) := by
  intro _ p c ws e; exact nomatch e
theorem clipAlloc (port : Port) (pairs : Long) : Statement (.clipAlloc port pairs) := by
  intro _ p c ws e; cases e; exact ⟨Nat.le_of_ble_eq_true rfl, command_of_code _⟩
theorem pageSearchEnd : Statement (.pageSearchEnd) := by
  intro _ p c ws e; exact nomatch e
theorem clipCursor (port : Port) (clip : Word) (offset : Long) : Statement (.clipCursor port clip offset) := by
  intro _ p c ws e; cases e; exact ⟨Nat.le_of_ble_eq_true rfl, command_of_code _⟩
theorem clipSeal (port : Port) (clip : Word) (length : Long) : Statement (.clipSeal port clip length) := by
  intro _ p c ws e; cases e; exact ⟨Nat.le_of_ble_eq_true rfl, command_of_code _⟩
theorem sealTaken (port : Port) : Statement (.sealTaken port) := by
  intro _ p c ws e; exact nomatch e
theorem clipFree (port : Port) (clip : Word) : Statement (.clipFree port clip) := by
  intro _ p c ws e; cases e; exact ⟨Nat.le_of_ble_eq_true rfl, command_of_code _⟩
theorem arbiterSet (port : Port) (alert deck fallback : Word) : Statement (.arbiterSet port alert deck fallback) := by
  intro _ p c ws e; cases e; exact ⟨Nat.le_of_ble_eq_true rfl, command_of_code _⟩
theorem deckLoad (port : Port) (deck address : Word) : Statement (.deckLoad port deck address) := by
  intro _ p c ws e; cases e; exact ⟨Nat.le_of_ble_eq_true rfl, command_of_code _⟩
theorem deckPlay (port : Port) (deck : Word) : Statement (.deckPlay port deck) := by
  intro _ p c ws e; cases e; exact ⟨Nat.le_of_ble_eq_true rfl, command_of_code _⟩
theorem deckStop (port : Port) (deck fade : Word) : Statement (.deckStop port deck fade) := by
  intro _ p c ws e; cases e; exact ⟨Nat.le_of_ble_eq_true rfl, command_of_code _⟩
theorem deckSkip (port : Port) (deck fade : Word) : Statement (.deckSkip port deck fade) := by
  intro _ p c ws e; cases e; exact ⟨Nat.le_of_ble_eq_true rfl, command_of_code _⟩
theorem deckResume (port : Port) (deck : Word) : Statement (.deckResume port deck) := by
  intro _ p c ws e; cases e; exact ⟨Nat.le_of_ble_eq_true rfl, command_of_code _⟩
theorem deckNotify (port : Port) (deck mode : Word) : Statement (.deckNotify port deck mode) := by
  intro _ p c ws e; cases e; exact ⟨Nat.le_of_ble_eq_true rfl, command_of_code _⟩
theorem fallbackSet (port : Port) (clip gain armed : Word) : Statement (.fallbackSet port clip gain armed) := by
  intro _ p c ws e; cases e; exact ⟨Nat.le_of_ble_eq_true rfl, command_of_code _⟩
theorem deadairSet (port : Port) (threshold : Long) (limit recovery fade : Word) : Statement (.deadairSet port threshold limit recovery fade) := by
  intro _ p c ws e; cases e; exact ⟨Nat.le_of_ble_eq_true rfl, command_of_code _⟩
theorem linkSet (port : Port) (enable rate timeout : Word) : Statement (.linkSet port enable rate timeout) := by
  intro _ p c ws e; cases e; exact ⟨Nat.le_of_ble_eq_true rfl, command_of_code _⟩
theorem micOpen (port : Port) : Statement (.micOpen port) := by
  intro _ p c ws e; cases e; exact ⟨Nat.le_of_ble_eq_true rfl, command_of_code _⟩
theorem micClose (port : Port) : Statement (.micClose port) := by
  intro _ p c ws e; cases e; exact ⟨Nat.le_of_ble_eq_true rfl, command_of_code _⟩
theorem micGain (port : Port) (gain fade : Word) : Statement (.micGain port gain fade) := by
  intro _ p c ws e; cases e; exact ⟨Nat.le_of_ble_eq_true rfl, command_of_code _⟩
theorem duckSet (port : Port) (depth time : Word) : Statement (.duckSet port depth time) := by
  intro _ p c ws e; cases e; exact ⟨Nat.le_of_ble_eq_true rfl, command_of_code _⟩
theorem highwayMap (port : Port) (words : List Word) : Statement (.highwayMap port words) := by
  intro h p c ws e; cases e
  exact ⟨by simp only [Instr.wellFormed, beq_iff_eq] at h; omega, command_of_code _⟩
theorem lineAnswer (port : Port) (line destination : Word) : Statement (.lineAnswer port line destination) := by
  intro _ p c ws e; cases e; exact ⟨Nat.le_of_ble_eq_true rfl, command_of_code _⟩
theorem lineQueue (port : Port) (line : Word) : Statement (.lineQueue port line) := by
  intro _ p c ws e; cases e; exact ⟨Nat.le_of_ble_eq_true rfl, command_of_code _⟩
theorem lineScreen (port : Port) (line : Word) : Statement (.lineScreen port line) := by
  intro _ p c ws e; cases e; exact ⟨Nat.le_of_ble_eq_true rfl, command_of_code _⟩
theorem lineTake (port : Port) (line : Word) : Statement (.lineTake port line) := by
  intro _ p c ws e; cases e; exact ⟨Nat.le_of_ble_eq_true rfl, command_of_code _⟩
theorem lineBack (port : Port) (line : Word) : Statement (.lineBack port line) := by
  intro _ p c ws e; cases e; exact ⟨Nat.le_of_ble_eq_true rfl, command_of_code _⟩
theorem lineDrop (port : Port) (line : Word) : Statement (.lineDrop port line) := by
  intro _ p c ws e; cases e; exact ⟨Nat.le_of_ble_eq_true rfl, command_of_code _⟩
theorem linePromote (port : Port) (line : Word) : Statement (.linePromote port line) := by
  intro _ p c ws e; cases e; exact ⟨Nat.le_of_ble_eq_true rfl, command_of_code _⟩
theorem lineGain (port : Port) (line gain fade : Word) : Statement (.lineGain port line gain fade) := by
  intro _ p c ws e; cases e; exact ⟨Nat.le_of_ble_eq_true rfl, command_of_code _⟩
theorem alertPost (port : Port) (id priority cls clip tone expiry : Word) : Statement (.alertPost port id priority cls clip tone expiry) := by
  intro _ p c ws e; cases e; exact ⟨Nat.le_of_ble_eq_true rfl, command_of_code _⟩
theorem alertCancel (port : Port) (id : Word) : Statement (.alertCancel port id) := by
  intro _ p c ws e; cases e; exact ⟨Nat.le_of_ble_eq_true rfl, command_of_code _⟩
theorem alertPolicy (port : Port) (part : Word) (values : List Word) : Statement (.alertPolicy port part values) := by
  intro h p c ws e; cases e
  exact ⟨by simp only [Instr.wellFormed, decide_eq_true_eq] at h; simp only [List.length_cons]; omega, command_of_code _⟩
theorem alertRelease (port : Port) (id : Word) : Statement (.alertRelease port id) := by
  intro _ p c ws e; cases e; exact ⟨Nat.le_of_ble_eq_true rfl, command_of_code _⟩
theorem alertDecline (port : Port) (id : Word) : Statement (.alertDecline port id) := by
  intro _ p c ws e; cases e; exact ⟨Nat.le_of_ble_eq_true rfl, command_of_code _⟩
theorem countersClear (port : Port) : Statement (.countersClear port) := by
  intro _ p c ws e; cases e; exact ⟨Nat.le_of_ble_eq_true rfl, command_of_code _⟩
theorem lampSet (port : Port) (lamp duty : Word) : Statement (.lampSet port lamp duty) := by
  intro _ p c ws e; cases e; exact ⟨Nat.le_of_ble_eq_true rfl, command_of_code _⟩
theorem unknownCommand (port : Port) (value : Word) : Statement (.unknownCommand port value) := by
  intro _ p c ws e; exact nomatch e
theorem mailboxOverrun (port : Port) (value : Word) : Statement (.mailboxOverrun port value) := by
  intro _ p c ws e; exact nomatch e
theorem xmPointerWrite (port : Port) (value : Word) : Statement (.xmPointerWrite port value) := by
  intro _ p c ws e; exact nomatch e
theorem xmDataRead (port : Port) : Statement (.xmDataRead port) := by
  intro _ p c ws e; exact nomatch e
theorem xmDataWrite (port : Port) (value : Word) : Statement (.xmDataWrite port value) := by
  intro _ p c ws e; exact nomatch e
theorem eventWordWrite (port : Port) (value : Word) : Statement (.eventWordWrite port value) := by
  intro _ p c ws e; exact nomatch e
theorem eventMaskWrite (port : Port) (value : Word) : Statement (.eventMaskWrite port value) := by
  intro _ p c ws e; exact nomatch e
theorem clipDataWrite (port : Port) (value : Word) : Statement (.clipDataWrite port value) := by
  intro _ p c ws e; exact nomatch e
theorem clipDataRead (port : Port) : Statement (.clipDataRead port) := by
  intro _ p c ws e; exact nomatch e
theorem heldWriteReleased (port : Port) : Statement (.heldWriteReleased port) := by
  intro _ p c ws e; exact nomatch e
theorem heldReadReleased (port : Port) : Statement (.heldReadReleased port) := by
  intro _ p c ws e; exact nomatch e
theorem portClear (port : Port) (value : Word) : Statement (.portClear port value) := by
  intro _ p c ws e; exact nomatch e
theorem ramp (src : Source) (target length : Nat) : Statement (.ramp src target length) := by
  intro _ p c ws e; exact nomatch e
theorem cut (src : Source) : Statement (.cut src) := by
  intro _ p c ws e; exact nomatch e
theorem hold (length : Nat) : Statement (.hold length) := by
  intro _ p c ws e; exact nomatch e
theorem restore (length : Nat) : Statement (.restore length) := by
  intro _ p c ws e; exact nomatch e
theorem stateNotice (src : Source) (n : StateNotice) : Statement (.stateNotice src n) := by
  intro _ p c ws e; exact nomatch e
theorem silentNotice (src : Source) : Statement (.silentNotice src) := by
  intro _ p c ws e; exact nomatch e
theorem lockRequest (clip : Fin 128) : Statement (.lockRequest clip) := by
  intro _ p c ws e; exact nomatch e
theorem unlock (clip : Fin 128) : Statement (.unlock clip) := by
  intro _ p c ws e; exact nomatch e
theorem arbiterGrant : Statement (.arbiterGrant) := by
  intro _ p c ws e; exact nomatch e
theorem burstEnd : Statement (.burstEnd) := by
  intro _ p c ws e; exact nomatch e
theorem deckPrimed (d : DeckId) : Statement (.deckPrimed d) := by
  intro _ p c ws e; exact nomatch e
theorem lookahead (d : DeckId) : Statement (.lookahead d) := by
  intro _ p c ws e; exact nomatch e
theorem cueFadeOutPoint (d : DeckId) : Statement (.cueFadeOutPoint d) := by
  intro _ p c ws e; exact nomatch e
theorem cueSeguePoint (d : DeckId) : Statement (.cueSeguePoint d) := by
  intro _ p c ws e; exact nomatch e
theorem segueSignal (receiver : DeckId) : Statement (.segueSignal receiver) := by
  intro _ p c ws e; exact nomatch e
theorem cueEnd (d : DeckId) : Statement (.cueEnd d) := by
  intro _ p c ws e; exact nomatch e
theorem slotWordArrival (slot : Fin 16) (word : BitVec 32) : Statement (.slotWordArrival slot word) := by
  intro _ p c ws e; exact nomatch e
theorem transmitFrame : Statement (.transmitFrame) := by
  intro _ p c ws e; exact nomatch e
theorem ringQualifyExpiry (k : Line) : Statement (.ringQualifyExpiry k) := by
  intro _ p c ws e; exact nomatch e
theorem ringGapExpiry (k : Line) : Statement (.ringGapExpiry k) := by
  intro _ p c ws e; exact nomatch e
theorem answerGraceExpiry (k : Line) : Statement (.answerGraceExpiry k) := by
  intro _ p c ws e; exact nomatch e
theorem loopLossExpiry (k : Line) : Statement (.loopLossExpiry k) := by
  intro _ p c ws e; exact nomatch e
theorem releaseGuardExpiry (k : Line) : Statement (.releaseGuardExpiry k) := by
  intro _ p c ws e; exact nomatch e
theorem forwardTimerExpiry (id : Word) : Statement (.forwardTimerExpiry id) := by
  intro _ p c ws e; exact nomatch e
theorem expiryTimerExpiry (id : Word) : Statement (.expiryTimerExpiry id) := by
  intro _ p c ws e; exact nomatch e
theorem preemptEnd : Statement (.preemptEnd) := by
  intro _ p c ws e; exact nomatch e
theorem toneGeneratorOverflow (g : Generator) : Statement (.toneGeneratorOverflow g) := by
  intro _ p c ws e; exact nomatch e
theorem toneEnd : Statement (.toneEnd) := by
  intro _ p c ws e; exact nomatch e
theorem messageEnd : Statement (.messageEnd) := by
  intro _ p c ws e; exact nomatch e
theorem restoreEnd : Statement (.restoreEnd) := by
  intro _ p c ws e; exact nomatch e
theorem programFrameFormed : Statement (.programFrameFormed) := by
  intro _ p c ws e; exact nomatch e
theorem alertNoticeHanded (n : AlertNotice) : Statement (.alertNoticeHanded n) := by
  intro _ p c ws e; exact nomatch e
theorem studioValueChange (c : StudioChange) : Statement (.studioValueChange c) := by
  intro _ p c ws e; exact nomatch e
theorem standbyDeparture : Statement (.standbyDeparture) := by
  intro _ p c ws e; exact nomatch e
theorem transmitGapEnd : Statement (.transmitGapEnd) := by
  intro _ p c ws e; exact nomatch e
theorem pauseFrame (bytes : List Byte) : Statement (.pauseFrame bytes) := by
  intro _ p c ws e; exact nomatch e
theorem siteStatusFrame (bytes : List Byte) : Statement (.siteStatusFrame bytes) := by
  intro _ p c ws e; exact nomatch e
theorem rxBadCheck (bytes : List Byte) : Statement (.rxBadCheck bytes) := by
  intro _ p c ws e; exact nomatch e
theorem rxBadFrame (bytes : List Byte) : Statement (.rxBadFrame bytes) := by
  intro _ p c ws e; exact nomatch e
theorem lossTimerExpiry : Statement (.lossTimerExpiry) := by
  intro _ p c ws e; exact nomatch e
theorem pauseTimerExpiry : Statement (.pauseTimerExpiry) := by
  intro _ p c ws e; exact nomatch e
theorem lampInputChange (i : LampInput) : Statement (.lampInputChange i) := by
  intro _ p c ws e; exact nomatch e
theorem flashTimerExpiry (lamp : Lamp) : Statement (.flashTimerExpiry lamp) := by
  intro _ p c ws e; exact nomatch e
theorem counterIncrement (c : Counter) : Statement (.counterIncrement c) := by
  intro _ p c ws e; exact nomatch e
theorem startPatternFound (bits : Word) : Statement (.startPatternFound bits) := by
  intro _ p c ws e; exact nomatch e

end Sys2Proof.Laws.Shape
end

