-- ==== Sys2Proof/Tests/Slice0.lean ====
section
/-!
SUPPORT. Tests/Slice0.lean: small tests of one step each, the smoke test of WellFormed, and for every statement of
Obligations.lean with hypotheses a witness that they can hold, clause by clause. Expected results are from the reference's
text and examples, cited with each test.
-/
namespace Sys2Proof.Tests

set_option Elab.async false

open Sys2Proof Sys2Proof.Machine

/-! ## Small states -/

/-- The part running, its records published, everything else as after RESET_N. -/
def live : State := { State.reset with clock := ⟨.running, 0, 0, false, true⟩ }
/-- No ramp has reached its length, source by source. -/
theorem settled {s : State} (h : (allSources.all fun x => !(s.air.sources.get x).ramp.atEnd) = true) :
    s.rampsSettled := by
  intro src
  have hs : src ∈ allSources := by rcases src with (_ | _) | _ | (_ | _) | _ | _ <;> simp [allSources, allLines]
  simpa using List.all_eq_true.mp h src hs

/-- A state with one source's record replaced. -/
def withSrc (s : State) (src : Source) (r : SourceRec) : State :=
  { s with air := { s.air with sources := s.air.sources.set src r } }
/-- A state with one deck's record replaced. -/
def withDeck (s : State) (d : DeckId) (r : DeckRec) : State := { s with decks := s.decks.set d r }
/-- A state with one line's record replaced. -/
def withLine (s : State) (k : Line) (r : LineRec) : State :=
  { s with lines := { s.lines with recs := s.lines.recs.set k r } }
/-- A state with one clip's entry replaced. -/
def withClip (s : State) (i : Fin 128) (e : ClipEntry) : State :=
  { s with clips := { s.clips with table := s.clips.table.set i e } }
/-- A state with one port replaced. -/
def withPort (s : State) (p : Port) (q : PortState) : State := { s with ports := s.ports.set p q }
/-- A state with a page search running for port A. -/
def searching (s : State) (pairs : Nat) : State := { s with clips := { s.clips with search := some ⟨.a, pairs, 0⟩ } }

/-- A source at unity, settled. -/
def onSrc : SourceRec := ⟨.on, 32768, ⟨0, 32768, 480, 480, false⟩, none⟩
/-- A source on its way up. -/
def risingSrc : SourceRec := ⟨.rising, 16384, ⟨0, 32768, 480, 240, true⟩, none⟩
/-- A source on its way down. -/
def fallingSrc : SourceRec := ⟨.falling, 16384, ⟨32768, 0, 480, 240, true⟩, none⟩
/-- A source an alert holds, silent already. -/
def heldSrc : SourceRec := ⟨.held, 0, ⟨32768, 0, 480, 480, false⟩, some 32768⟩
/-- A READY clip of one page with a lock. -/
def readyClip : ClipEntry := ⟨.ready, some .a, 0, 1, 8192, 8192, 1⟩
/-- A LOADING clip of one page of port A. -/
def loadingClip : ClipEntry := ⟨.loading, some .a, 0, 1, 8192, 0, 0⟩
/-- A RETIRING clip with one lock. -/
def retiringClip : ClipEntry := { readyClip with state := .retiring }
/-- A cue of the whole of clip 5, read at the first address of the cue area. -/
def cue : Cue where
  address := 64
  ends := true
  holds := false
  notifies := true
  segues := false
  clip := 5
  first := 0
  pages := 1
  start := 0
  length := 8192
  gain := 32768
  fadeIn := 0
  fadeOut := 0
  segue := 0
  played := 0
  fetched := 0
  fadeDone := false
  segueDone := false
/-- A deck with that cue in a state. -/
def deckIn (st : DeckState) : DeckRec := { DeckRec.reset with state := st, current := some cue }
/-- A line record in a state. -/
def lineIn (st : LineState) : LineRec := { LineRec.reset with state := st }
/-- An alert of id 7 on clip 5, in a state. -/
def alertIn (st : AlertState) : AlertRec where
  id := 7
  priority := 4
  cls := .watch
  clip := 5
  first := 0
  pages := 1
  sealed := 8192
  tone := 2
  expiry := 60
  state := st
  forwarded := false
  timePosted := 0
  forwardDelay := 0
  forwardTimer := none
  expiryTimer := none
/-- A running part with line 1 in a state, its queue and screener binding in step. -/
def calling (st : LineState) : State :=
  { withLine live .l1 (lineIn st) with
    lines :=
      { (withLine live .l1 (lineIn st)).lines with
        queue := if st = .waiting then [.l1] else [], screener := if st = .screen then some .l1 else none } }

/-- A state whose alert engine is in a phase with a queue. -/
def alerting (s : State) (p : Phase) (q : List AlertRec) : State :=
  { s with alert := { s.alert with phase := p, queue := q, messageLength := 1 } }
/-- The message's last pair has been taken. -/
def lastTaken (s : State) : State := { s with alert := { s.alert with pairsTaken := 1 } }

/-! ## Witnesses: the hypotheses of the statements can hold -/

theorem test_witness_StepRunsTheFrontCommand : live.pending = [] := rfl

theorem test_witness_StepTakesOneCommandAndEndsQuiet :
    (∃ t, step { live with pending := [.counterIncrement .missedCalls] } = .next t) ∧
      ({ live with pending := [.counterIncrement .missedCalls] } : State).quiet :=
  ⟨⟨_, rfl⟩, rfl, rfl⟩

/-- A running part with something in every place the invariants speak of, and a command waiting. -/
def busy : State :=
  withDeck
    (withLine
      (withSrc
        { live with
          pending := [.eventMaskWrite .a 5], xm := [(51, 3), (4096, 7)], sdram := [(0, 1)]
          ports := live.ports.set .a { PortState.reset with pointer := 51, readAhead := [(51, 3), (52, 0)] }
          lines := { live.lines with queue := [.l1] }
          clips := { live.clips with pages := [⟨0, 1, 5⟩, ⟨2, 1, 6⟩], search := some ⟨.a, 1, 0⟩ }
          counters := Vector.replicate 29 4294967295 } .mic risingSrc)
      .l1 (lineIn .waiting))
    .d1 (deckIn .playing)

theorem test_busy_steps : ∃ t, step busy = .next t := ⟨_, rfl⟩

theorem test_witness_StepKeepsTheMemoriesCanonical : busy.canonical := by constructor <;> decide +kernel

theorem test_witness_StepKeepsTheReadAheadsCurrent : busy.aheadCurrent := by intro p; cases p <;> decide +kernel

theorem test_witness_StepKeepsTheAirMapInRange : busy.air.inRange := by
  refine ⟨fun src => ?_, ?_, ⟨?_, ?_, ?_⟩, ?_, ?_⟩
  · rcases src with (_ | _) | _ | (_ | _ | _ | _ | _ | _ | _ | _) | _ | _ <;>
      exact ⟨by decide +kernel, ⟨by decide +kernel, by decide +kernel, by decide +kernel⟩, by decide +kernel,
        by decide +kernel⟩
  all_goals decide +kernel

theorem test_witness_StepKeepsTheCallersInOrder : busy.lines.inOrder := by
  refine ⟨by decide +kernel, fun k => ?_, fun k => ?_⟩ <;> cases k <;> decide +kernel

theorem test_witness_StepKeepsThePagesInOrder : busy.clips.inOrder := by
  refine ⟨⟨?_, ?_, ?_, ?_, trivial⟩, ?_, ?_⟩ <;> decide +kernel

theorem test_witness_StepKeepsCuesPlacedAndCountersInRange : busy.cuesPlaced ∧ busy.countersInRange := by
  refine ⟨fun d => ?_, fun c => ?_⟩
  · cases d <;>
      refine ⟨fun c h => ?_, fun c h => ?_, fun c h => ?_⟩ <;> cases h
    all_goals exact ⟨by decide +kernel, by decide +kernel⟩
  · simp [busy, withDeck, withLine, withSrc, Config.counterMax]

/-- Each kind of record with a change its owner's rule names, and one without. -/
theorem test_witness_PublicationRewritesTheDueRecords :
    let s := live.force [.lamps, .lamps, .meters]
    let cold : State := { live with clock := ⟨.startUp, 0, 0, false, false⟩ }
    (inRecord .lamps 14304 ∧ inRecord .lamps 14313 ∧ ¬ inRecord .lamps 14314) ∧
      (RecordId.lamps ∈ s.forced ∧ s.forced.count .lamps = 2 ∧ RecordId.link ∉ s.forced) ∧
      (∃ f : ClipEntry → ClipEntry, f (live.clip 127) ≠ live.clip 127) ∧
      (cold.clock.begun = false ∧ RecordId.storeSummary ∈ (cold.force [.storeSummary, .link]).forced ∧
        RecordId.link ∉ (cold.force [.storeSummary, .link]).forced) ∧
      live.clock.begun = true ∧
      (∀ d, ∃ f : DeckRec → DeckRec, deckKey (f (live.decks.get d)) ≠ deckKey (live.decks.get d)) ∧
      (∀ k, ∃ f : LineRec → LineRec, lineKey (f (live.lines.recs.get k)) ≠ lineKey (live.lines.recs.get k)) ∧
      (∃ f : List Line → List Line, f live.lines.queue ≠ live.lines.queue) ∧
      (∃ f : LineControl → LineControl, callersKey (f live.lines) ≠ callersKey live.lines) ∧
      (∃ f : AlertEngine → AlertEngine, alertQueueKey (f live.alert) ≠ alertQueueKey live.alert ∧
        engineKey (f live.alert) ≠ engineKey live.alert) ∧
      (∃ f : DeadAir → DeadAir, deadAirKey (f live.deadAir) ≠ deadAirKey live.deadAir) ∧
      (∃ f : Link → Link, linkKey (f live.link) ≠ linkKey live.link) ∧
      ∃ f : LampDriver → LampDriver, lampWords (f live.lamps) ≠ lampWords live.lamps := by
  simp only [inRecord]
  refine ⟨by decide +kernel, by decide +kernel, ⟨fun e => { e with locks := 1 }, by decide +kernel⟩, by decide +kernel, rfl,
    fun d => ⟨fun r => { r with state := .cued }, by cases d <;> decide +kernel⟩,
    fun k => ⟨fun r => { r with gain := 0 }, by cases k <;> decide +kernel⟩, ⟨fun _ => [.l1], by decide +kernel⟩,
    ⟨fun c => { c with screener := some .l8 }, by decide +kernel⟩,
    ⟨fun _ => { live.alert with queue := [alertIn .airing] }, by decide +kernel, by decide +kernel⟩,
    ⟨fun d => { d with silence := 1 }, by decide +kernel⟩, ⟨fun l => { l with enabled := true }, by decide +kernel⟩,
    ⟨fun d => { d with lamps := .all ⟨.off, false, none, 0, 0⟩ }, by decide +kernel⟩⟩

theorem test_witness_ForbiddenAndUnknownCommandsAreRefused :
    (Instr.micOpen .a).issued = some (.a, .micOpen, []) ∧ Command.micOpen.permits .a = false ∧ live.accepts .a ∧
      commandOf 0 = none ∧ commandOf 0x0062 = none ∧ commandOf 0xFFFF = none := by
  and_intros <;> first | decide +kernel | exact settled (by decide +kernel)

theorem test_witness_BusyMailboxesOverrun :
    let s := withPort live .a { PortState.reset with running := some ⟨0x0001, [], 0⟩ }
    let u : State := { State.reset with clock := ⟨.startUp, 0, 0, false, false⟩ }
    ((Instr.lampSet .a 0 1).issued = some (.a, .lampSet, [0, 1]) ∧ s.runs ∧ (s.ports.get .a).wait = none ∧
      (s.ports.get .a).running.isSome = true ∧ s.clock.power ≠ .reset) ∧
      u.clock.power = .startUp ∧ u.quiet ∧ u.nothingOwed ∧ (u.ports.get .a).wait = none := by
  and_intros <;> first | decide +kernel | exact settled (by decide +kernel)

theorem test_witness_ResetIsAssertedAndReleased :
    State.reset.clock.power = .reset ∧ Instr.startUpEnd ≠ .resetNAssert ∧
      ∀ a b, Instr.startUpEnd ≠ .resetNRelease a b := by
  decide +kernel

/-- Start-up at its last moment: 48 program sample events, no more. -/
def startUp48 : State := { State.reset with clock := ⟨.startUp, 48, 0, false, false⟩ }

theorem test_witness_StartUpEnds :
    startUp48.clock.power = .startUp ∧ 48 ≤ startUp48.clock.startUpEvents ∧ startUp48.quiet ∧
      startUp48.nothingOwed := by
  and_intros <;> first | decide +kernel | exact settled (by decide +kernel)

theorem test_witness_SampleEventStepsRampsAndTimers :
    let s := withSrc live .mic risingSrc
    let k : State := { live with
      clock := ⟨.running, 48, 47, false, true⟩, air := { live.air with duckRamp := ⟨32768, 8192, 9600, 9599, true⟩ } }
    (s.clock.power ≠ .reset ∧ (s.caughtUp.air.sources.get .mic).ramp.running = true ∧
      (s.caughtUp.air.sources.get .mic).ramp.position < (s.caughtUp.air.sources.get .mic).ramp.length) ∧
    (k.caughtUp.air.duckRamp.running = true ∧ k.caughtUp.air.duckRamp.position < k.caughtUp.air.duckRamp.length ∧
      ¬ k.caughtUp.clock.msEvents + 1 < 48) ∧
    live.quiet ∧ ∀ f ∈ dueActions, f live = live := by
  and_intros <;> decide +kernel

theorem test_witness_SampleEventMixesTheProgram :
    live.clock.power ≠ .reset ∧ ((calling .waiting).caughtUp.lines.recs.get .l1).state = .waiting ∧
      (∃ out : Int → Int, ∀ a, out a = max (-8388608) (min 8388607 ((a + 16384) / 32768))) ∧
      (∃ slot : Option (Fin 16) → Int, ∀ x, slot x = match x with
        | none => 0
        | some n => if live.highway.map.rxEnable.getLsbD n = true then live.highway.kept[n].toInt else 0) ∧
      (∃ on : Source → Bool, ∀ src, on src = decide ((live.air.sources.get src).now ≠ .off)) ∧
      ∃ left : Source → Int, ∀ src,
        left src = if (live.air.sources.get src).now ≠ .off then
          (live.mixer.inputs.get src).1 * (live.mixer.gains.get src : Int) else 0 :=
  ⟨by decide +kernel, by decide +kernel, ⟨_, fun _ => rfl⟩, ⟨_, fun _ => rfl⟩, ⟨_, fun _ => rfl⟩, _, fun _ => rfl⟩

theorem test_witness_SampleEventGathersTheInputs :
    let s := withDeck (withDeck live .d1 (deckIn .playing)) .d2 { deckIn .held with buffer := [⟨1, 2⟩] }
    let e (p : Phase) (buf : List Pair) : State :=
      { live with alert := { live.alert with phase := p, messageLength := 9, reader := ⟨some 0, 1, buf⟩ } }
    let f (buf : List Pair) : State :=
      withSrc { live with deadAir := { live.deadAir with state := .engaged, binding := some ⟨5, 0, 1, 8⟩, buffer := buf } }
        .fallback onSrc
    (s.clock.power ≠ .reset ∧ (s.caughtUp.decks.get .d1).state = .playing ∧ (s.caughtUp.decks.get .d1).buffer = [] ∧
      (s.caughtUp.decks.get .d2).state = .held ∧ (s.caughtUp.decks.get .d2).heldSilent = false ∧
      (s.caughtUp.decks.get .d2).buffer = [⟨1, 2⟩]) ∧
    (¬ ((live.caughtUp.decks.get .d1).state = .playing ∨
      ((live.caughtUp.decks.get .d1).state = .held ∧ (live.caughtUp.decks.get .d1).heldSilent = false))) ∧
    (({ live with alert := { live.alert with phase := .tone, phaseLength := 5 } } : State).caughtUp.alert.phase = .tone) ∧
    ((e .message []).caughtUp.alert.phase = .message ∧ (e .message []).caughtUp.alert.reader.buffer = [] ∧
      (e .message [⟨1, 2⟩]).caughtUp.alert.reader.buffer = [⟨1, 2⟩]) ∧
    ((f []).caughtUp.air.sources.fallback.now = .on ∧ (f []).caughtUp.deadAir.buffer = [] ∧
      (f [⟨1, 2⟩]).caughtUp.deadAir.buffer = [⟨1, 2⟩] ∧ (f []).caughtUp.deadAir.binding.isSome = true) ∧
    live.caughtUp.air.sources.fallback.now = .off ∧
    (∃ slot : Option (Fin 16) → Int, ∀ x, slot x = match x with
      | none => 0
      | some n => if live.highway.map.rxEnable.getLsbD n = true then live.highway.kept[n].toInt else 0) ∧
    (∃ sign : ToneState → Int, ∀ g,
      sign g = if g.positive = true then (g.settings.amplitude : Int) else -(g.settings.amplitude : Int)) ∧
    ∃ next : ToneState → ToneState, ∀ g, next g =
      if g.prescale + 1 < 2 ^ g.settings.exponent then { g with prescale := g.prescale + 1 }
      else { g with prescale := 0, counter := g.counter + 1 } := by
  and_intros
  any_goals first | decide +kernel | exact ⟨_, fun _ => rfl⟩

theorem test_witness_RampEndsSettle :
    let r : SourceRec := { risingSrc with ramp := { risingSrc.ramp with position := 480 } }
    let s := withSrc live .mic r
    let k : State := { live with air := { live.air with duckRamp := ⟨32768, 8192, 9600, 9600, true⟩ } }
    (s.clock.power = .running ∧ s.quiet ∧ (s.air.sources.get .mic).ramp.running = true ∧
      (s.air.sources.get .mic).ramp.length ≤ (s.air.sources.get .mic).ramp.position ∧
      (∀ d, Source.mic = .deck d → (s.decks.get d).calm)) ∧
    (∀ d, Source.deck .d1 = .deck d → (live.decks.get d).calm) ∧
      (k.clock.power ≠ .reset ∧ k.air.duckRamp.running = true ∧ k.air.duckRamp.length ≤ k.air.duckRamp.position) ∧
      (s.clock.power = .running ∧ ∀ x, x ≠ .mic → (s.air.sources.get x).ramp.running = false ∨
        (s.air.sources.get x).ramp.position < (s.air.sources.get x).ramp.length) ∧
      s.landed.rampsSettled ∧ (Instr.micOpen .b).issued.isSome = true := by
  and_intros
  any_goals first | decide +kernel | exact settled (by decide +kernel)
  · intro d h; cases h
  · intro d _; cases d <;> exact Or.inr rfl
  · intro x h; rcases x with (_ | _) | _ | (_ | _ | _ | _ | _ | _ | _ | _) | _ | _ <;> first | exact absurd rfl h | exact .inl rfl

theorem test_witness_MillisecondsRewriteTheRecords :
    let s (begun : Bool) : State := { live with clock := ⟨.running, 48, 0, true, begun⟩ }
    ((s true).runs ∧ (s true).clock.rewriteDue = true ∧ (s true).clock.begun = true) ∧
      ((s false).runs ∧ (s false).clock.rewriteDue = true ∧ (s false).clock.begun = false) ∧
      ∃ due : RecordId → Prop, ∀ r, due r ↔ if (s false).clock.begun = true then
        r ∈ [RecordId.airMap, .deck .d1, .deck .d2, .alertEngine, .link, .counters] ∨ ∃ k, r = .line k
      else r ≠ .storeSummary ∧ ∀ c, r ≠ .clip c :=
  ⟨⟨⟨rfl, ⟨rfl, rfl⟩, ⟨settled (by decide +kernel), rfl, rfl⟩, rfl⟩, rfl, rfl⟩,
    ⟨⟨rfl, ⟨rfl, rfl⟩, ⟨settled (by decide +kernel), rfl, rfl⟩, rfl⟩, rfl, rfl⟩, _, fun _ => Iff.rfl⟩

/-- A window complete, its peak of the primary sum in place. -/
def window (st : MonitorState) (silence : Nat) (reported : Bool) (peak recovered : Nat) (b : Option FallbackBinding) :
    State :=
  { live with deadAir := { DeadAir.reset with
      windowEvents := 4800, state := st, silence := silence, reported := reported, peaks := ⟨0, 0, peak⟩
      recoveryCount := recovered, binding := b } }

theorem test_witness_WindowsJudgeTheAir :
    let bound : Option FallbackBinding := some ⟨5, 0, 1, 8192⟩
    let up := withSrc (window .engaged 150 true 8389 1 bound) .fallback onSrc
    let waits : State := { up with deadAir := { up.deadAir with arming := true } }
    (waits.runs ∧ 4800 ≤ waits.deadAir.windowEvents ∧ waits.deadAir.arming = true) ∧
    ((window .disarmed 0 false 0 0 none).runs ∧ 4800 ≤ (window .disarmed 0 false 0 0 none).deadAir.windowEvents ∧
      (window .disarmed 0 false 0 0 none).deadAir.arming = false ∧ (window .disarmed 0 false 0 0 none).deadAir.state = .disarmed) ∧
    ((window .watching 9 false 8389 0 none).alert.phase = .standby ∧
      (window .watching 9 false 8389 0 none).deadAir.threshold ≤
        (window .watching 9 false 8389 0 none).deadAir.peaks.primary) ∧
    ((window .watching 148 false 8388 0 none).deadAir.peaks.primary <
        (window .watching 148 false 8388 0 none).deadAir.threshold ∧
      (window .watching 148 false 8388 0 none).deadAir.silence + 1 <
        (window .watching 148 false 8388 0 none).deadAir.limit) ∧
    ((window .watching 149 true 8388 0 none).deadAir.silence + 1 =
        (window .watching 149 true 8388 0 none).deadAir.limit ∧
      (window .watching 149 true 8388 0 none).deadAir.reported = true) ∧
    ((window .watching 150 false 8388 0 none).deadAir.silence = (window .watching 150 false 8388 0 none).deadAir.limit ∧
      (window .watching 150 false 8388 0 none).deadAir.reported = false) ∧
    (window .watching 149 false 0 0 bound).deadAir.binding.isSome = true ∧
    (up.runs ∧ 4800 ≤ up.deadAir.windowEvents ∧ up.alert.phase = .standby ∧ up.deadAir.state = .engaged ∧
      up.deadAir.arming = false ∧ up.deadAir.threshold ≤ up.deadAir.peaks.primary ∧
      up.deadAir.recovery ≤ up.deadAir.recoveryCount + 1) ∧
    (window .engaged 150 true 8388 1 bound).deadAir.peaks.primary <
        (window .engaged 150 true 8388 1 bound).deadAir.threshold ∧
    (window .engaged 150 true 8389 0 bound).deadAir.recoveryCount + 1 <
        (window .engaged 150 true 8389 0 bound).deadAir.recovery := by
  and_intros <;> first | decide +kernel | exact settled (by decide +kernel)

/-- A state under hold. -/
def holding (s : State) : State := { s with air := { s.air with hold := true } }

theorem test_witness_RampMovesASource :
    (live.runs ∧ (32768 = min 40000 32768 ∧ 480000 = min 480001 480000) ∧
      (∀ d, Source.mic = .deck d → (live.decks.get d).calm) ∧
      (live.air.sources.get .mic).state ≠ .held ∧ live.air.hold = false) ∧
    ((withSrc live .mic heldSrc).runs ∧ ((withSrc live .mic heldSrc).air.sources.get .mic).state = .held) ∧
    ((holding live).runs ∧ ((holding live).air.sources.get .mic).state = .off ∧ (holding live).air.hold = true ∧
      0 = min 0 32768 ∧ (Source.mic = .fallback → (holding live).deadAir.state = .engaged)) ∧
    (holding (window .engaged 150 true 0 0 none)).deadAir.state = .engaged := by
  and_intros
  any_goals first | decide +kernel | exact settled (by decide +kernel)
  intro d h; cases h

theorem test_witness_CutHoldAndRestore :
    (live.runs ∧ ∀ d, Source.deck .d2 = .deck d → (live.decks.get d).calm) ∧
      (withSrc (withSrc live .mic heldSrc) (.line .l1) risingSrc).runs ∧
      (withSrc (withSrc live .mic heldSrc) (.line .l1) risingSrc).ownersRest := by
  refine ⟨⟨?_, fun d _ => ?_⟩, ?_, fun d => ?_, Or.inl rfl⟩
  · and_intros <;> first | decide +kernel | exact settled (by decide +kernel)
  · cases d <;> exact Or.inr rfl
  · and_intros <;> first | decide +kernel | exact settled (by decide +kernel)
  · cases d <;> exact Or.inr rfl

theorem test_witness_OwnersTakeNotices :
    let s := withDeck live .d1 (deckIn .playing)
    let h := withDeck live .d1 { deckIn .playing with reading := some ⟨64, [], .reread 80⟩ }
    let a : State := { live with deadAir := { live.deadAir with arming := true } }
    (s.runs ∧ (s.decks.get .d1).pendingEnd = .none ∧ (s.decks.get .d1).reading = none) ∧
    (h.runs ∧ (h.decks.get .d1).reading.isSome = true) ∧
    (live.deadAir.arming = false ∧ live.deadAir.binding = none) ∧
    ((window .watching 0 false 0 0 (some ⟨5, 0, 1, 1⟩)).runs ∧
      (window .watching 0 false 0 0 (some ⟨5, 0, 1, 1⟩)).deadAir.binding.isSome = true) ∧
    (live.deadAir.state ≠ .engaged ∧ (window .engaged 0 true 0 0 none).deadAir.state = .engaged) ∧
    (a.runs ∧ a.deadAir.arming = true) ∧ ∀ d, Source.mic ≠ .deck d := by
  and_intros
  any_goals first | decide +kernel | exact settled (by decide +kernel)
  nofun

/-- A state whose slot map gives the microphone slot 0. -/
def micMapped (s : State) : State :=
  { s with highway := { s.highway with map := { s.highway.map with mic := some 0 } } }

theorem test_witness_MicrophoneCommands :
    let z := { holding (micMapped live) with air := { (holding (micMapped live)).air with micGain := 0 } }
    (live.accepts .b ∧ live.highway.map.mic = none ∧ 2400 = min (live.air.micFade * 48) 480000) ∧
    ((micMapped live).accepts .b ∧ (micMapped live).highway.map.mic.isSome = true ∧
      (micMapped live).air.sources.mic.state = .off ∧ (micMapped live).air.hold = false) ∧
    ((holding (micMapped live)).air.sources.mic.state = .off ∧ (holding (micMapped live)).air.hold = true ∧
      min (holding (micMapped live)).air.micGain 32768 ≠ 0) ∧
    (z.accepts .b ∧ z.air.sources.mic.state = .off ∧ z.air.hold = true ∧ 0 = min z.air.micGain 32768) ∧
    (withSrc (micMapped live) .mic risingSrc).air.sources.mic.state = .rising ∧
    (withSrc (micMapped live) .mic fallingSrc).air.sources.mic.state = .falling ∧
    (withSrc (micMapped live) .mic heldSrc).air.sources.mic.state = .held ∧
    (withSrc (micMapped live) .mic heldSrc).accepts .b := by
  and_intros <;> first | decide +kernel | exact settled (by decide +kernel)

theorem test_witness_SettingsCommands :
    (live.accepts .a ∧ live.accepts .b ∧ live.accepts .c) ∧
    (([] : List Word).length ≤ 18 ∧ (List.replicate 18 (0 : Word)).length ≤ 18) ∧
    (2 < (3 : Word).toNat ∧ 3 < (4 : Word).toNat ∧ (3 : Word).toNat = classCode .immediate ∧
      (2 : Word).toNat = classModeCode .logOnly ∧ (0 : Word).toNat = classCode .test ∧
      (0 : Word).toNat = classModeCode .airAuto) ∧
    ((3 : Word) = (match Lamp.link with | .onAir => 0 | .caller => 1 | .alert => 2 | .link => 3) ∧
      4 ≤ (4 : Word).toNat) ∧
    ((1 : Word).toNat = DeckId.d1.number ∧ (2 : Word).toNat = DeckId.d2.number ∧
      (live.decks.get .d1).reading = none ∧ (1 : Word) = (match NotifyMode.onIdle with | .onStop => 0 | .onIdle => 1)) ∧
    (let u := withDeck live .d1 { DeckRec.reset with reading := some ⟨64, [], .load⟩ }
     u.accepts .a ∧ (u.decks.get .d1).reading.isSome = true) ∧
    ((0 : Word).toNat < 1 ∧ 2 < (3 : Word).toNat ∧ 2 ≤ (2 : Word).toNat) ∧
    ∀ d, (live.decks.get d).reading = none := by
  and_intros
  any_goals first | decide +kernel | exact settled (by decide +kernel)
  intro d; cases d <;> rfl

/-- A state in which a search of port A looks for a number of pairs, A's mailbox BUSY with the CLIP_ALLOC. -/
def allocating (pairs : Nat) (runs : List PageRun) : State :=
  { withPort live .a { PortState.reset with running := some ⟨1, [], 0⟩ } with
    xm := [(53, 1)], clips := { live.clips with search := some ⟨.a, pairs, 0⟩, pages := runs } }

theorem test_witness_ClipAllocFindsThePages :
    (live.accepts .a ∧ Port.a ≠ .b ∧ live.storeFree) ∧
    ((Instr.clipFree .c 5).issued = some (.c, .clipFree, [5]) ∧
      Command.clipFree ∈ [Command.clipAlloc, .clipCursor, .clipSeal, .clipFree] ∧ Command.clipFree.permits .c = true ∧
      (searching live 1).accepts .c ∧ ¬ (searching live 1).storeFree) ∧
    ((allocating 8193 [⟨0, 1, 5⟩]).runs ∧ (allocating 8193 [⟨0, 1, 5⟩]).clips.inOrder ∧
      (allocating 8193 [⟨0, 1, 5⟩]).clips.search = some ⟨.a, 8193, 0⟩ ∧
      (allocating 8193 [⟨0, 1, 5⟩]).clips.waiting = [] ∧
      ((allocating 8193 [⟨0, 1, 5⟩]).ports.get .a).running = some ⟨1, [], 0⟩ ∧
      (allocating 8193 [⟨0, 1, 5⟩]).pageWord .a 53 = 1 ∧ 2 = (8193 + 8191) / 8192 ∧
      (allocating 8193 [⟨0, 1, 5⟩]).clips.fits 2 1 ∧
      (∀ g < 1, ¬ (allocating 8193 [⟨0, 1, 5⟩]).clips.fits 2 g) ∧
      ((allocating 8193 [⟨0, 1, 5⟩]).clip 0).state = .free ∧
      ∀ j < (0 : Fin 128), ((allocating 8193 [⟨0, 1, 5⟩]).clip j).state ≠ .free) ∧
    (let s := allocating 8193 [⟨0, 1, 5⟩]
     let w := withPort { s with clips := { s.clips with waiting := [.command .c, .lock 5] } } .c
       { PortState.reset with running := some ⟨0x0001, [0, 9], 0⟩ }
     w.runs ∧ w.clips.inOrder ∧ w.clips.waiting = .command .c :: [.lock 5] ∧ Port.c ≠ .a ∧
      (w.ports.get .c).running = some ⟨0x0001, [0, 9], 0⟩ ∧ (w.ports.get .a).running = some ⟨1, [], 0⟩ ∧
      w.pageWord .a 53 = 1) ∧
    ∀ f, ¬ (allocating (4096 * 8192) [⟨0, 1, 5⟩]).clips.fits 4096 f := by
  refine ⟨⟨?_, ?_, rfl⟩, ⟨rfl, ?_, rfl, ?_, ?_⟩, ⟨?_, ?_, rfl, rfl, rfl, rfl, rfl, ?_, ?_, ?_, ?_⟩,
    ⟨?_, ?_, rfl, by decide, rfl, rfl, rfl⟩, ?_⟩
  · and_intros <;> first | decide +kernel | exact settled (by decide +kernel)
  · decide
  · decide
  · and_intros <;> first | decide +kernel | exact settled (by decide +kernel)
  · show ¬ ((searching live 1).mustWait = false); decide +kernel
  · and_intros <;> first | decide +kernel | exact settled (by decide +kernel)
  · exact ⟨⟨by decide +kernel, by decide +kernel, trivial⟩, by decide +kernel, by decide +kernel⟩
  · refine ⟨by decide +kernel, fun n h1 h2 => ?_⟩
    obtain rfl | rfl : n = 1 ∨ n = 2 := by omega
    all_goals decide +kernel
  · intro g hg h
    obtain rfl : g = 0 := by omega
    exact absurd (h.2 0 (by decide) (by decide)) (by decide +kernel)
  · decide +kernel
  · intro j hj; exact absurd hj (Fin.not_lt_zero j)
  · and_intros <;> first | decide +kernel | exact settled (by decide +kernel)
  · exact ⟨⟨by decide +kernel, by decide +kernel, trivial⟩, by decide +kernel, by decide +kernel⟩
  · rintro f ⟨h1, h2⟩
    have : f = 0 := by
      have : (allocating (4096 * 8192) [⟨0, 1, 5⟩]).clips.totalPages = 4096 := rfl
      omega
    subst this
    exact absurd (h2 0 (by decide) (by decide)) (by decide +kernel)

/-- A running part whose deck 1 fetches a LOADING cue. -/
def fetchingDeck : State := withClip (withDeck live .d1 (deckIn .loading)) 5 readyClip
/-- A running part whose alert reader has pairs of a message left. -/
def fetchingAlert (left : Nat) : State :=
  { live with alert := { live.alert with messageLength := left, reader := ⟨some 0, 0, []⟩ } }
/-- A running part whose port A has one pair in its write buffer. -/
def draining (liveBound : Bool) : State :=
  withClip (withPort live .a { PortState.reset with writeBuffer := [⟨5, 0, ⟨1, 2⟩, liveBound⟩] }) 5 loadingClip
/-- A running part whose port A reads clip 5. -/
def reading : State :=
  withClip (withPort live .a { PortState.reset with cursor := some ⟨5, 0⟩, fetching := true }) 5 readyClip
/-- The state with a grant running. -/
def granted (s : State) (g : Grant) : State := { s with arbiter := { s.arbiter with grant := some g } }

theorem test_witness_ClipCursorsAndSeals :
    let s := withClip live 5 loadingClip
    let b : BoundPair := ⟨5, 0, ⟨1, 2⟩, true⟩
    let u := withPort s .a { PortState.reset with writeBuffer := [b] }
    let w (n : Nat) : State :=
      { withPort s .a { PortState.reset with running := some ⟨3, [], n⟩, sealing := some ⟨5, 8192⟩ } with
        xm := [(53, 3)] }
    (s.accepts .a ∧ s.storeFree ∧ (5 : Word).toNat = (5 : Fin 128).val ∧ (s.clip 5).state ≠ .free ∧
      8192 = min (9000 : Long).toNat (s.clip 5).capacity) ∧
    (128 ≤ (128 : Word).toNat ∧ 128 ≤ (0xFFFF : Word).toNat ∧ (s.clip 6).state = .free) ∧
    ((s.clip 5).state = .loading ∧ (s.clip 5).owner = some .a ∧ (s.ports.get .a).writeBuffer = [] ∧
      1 = min (s.clip 5).capacity (max 1 (0 : Long).toNat)) ∧
    (s.accepts .c ∧ (s.clip 5).owner ≠ some .c) ∧ ((withClip live 5 readyClip).clip 5).state ≠ .loading ∧
    (u.accepts .a ∧ (u.clip 5).state = .loading ∧ (u.clip 5).owner = some .a ∧ (u.ports.get .a).writeBuffer ≠ []) ∧
    ((w 0).runs ∧ ((w 0).ports.get .a).sealing = some ⟨5, 8192⟩ ∧ ((w 0).ports.get .a).running = some ⟨3, [], 0⟩ ∧
      (w 0).pageWord .a 53 = 3) ∧
    ((w 1).runs ∧ ((w 1).ports.get .a).running = some ⟨3, [], 1⟩) := by
  and_intros <;> first | decide +kernel | rfl | exact settled (by decide +kernel)

theorem test_witness_ClipsAreFreedAndLocked :
    let s (n : Nat) (st : ClipState) : State := withClip live 5 { readyClip with state := st, locks := n }
    let b := withClip (granted reading ⟨.port .a, 2, false, 40⟩) 5 { readyClip with locks := 0 }
    let d := granted (draining true) ⟨.port .a, 2, true, 40⟩
    ((s 0 .ready).accepts .a ∧ (s 0 .ready).storeFree ∧ 128 ≤ (128 : Word).toNat) ∧
    (((s 0 .ready).clip 6).state = .free ∧ ((s 0 .ready).clip 5).state ≠ .free ∧
      ((s 0 .ready).clip 5).owner = some .a ∧ ((s 0 .ready).clip 5).owner ≠ some .c ∧
      ((s 0 .ready).clip 5).locks = 0 ∧ ((s 1 .ready).clip 5).locks ≠ 0) ∧
    (s 0 .ready).clips.inOrder ∧
    (b.accepts .a ∧ (b.clip 5).locks = 0 ∧ b.clips.inOrder ∧ b.blindGrant 5) ∧
    (d.accepts .a ∧ (d.clip 5).state = .loading ∧ (d.clip 5).locks = 0 ∧ d.clips.inOrder ∧ d.deadGrant 5 .a = true) ∧
    (let q : BoundPair := ⟨5, 0, ⟨1, 2⟩, true⟩
     let v := granted (withClip (withPort live .a { PortState.reset with writeBuffer := [q, q] }) 5 loadingClip)
       ⟨.port .a, 2, true, 40⟩
     v.accepts .a ∧ v.storeFree ∧ (v.clip 5).state = .loading ∧ (v.clip 5).owner = some .a ∧ (v.clip 5).locks = 0 ∧
      v.clips.inOrder ∧ v.arbiter.grant = some ⟨.port .a, 2, true, 40⟩ ∧
      (v.ports.get .a).writeBuffer = q :: q :: []) ∧
    ((s 1 .ready).runs ∧ ((s 1 .ready).clip 5).state = .ready ∧ ((s 1 .retiring).clip 5).state ≠ .ready) ∧
    (((s 2 .retiring).clip 5).locks ≠ 1 ∧ ((s 1 .retiring).clip 5).locks = 1 ∧
      ((s 1 .retiring).clip 5).state = .retiring ∧ (s 1 .retiring).clips.inOrder) ∧
    (searching live 1).runs ∧ ¬ (searching live 1).storeFree := by
  and_intros
  any_goals first | decide +kernel | exact settled (by decide +kernel)
  any_goals rfl
  any_goals trivial
  · exact ⟨_, .a, rfl, rfl, rfl, fun c h => by cases h; rfl⟩
  · exact fun h : (searching live 1).mustWait = false => absurd h (by decide +kernel)

theorem test_witness_GrantsAndBursts :
    let fb : State := { live with deadAir := { live.deadAir with binding := some ⟨5, 0, 1, 8192⟩ } }
    (live.clock.power ≠ .reset ∧ live.arbiter.grant = none ∧ ∀ w, live.requests w = false) ∧
    ((fetchingAlert 1).grants .alert ∧ fetchingDeck.grants (.deck .d1) ∧ fb.grants .fallback ∧
      (draining true).grants (.port .a) ∧ reading.grants (.port .a)) ∧
    (granted live ⟨.alert, 1, false, 36⟩).arbiter.grant ≠ none ∧
    (let g : Grant := ⟨.port .a, 2, true, 40⟩
     let u := withPort (draining true) .a PortState.reset
     (granted (draining true) g).arbiter.grant = some g ∧
      (∀ b ∈ ((draining true).ports.get .a).writeBuffer.take 2,
        b.live = true ∧ ((draining true).clip b.clip).state = .loading) ∧ ∀ w, u.requests w = false) ∧
    (reading.ports.get .a).cursor = some ⟨5, 0⟩ ∧
    (let g : Grant := ⟨.deck .d1, 64, false, 288⟩
     let u := withDeck fetchingDeck .d1 ((deckIn .loading).fetch [] 64)
     g.holder = .deck .d1 ∧ u.requests (.deck .d1) = true) ∧
    (let u : State := { fetchingAlert 1 with alert := (fetchingAlert 1).alert.fetch [] 1 }
     ∀ w, u.requests w = false) := by
  and_intros
  any_goals first | decide +kernel | exact settled (by decide +kernel)
  · rintro (_ | (_ | _) | _ | (_ | _ | _)) <;> decide +kernel
  · rintro (_ | _) <;> decide +kernel
  · rintro (_ | _) <;> decide +kernel
  · rintro (_ | _ | _) <;> decide +kernel
  · rintro (_ | _) <;> decide +kernel
  · rintro (_ | _ | _) <;> decide +kernel
  all_goals
    show ∀ w : Requester, _ = false
    rintro (_ | (_ | _) | _ | (_ | _ | _)) <;> decide +kernel

theorem test_witness_FetchesFollowTheClips :
    let g : Grant := ⟨.port .a, 2, true, 40⟩
    let void : BoundPair := ⟨5, 0, ⟨1, 2⟩, false⟩
    let late : BoundPair := ⟨6, 0, ⟨1, 2⟩, true⟩
    let good : BoundPair := ⟨5, 8191, ⟨3, 4⟩, true⟩
    let s (b x : BoundPair) : State :=
      granted (withClip (withClip (withPort live .a { PortState.reset with writeBuffer := [b, x] }) 5 loadingClip) 6
        readyClip) g
    ((deckIn .playing).current = some cue ∧ cue.fetched < cue.length) ∧
    (let c := { cue with fetched := 8192 }
     let r := { deckIn .playing with current := some c, next := some cue }
     r.current = some c ∧ c.length ≤ c.fetched ∧ r.next = some cue) ∧
    (fetchingAlert 1).alert.reader.bound = some 0 ∧
    (window .watching 0 false 0 0 (some ⟨5, 0, 1, 1⟩)).deadAir.binding = some ⟨5, 0, 1, 1⟩ ∧
    ((s void good).clock.power ≠ .reset ∧ (s void good).arbiter.grant = some g ∧
      ((s void good).ports.get .a).writeBuffer = void :: good :: [] ∧ void.live = false ∧ good.live = true ∧
      ((s void good).clip good.clip).state = .loading) ∧
    (((s good late).ports.get .a).writeBuffer = good :: late :: [] ∧ ((s good late).clip late.clip).state ≠ .loading) := by
  and_intros <;> decide +kernel

/-- A port gathering a pair of clip 5, with pairs already in its write buffer. -/
def gathering (offset words pairs : Nat) (wait : Option HeldAccess) : PortState :=
  { PortState.reset with
    cursor := some ⟨5, offset⟩, partialPair := List.replicate words 1, wait := wait
    writeBuffer := List.replicate pairs ⟨5, 0, ⟨1, 2⟩, true⟩ }

theorem test_witness_ClipDataWrites :
    let s (q : PortState) : State := withClip (withPort live .a q) 5 loadingClip
    let held (n m : Nat) : PortState := gathering n 3 m (some (.write ⟨1, 2⟩))
    let lost : PortState := { PortState.reset with wait := some (.write ⟨1, 2⟩) }
    ((s (gathering 0 2 0 none)).clock.power ≠ .reset ∧ (gathering 0 2 0 none).wait = none ∧
      (gathering 0 2 0 none).partialPair.length < 3) ∧
    ((gathering 0 3 8 none).partialPair.length = 3 ∧ 8 ≤ (gathering 0 3 8 none).writeBuffer.length) ∧
    ((gathering 8191 3 7 none).partialPair = [1, 1, 1] ∧ (gathering 8191 3 7 none).writeBuffer.length < 8 ∧
      (s (gathering 8191 3 7 none)).accepting .a ⟨5, 8191⟩) ∧
    (∀ c, ¬ (s (gathering 8192 3 7 none)).accepting .a c) ∧
    ((held 0 8).wait = some (.write ⟨1, 2⟩) ∧ 8 ≤ (held 0 8).writeBuffer.length) ∧
    (s (held 8191 7)).accepting .a ⟨5, 8191⟩ ∧ (held 8191 7).writeBuffer.length < 8 ∧
    (∀ c, ¬ (s (held 8192 7)).accepting .a c) ∧ ∀ c, ¬ (s lost).accepting .a c := by
  and_intros
  any_goals first | decide +kernel | exact settled (by decide +kernel)
  any_goals
    rintro c ⟨h, _, _, h2⟩
    cases h
    exact absurd h2 (by decide +kernel)
  rintro c ⟨h, _⟩; cases h

theorem test_witness_ClipDataReads :
    let s (q : PortState) : State := withClip (withPort live .a q) 5 readyClip
    let q0 : PortState := { PortState.reset with cursor := some ⟨5, 8192⟩ }
    let q1 : PortState := { PortState.reset with cursor := some ⟨5, 8191⟩, wordsRead := 3 }
    ((s q0).clock.power ≠ .reset ∧ q0.wait = none ∧ (∀ c, q0.cursor = some c → ((s q0).clip c.clip).capacity ≤ c.offset)) ∧
    (q1.cursor = some ⟨5, 8191⟩ ∧ 8191 < ((s q1).clip 5).capacity ∧ q1.fetching = false ∧
      { q1 with fetching := true }.clipAhead = [] ∧ { q1 with fetching := true, clipAhead := [7] }.clipAhead = [7]) ∧
    ({ PortState.reset with wait := some .read }.cursor = none ∧ { q0 with wait := some .read }.wait = some .read ∧
      { q1 with wait := some .read }.clipAhead = [] ∧
      { q1 with fetching := true, clipAhead := [7], wait := some .read }.wait = some .read) := by
  and_intros <;> decide +kernel

/-- A running part with deck 1 in a state, its clip READY with one lock, and a good record at the first and at the last
address of the cue area. -/
def cueUp (r : DeckRec) : State :=
  { withClip (withDeck live .d1 r) 5 readyClip with xm := [(66, 5), (4082, 5)] }

theorem test_witness_DeckLoadReadsTheRecord :
    let s := cueUp DeckRec.reset
    (s.accepts .a ∧ (0 : Word).toNat < 1 ∧ 2 < (3 : Word).toNat ∧ (1 : Word).toNat = DeckId.d1.number ∧
      (s.decks.get .d1).reading = none ∧ (s.decks.get .d1).state = .idle ∧
      ((cueUp (deckIn .cued)).decks.get .d1).state ≠ .idle) ∧
    (let u := cueUp { DeckRec.reset with reading := some ⟨64, [], .load⟩ }
     u.accepts .a ∧ (u.decks.get .d1).reading.isSome = true) ∧
    (s.goodRecord 64 5 ∧ s.goodRecord 4080 5) ∧
    (s.faultyRecord 63 .badAddress ∧ s.faultyRecord 4081 .badAddress ∧
      ({ s with xm := [(66, 128)] } : State).faultyRecord 64 .badClip ∧ s.faultyRecord 65 .notReady ∧
      ({ s with xm := [(66, 5), (68, 8192)] } : State).faultyRecord 64 .outOfRange) ∧
    (inCueArea 64 ∧ (s.xm.read (64 + 2)).toNat < 128 ∧ ¬ (searching s 1).storeFree) := by
  refine ⟨?_, ?_, ⟨?_, ?_⟩, ⟨.inl ⟨?_, rfl⟩, .inl ⟨?_, rfl⟩, .inr (.inl ?_), .inr (.inr ⟨0, ?_⟩), .inr (.inr ⟨5, ?_⟩)⟩,
    ?_, ?_, ?_⟩
  case refine_5 => exact fun h => absurd h.1 (by decide)
  case refine_6 => exact fun h => absurd h.2 (by decide)
  case refine_8 => exact ⟨⟨by decide, by decide⟩, rfl, by decide +kernel, .inl ⟨by decide +kernel, rfl⟩⟩
  case refine_9 => exact ⟨⟨by decide, by decide⟩, rfl, by decide +kernel, .inr ⟨by decide +kernel, by decide +kernel, rfl⟩⟩
  case refine_12 => exact fun h : State.mustWait _ = false => absurd h (by decide +kernel)
  all_goals and_intros <;> first | decide +kernel | rfl | exact settled (by decide +kernel)

/-- The first words of a record are clear of the completion fields of one far enough off. -/
theorem readApart_of_far {a b : Nat} (h : a + 14 < b ∨ b + 10 < a + 11) : readApart a b := by
  rintro k hk ⟨h1, h2⟩
  omega

/-- A next cue, on the same clip. -/
def follower : Cue := { cue with address := 80 }
/-- Deck 1's clip locked for both its cues. -/
def twice (s : State) : State := withClip s 5 { readyClip with locks := 2 }

theorem test_follower_apart : DeckRec.nextApart { deckIn .cued with next := some follower } 64 := by
  rintro n ⟨⟩
  exact ⟨⟨by decide, by decide⟩, .inl (by decide)⟩

theorem test_twice_kept (r : DeckRec) : (twice (cueUp r)).keepsClips [5, 5] := by
  refine ⟨rfl, ?_⟩
  intro i hi
  obtain rfl : i = 5 := by simpa using hi
  simp [twice, withClip, State.clip, readyClip]

/-- A cue that sends no segue signal as it starts starts no other. -/
theorem test_follows_none {s : State} {d : DeckId} {c : Cue} {P : Cue → Prop} (h : c.signals = false) :
    ∀ m ∈ s.followed d c, P m :=
  fun m hm => by simp [State.followed, h] at hm

/-- A cue whose segue point is its first pair. -/
def signalling : Cue := { cue with segues := true, segue := 8192 }
/-- Deck 1 about to start such a cue, deck 2 CUED with one of its own. -/
def bothCued : State :=
  withDeck (cueUp { deckIn .cued with current := some signalling }) .d2 { deckIn .cued with current := some follower }

/-- What a start leads to stands clear, also where its segue signal starts the other deck. -/
theorem test_follows : ∀ m ∈ bothCued.followed .d1 signalling,
    inCueArea m.address ∧ (apart signalling.address m.address ∨ signalling.address = m.address) ∧
      (bothCued.decks.get .d2).pendingEnd = .none := by
  rintro m hm
  obtain rfl : follower = m := Option.some.inj hm
  exact ⟨⟨by decide, by decide⟩, .inl (.inl (by decide)), rfl⟩

/-- A deck held by a read. -/
def heldDeck : DeckRec := { deckIn .loading with reading := some ⟨64, [], .resume⟩ }

theorem test_witness_DecksStart :
    let s (st : DeckState) := cueUp (deckIn st)
    ((s .playing).accepts .a ∧ (1 : Word).toNat = DeckId.d1.number ∧ ((s .playing).decks.get .d1).reading = none ∧
      ((s .playing).decks.get .d1).state ≠ .cued ∧ ((s .playing).decks.get .d1).state ≠ .loading) ∧
    ((s .loading).accepts .a ∧ ((s .loading).decks.get .d1).state = .loading) ∧
    ((s .cued).accepts .a ∧ ((s .cued).decks.get .d1).current = some cue ∧ (s .cued).startable .d1 cue) ∧
    ((holding (s .cued)).accepts .a ∧ (holding (s .cued)).startable .d1 cue ∧
      ((holding (s .cued)).air.sources.get (.deck .d1)).state = .off) ∧
    (let r := { deckIn .loading with buffer := List.replicate 2047 ⟨1, 2⟩ }
     (cueUp r).runsOwing ∧ r.buffer.length < 2048 ∧ cue.fetched < cue.length) ∧
    (bothCued.accepts .a ∧ bothCued.startable .d1 signalling ∧ bothCued.followed .d1 signalling = some follower) ∧
    (let r := { deckIn .loading with playPending := true, buffer := List.replicate 2048 ⟨1, 2⟩ }
     (cueUp r).runsOwing ∧ 2048 ≤ r.buffer.length ∧ r.playPending = true ∧ (cueUp r).startable .d1 cue) ∧
    (((cueUp heldDeck).decks.get .d1).reading.isSome = true ∧ (cueUp heldDeck).accepts .a) ∧
    (0 : Word).toNat < 1 ∧ 2 < (3 : Word).toNat := by
  and_intros
  any_goals first
    | decide +kernel | exact settled (by decide +kernel) | exact test_follows_none rfl | exact test_follows

/-- Deck 1 on the air with a cue. -/
def onAirWith (r : DeckRec) : State := withSrc (cueUp r) (.deck .d1) onSrc

theorem test_witness_DeckStopsAndSkipsFade :
    ((cueUp DeckRec.reset).accepts .a ∧ ((cueUp DeckRec.reset).decks.get .d1).state = .idle) ∧
    ({ deckIn .held with pendingEnd := .stop }.pendingEnd = .stop) ∧
    (let s := onAirWith (deckIn .playing)
     s.accepts .a ∧ (s.decks.get .d1).state = .playing ∧ (s.decks.get .d1).heldSilent = false ∧
      (s.decks.get .d1).reading = none ∧ 0 < (s.air.sources.get (.deck .d1)).level ∧
      (s.air.sources.get (.deck .d1)).state = .on ∧ 10000 = min (10001 : Word).toNat 10000) ∧
    (let s := holding (withSrc (cueUp (deckIn .held)) (.deck .d1) { heldSrc with level := 1 })
     s.accepts .a ∧ (s.decks.get .d1).state = .held ∧ (s.decks.get .d1).heldSilent = false ∧
      (s.air.sources.get (.deck .d1)).state = .held) ∧
    (let r := { deckIn .cued with next := some follower }
     let s := twice (cueUp r)
     s.accepts .a ∧ (s.decks.get .d1).state = .cued ∧ (s.decks.get .d1).current = some cue ∧ inCueArea cue.address ∧
      r.nextApart cue.address ∧ s.keepsClips r.clips) ∧
    (let s := cueUp { DeckRec.reset with state := .suspended, resumeAddress := some 64 }
     s.accepts .a ∧ (s.decks.get .d1).state = .suspended ∧ (s.decks.get .d1).current = none ∧
      (s.decks.get .d1).next = none ∧ (s.air.sources.get (.deck .d1)).state = .off) ∧
    ((cueUp heldDeck).accepts .a ∧ ((cueUp heldDeck).decks.get .d1).reading.isSome = true ∧ (0 : Word).toNat < 1 ∧
      2 < (3 : Word).toNat) ∧
    (let s := { searching (cueUp (deckIn .playing)) 1 with xm := [(64, 80), (82, 127)] }
     s.accepts .a ∧ (s.decks.get .d1).pendingEnd = .none ∧ (s.air.sources.get (.deck .d1)).state = .off ∧
      (s.air.sources.get (.deck .d1)).level = 0 ∧ (s.decks.get .d1).lookahead = .notMade ∧ cue.holds = false ∧
      ¬ s.storeFree ∧ 80 = (s.xm.read cue.address).toNat ∧ inCueArea 80 ∧ (s.xm.read (80 + 2)).toNat < 128) ∧
    readApart cue.address 80 ∧
    (let c := { cue with fetched := 8192, played := 8192 }
     let r : DeckRec := { deckIn .playing with current := some c, lookahead := .none }
     let s := onAirWith r
     s.acceptsOwing .a ∧ (s.decks.get .d1).current = some c ∧ (s.decks.get DeckId.d1.other).owes = false ∧
      r.reading = none ∧ r.pendingEnd = .none ∧ r.fadeDue = false ∧ r.segueDue = false ∧ c.length ≤ c.played ∧
      c.holds = false ∧ c.ends = true ∧ inCueArea c.address ∧ s.keepsClip c.clip) ∧
    (let c := { cue with segues := true, segue := 1, played := 8191 }
     let r : DeckRec := { deckIn .playing with current := some c }
     let s := onAirWith r
     s.acceptsOwing .a ∧ r.segueDue = true ∧ r.lookaheadDue = false ∧ r.fadeDue = false ∧ c.played < c.length ∧
      r.heldSilent = false ∧ 0 < (s.air.sources.get (.deck .d1)).level ∧
      (s.decks.get DeckId.d1.other).reading = none ∧ (s.decks.get DeckId.d1.other).state ≠ .cued ∧
      (s.decks.get DeckId.d1.other).state ≠ .loading) := by
  and_intros
  any_goals first
    | decide +kernel | exact settled (by decide +kernel) | exact test_follower_apart | exact (test_twice_kept _).2
    | exact fun h : State.mustWait _ = false => absurd h (by decide +kernel)
    | exact readApart_of_far (by decide)
  all_goals rfl

theorem test_witness_StopsAndSkipsComplete :
    (let r := { deckIn .playing with next := some follower, pendingEnd := .stop }
     let s := twice (cueUp r)
     s.completes .d1 .stop (.stateNotice (.deck .d1) ⟨.off, 0⟩) r ∧ r.current = some cue ∧ inCueArea cue.address ∧
      s.keepsClip cue.clip ∧ r.nextApart cue.address ∧ s.keepsClips r.clips) ∧
    (let q := { deckIn .held with next := some follower, lookahead := .found, pendingEnd := .skip }
     let s := twice (cueUp q)
     s.completes .d1 .skip (.stateNotice (.deck .d1) ⟨.off, 0⟩) { q with state := .playing, heldSilent := false } ∧
      q.lookahead ≠ .notMade ∧ apart cue.address follower.address ∧ s.followable .d1 follower ∧
      (∀ x ∈ s.followed .d1 follower, apart cue.address x.address) ∧
      ∃ y k, y = (if cue.played < cue.length then q.fetch s.sdram (s.cutPairs .d1) else q) ∧ y.current = some k ∧
        y.next = some follower) ∧
    (let c := { cue with holds := true }
     let q := { deckIn .held with current := some c, pendingEnd := .skip }
     (cueUp q).completes .d1 .skip (.silentNotice (.deck .d1)) { q with heldSilent := true } ∧ q.next = none ∧
      c.holds = true) ∧
    (let c := { cue with played := 8192 }
     let q := { deckIn .playing with current := some c, pendingEnd := .skip, lookahead := .none }
     (cueUp q).completes .d1 .skip (.cueEnd .d1) q ∧ c.holds = false ∧ c.ends = true ∧ q.lookahead = .none) ∧
    (let q := deckIn .playing
     let c := { cue with ends := false }
     let s := { cueUp q with xm := [(64, 0xFFFF)] }
     (s.completes .d1 .stop (.deckStop .a 1 10001) { q with pendingFade := 10000 } ∧
      s.completes .d1 .skip (.deckSkip .a 1 10000) { q with pendingFade := 10000 }) ∧ q.lookahead = .notMade ∧
      (s.xm.read cue.address).toNat = 0xFFFF ∧ c.ends = false) ∧
    (let s := { cueUp (deckIn .playing) with xm := [(64, 4080), (4082, 5)] }
     s.goodRecord 4080 5 ∧ 4080 = (s.xm.read cue.address).toNat) ∧ readApart cue.address 4080 := by
  refine ⟨⟨⟨rfl, .inl ⟨0, rfl, ?_, rfl, rfl, .inl ⟨rfl, rfl⟩⟩⟩, ?_⟩, ⟨⟨rfl, .inl ⟨0, rfl, ?_, rfl, rfl, .inr ⟨rfl, rfl⟩⟩⟩, ?_⟩,
    ⟨⟨rfl, .inr (.inl ⟨rfl, ?_, rfl, .inr rfl, rfl⟩)⟩, ?_⟩,
    ⟨⟨rfl, .inr (.inr (.inl ⟨rfl, ?_, rfl, .inl rfl, rfl, ?_⟩))⟩, ?_⟩,
    ⟨⟨⟨rfl, .inr (.inr (.inr ⟨1, 10001, ?_, rfl, .inl rfl, .inl ⟨rfl, rfl⟩, rfl, .inl ⟨rfl, rfl⟩⟩))⟩,
      ⟨rfl, .inr (.inr (.inr ⟨1, 10000, ?_, rfl, .inl rfl, .inl ⟨rfl, rfl⟩, rfl, .inr ⟨rfl, rfl, ?_⟩⟩))⟩⟩, ?_⟩, ?_, ?_⟩
  case refine_2 => exact ⟨rfl, ⟨by decide, by decide⟩, ⟨rfl, by decide +kernel, .inr (by decide +kernel)⟩, test_follower_apart, test_twice_kept _⟩
  case refine_4 =>
    exact ⟨by decide, .inl (by decide), ⟨⟨by decide, by decide⟩, test_follows_none rfl⟩, test_follows_none rfl, _, cue, rfl,
      by decide +kernel, by decide +kernel⟩
  case refine_8 => rintro c ⟨⟩; exact ⟨by decide, .inl (by decide)⟩
  case refine_14 => exact ⟨⟨⟨by decide, by decide⟩, rfl, by decide +kernel, by decide +kernel, by decide +kernel⟩, by decide +kernel⟩
  case refine_15 => exact readApart_of_far (by decide)
  all_goals and_intros
  all_goals first | decide +kernel | rfl | exact settled (by decide +kernel)

/-- Four records in a chain, each with no clip. -/
def faultChain : Mem 16 :=
  [(64, 80), (80, 96), (82, 128), (96, 112), (98, 128), (112, 128), (114, 128), (130, 128)]

theorem test_witness_LookaheadsAndResumes :
    let c := { cue with fetched := 8192 }
    let r := { deckIn .playing with current := some c }
    let s := cueUp r
    let u := cueUp { DeckRec.reset with state := .suspended, resumeAddress := some 64 }
    (s.runsOwing ∧ (s.decks.get .d1).current = some c ∧ (cueUp (deckIn .playing)).runsOwing ∧ cue.fetched < cue.length) ∧
    (r.lookahead = .notMade ∧ c.holds = false ∧ c.length ≤ c.fetched ∧ r.reading = none) ∧
    (let s := { s with xm := [(64, 0xFFFF), (66, 5)] }
     (s.xm.read c.address).toNat = 0xFFFF) ∧
    (let s := { s with xm := [(64, 4080), (66, 5), (4082, 5)] }
     (s.xm.read c.address).toNat = 4080 ∧ s.goodRecord 4080 5) ∧
    (inCueArea 64 ∧ (s.xm.read (64 + 2)).toNat < 128 ∧ ¬ (searching s 1).storeFree) ∧
    (s.faultyRecord 0 .badAddress ∧ (0 : Nat) ≠ 0xFFFF ∧ (s.xm.read c.address).toNat = 0) ∧
    (let s := { cueUp { r with faultStreak := 3 } with xm := [(64, 80), (82, 128)] }
     s.faultyRecord 80 .badClip ∧ (s.xm.read c.address).toNat = 80 ∧ 3 ≤ (s.decks.get .d1).faultStreak) ∧
    (let s := { cueUp { r with faultStreak := 2 } with xm := [(64, 80), (80, 0xFFFF), (82, 128)] }
     s.faultyRecord 80 .badClip ∧ (s.decks.get .d1).faultStreak < 3 ∧ (s.xm.read 80).toNat = 0xFFFF ∧ readApart 80 0xFFFF) ∧
    (let s := { cueUp { r with faultStreak := 2 } with xm := [(64, 80), (80, 96), (82, 128), (98, 5)] }
     s.faultyRecord 80 .badClip ∧ (s.xm.read 80).toNat = 96 ∧ s.goodRecord 96 5 ∧ apart 80 96 ∧ readApart 80 96) ∧
    (u.accepts .a ∧ (u.decks.get .d1).state = .suspended ∧ (u.decks.get .d1).resumeAddress = some 64) ∧
    ((cueUp heldDeck).accepts .a ∧ ((cueUp heldDeck).decks.get .d1).reading.isSome = true ∧ (0 : Word).toNat < 1 ∧
      2 < (3 : Word).toNat) ∧
    (u.xm.read 64).toNat = 0 ∧ ¬ inCueArea 0 ∧
    (∀ i : Fin 4, ({ u with xm := faultChain } : State).faultyRecord (80 + 16 * i.val) .badClip) ∧
    ((faultChain.read 64).toNat = 80 ∧
      ∀ i j : Fin 4, j.val = i.val + 1 → 80 + 16 * j.val = (faultChain.read (80 + 16 * i.val)).toNat) ∧
    ∀ i j : Fin 4, i ≠ j →
      apart (80 + 16 * i.val) (80 + 16 * j.val) ∧ readApart (80 + 16 * i.val) (80 + 16 * j.val) := by
  have hb : ∀ (s : State) (a : Nat), 64 ≤ a → a ≤ 4080 → 128 ≤ (s.xm.read (a + 2)).toNat → s.faultyRecord a .badClip :=
    fun s a h1 h2 h3 => .inr (.inl ⟨⟨h1, h2⟩, h3, rfl⟩)
  and_intros
  any_goals first
    | decide +kernel | rfl | exact settled (by decide +kernel) | exact readApart_of_far (by decide)
    | exact hb _ _ (by decide) (by decide) (by decide +kernel)
    | exact fun h : State.mustWait _ = false => absurd h (by decide +kernel)
  · exact .inl ⟨fun h => absurd h.1 (by decide), rfl⟩
  · exact .inl (by decide)
  · exact fun h => absurd h.1 (by decide)
  · have : ∀ i : Fin 4, 128 ≤ (faultChain.read (80 + 16 * i.val + 2)).toNat := by decide +kernel
    exact fun i => hb _ _ (by omega) (by omega) (this i)
  · intro i j h
    refine ⟨?_, readApart_of_far ?_⟩
    · show _ + 4 ≤ _ ∨ _ + 4 ≤ _; omega
    · omega

theorem test_witness_CuePointsAndEnds :
    let c := { cue with fetched := 8192, played := 8192 }
    let n := { cue with address := 80 }
    let r := { deckIn .playing with current := some c, lookahead := .found }
    (let s := cueUp { r with next := some n }
     s.runsOwing ∧ (s.decks.get .d1).current = some c ∧ r.reading = none ∧ c.length ≤ c.played ∧ r.state = .playing ∧
      r.fadeDue = false ∧ r.segueDue = false ∧ r.pendingEnd = .none ∧ r.lookahead ≠ .notMade ∧ inCueArea c.address ∧ s.keepsClip c.clip ∧
      s.followable .d1 n ∧ ∀ q ∈ s.followed .d1 n, apart c.address q.address) ∧ apart c.address n.address ∧
    ((cueUp { r with lookahead := .exhausted }).runsOwing ∧ (cueUp { r with lookahead := .exhausted }).keepsClip c.clip) ∧
    ((cueUp { r with lookahead := .none }).runsOwing ∧ c.holds = false ∧ c.ends = true) ∧
    (let x : DeckRec := { r with current := some { c with segues := true, segue := 1 }, lookahead := .none }
     let s := cueUp x
     s.runsOwing ∧ x.fadeDue = false ∧ x.segueDue = true ∧ x.lookaheadDue = false ∧
      (s.decks.get DeckId.d1.other).reading = none ∧ (s.decks.get DeckId.d1.other).state ≠ .cued ∧
      (s.decks.get DeckId.d1.other).state ≠ .loading) ∧
    (let s := cueUp { r with lookahead := .none }
     s.clock.power = .running ∧ s.found.nothingOwed ∧ (Instr.deckStop .a 1 0).issued.isSome = true ∧
      (s.decks.get DeckId.d1.other).owes = false ∧
      Sys2Proof.Machine.exec (.cueEnd .d1) s = .next (s.deckAct fun s => s.lastTake .d1) ∧
      (s.deckAct fun s => s.lastTake .d1).nothingOwed) ∧
    (let s := lastTaken (alerting (withClip live 5 readyClip) .message [alertIn .airing])
     s.runsEnding ∧ Sys2Proof.Machine.exec .messageEnd s = .next (s.messageAct fun s => s.messageOver) ∧
      (s.messageAct fun s => s.messageOver).nothingOwed) ∧
    (let c := { c with ends := false }
     let s (link : Word) := { cueUp { deckIn .held with current := some c, lookahead := .none } with xm := [(64, link), (82, 5)] }
     (s 80).runsOwing ∧ ((s 80).xm.read c.address).toNat = 80 ∧ (s 80).goodRecord 80 5 ∧ (s 80).keepsClip c.clip ∧
      (s 0xFFFF).runsOwing ∧ ((s 0xFFFF).xm.read c.address).toNat = 0xFFFF) ∧ readApart c.address 80 ∧
    ((cueUp (deckIn .playing)).runsOwing ∧ cue.played < cue.length) ∧
    (let c := { cue with fadeOut := 8192, segue := 8192, segues := true }
     let s := onAirWith { deckIn .playing with current := some c }
     s.runsOwing ∧ c.fadeDone = false ∧ 0 < c.fadeOut ∧ c.length - c.fadeOut ≤ c.played ∧
      c.segueDone = false ∧ 0 < c.segue ∧ c.length - c.segue ≤ c.played ∧
      (s.decks.get DeckId.d1.other).reading = none ∧ (s.decks.get DeckId.d1.other).state ≠ .cued ∧
      (s.decks.get DeckId.d1.other).state ≠ .loading ∧
      ((withDeck s .d2 (deckIn .loading)).decks.get DeckId.d1.other).state = .loading ∧
      ((withDeck s .d2 { deckIn .loading with reading := some ⟨64, [], .resume⟩ }).decks.get
        DeckId.d1.other).reading.isSome = true ∧
      (withDeck s .d2 (deckIn .cued)).startable DeckId.d1.other cue) ∧
    (let c := { cue with fadeOut := 1, played := 8191 }
     let s := withSrc (cueUp { deckIn .held with current := some c }) (.deck .d1) heldSrc
     s.runsOwing ∧ (s.decks.get .d1).state = .held ∧ (s.air.sources.get (.deck .d1)).state = .held ∧ 0 < c.fadeOut ∧
      c.length - c.fadeOut ≤ c.played) := by
  and_intros
  any_goals first
    | decide +kernel | rfl | exact settled (by decide +kernel) | exact readApart_of_far (by decide)
    | exact test_follows_none rfl
  exact .inl (by decide)

/-- Deck 1 with its cue fetched whole and taken up to a count. -/
def takenTo (played : Nat) : DeckRec :=
  { deckIn .playing with current := some { cue with fetched := 8192, played := played }, lookahead := .none }

/-- R71, R84: a DECK_STOP behind the take of the last pair finds the cue ended, PLAYED, and the deck IDLE; one pair earlier
the cue is still to be faded out. -/
theorem test_stop_behind_the_last_take :
    let stopped (n : Nat) := (onAirWith (takenTo n)).act fun s => s.issue .a .deckStop [1, 1000]
    ((stopped 8192).decks.d1.state, (stopped 8192).pageWord .a 49, (stopped 8192).xm.read 75) =
        (.idle, word Reason.badState.code, 3) ∧
      ((stopped 8191).decks.d1.state, (stopped 8191).decks.d1.pendingEnd, (stopped 8191).pageWord .a 0) =
        (.playing, .stop, doneWord) := by
  decide +kernel

/-- R64, R71, R84: what waited for a deck held by its lookahead is taken in its order among the takes. A DECK_STOP that came
behind the last take ends the next cue, one that came before it the cue itself. -/
theorem test_stop_waits_in_its_order :
    let r : DeckRec := { takenTo 8192 with lookahead := .notMade, reading := some ⟨80, [0, 0, 5], .lookahead⟩ }
    let answered (n : Nat) := (withPort (onAirWith { r with inbox := [⟨n, .command⟩] }) .a
      { PortState.reset with running := some ⟨0x0012, [1, 1000], 0⟩ }).deckReadAnswered .d1
    ((answered 8192).decks.d1.current.map Cue.address, (answered 8192).decks.d1.pendingEnd) = (some 80, .stop) ∧
      ((answered 8191).decks.d1.current.map Cue.address, (answered 8191).decks.d1.pendingEnd) = (some 64, .stop) := by
  decide +kernel

theorem test_witness_HighwayMapReplacesTheSlotMap :
    let none23 : List Word := List.replicate 21 0x00FF ++ [0, 0]
    (live.accepts .b ∧ none23.length = 23 ∧ (0x0010 : Word).toNat = 16 ∧ (0x0010 : Word) ≠ 0x00FF) ∧
    (∀ n, 1 ≤ n → n ≤ 21 → none23.getD (n - 1) 0 = 0x00FF) ∧
    ((withLine live .l1 (lineIn .ringing)).lines.recs.get .l1).state ≠ .idle ∧
    (withSrc live .mic risingSrc).air.sources.mic.state ≠ .off ∧ live.air.sources.mic.state = .off ∧
    (∀ k, (live.lines.recs.get k).state = .idle) ∧
    (let words : List Word := [15, 15] ++ List.replicate 19 0x00FF ++ [0, 0]
     words.length = 23 ∧ (words.getD 0 0).toNat = (15 : Fin 16).val ∧ (words.getD 1 0).toNat = (15 : Fin 16).val) ∧
    (let words : List Word := [0, 0x00FF, 0] ++ List.replicate 18 0x00FF ++ [1, 1]
     words.length = 23 ∧ (words.getD 0 0).toNat = 0 ∧ (words.getD 2 0).toNat = 0) := by
  and_intros
  any_goals first | decide +kernel | exact settled (by decide +kernel)
  intro k; cases k <;> decide +kernel

theorem test_calling_inOrder : ∀ st, (calling st).lines.inOrder := by
  intro st
  cases st <;> refine ⟨by decide +kernel, fun k => ?_, fun k => ?_⟩ <;> cases k <;> decide +kernel

theorem test_witness_CallersAreAnsweredAndQueued :
    ((calling .ringing).accepts .b ∧ (1 : Word).toNat = Line.l1.number ∧ (8 : Word).toNat = Line.l8.number ∧
      (0 : Word).toNat = 0 ∧ (1 : Word).toNat ≤ 1 ∧ ((calling .ringing).lines.recs.get .l1).state = .ringing ∧
      (calling .ringing).lines.screener = none) ∧
    ((calling .idle).accepts .b ∧ ((calling .idle).lines.recs.get .l1).state ≠ .ringing) ∧
    ((withLine (calling .screen) .l2 (lineIn .ringing)).lines.screener.isSome = true ∧
      ((withLine (calling .screen) .l2 (lineIn .ringing)).lines.recs.get .l2).state = .ringing) ∧
    ((calling .screen).accepts .b ∧ ((calling .screen).lines.recs.get .l1).state = .screen) ∧
    ((calling .waiting).accepts .b ∧ ((calling .waiting).lines.recs.get .l1).state = .waiting ∧
      (calling .waiting).lines.screener = none) ∧
    (0 : Word).toNat < 1 ∧ 8 < (9 : Word).toNat ∧ 2 ≤ (2 : Word).toNat := by
  and_intros <;> first | decide +kernel | exact settled (by decide +kernel)

/-- Three seats taken, by lines 2 to 4. -/
def seated (s : State) : State :=
  { s with lines := { s.lines with seats := ⟨false, true, true, true, false, false, false, false⟩ } }

theorem test_witness_CallersGoOnAirAndBack :
    ((calling .waiting).accepts .b ∧ (0x00FF : Word) = 0x00FF ∧ (calling .waiting).lines.queue.head? = some .l1 ∧
      (calling .waiting).lines.seatCount < 3 ∧ (calling .waiting).air.hold = false) ∧
    ((holding (calling .screen)).accepts .b ∧ (holding (calling .screen)).air.hold = true ∧
      ((holding (calling .screen)).lines.recs.get .l1).state = .screen ∧
      (holding (calling .screen)).lines.seatCount < 3) ∧
    ((seated (calling .screen)).accepts .b ∧ 3 ≤ (seated (calling .screen)).lines.seatCount ∧
      ((seated (calling .screen)).lines.recs.get .l1).state = .screen) ∧
    ((calling .idle).lines.queue = [] ∧ ((calling .idle).lines.recs.get .l1).state ≠ .screen ∧
      ((calling .idle).lines.recs.get .l1).state ≠ .waiting ∧ ((calling .idle).lines.recs.get .l1).state ≠ .onAir) ∧
    ((calling .onAir).accepts .b ∧ (calling .onAir).lines.inOrder ∧
      ((calling .onAir).lines.recs.get .l1).state = .onAir) ∧
    (0 : Word).toNat < 1 ∧ 8 < (9 : Word).toNat ∧ (9 : Word) ≠ 0x00FF := by
  have := test_calling_inOrder .onAir
  and_intros
  any_goals first | exact this.1 | exact this.2.1 | exact this.2.2
  all_goals first | decide +kernel | exact settled (by decide +kernel)

theorem test_witness_CallersGainAndDrop :
    ((seated (calling .onAir)).accepts .b ∧ ((seated (calling .onAir)).lines.recs.get .l1).state = .onAir ∧
      ((seated (calling .onAir)).air.sources.get (.line .l1)).state = .off ∧ 0 < min (1 : Word).toNat 32768 ∧
      3 ≤ (seated (calling .onAir)).lines.seatCount) ∧
    ((calling .idle).accepts .b ∧ ((calling .idle).lines.recs.get .l1).state ≠ .onAir ∧
      min (0 : Word).toNat 32768 = 0) ∧
    ((calling .onAir).accepts .b ∧ (calling .onAir).lines.seatCount < 3 ∧
      ((calling .onAir).air.sources.get (.line .l1)).state = .off) ∧
    (let s := holding (withSrc (calling .onAir) (.line .l1) heldSrc)
     s.accepts .b ∧ (s.lines.recs.get .l1).state = .onAir ∧ (s.air.sources.get (.line .l1)).state = .held) ∧
    ((withSrc (calling .onAir) (.line .l1) fallingSrc).accepts .b ∧
      ((withSrc (calling .onAir) (.line .l1) fallingSrc).air.sources.get (.line .l1)).state = .falling) ∧
    ((calling .waiting).accepts .b ∧ ((calling .waiting).lines.recs.get .l1).state = .waiting) ∧
    (0 : Word).toNat < 1 ∧ 8 < (9 : Word).toNat := by
  and_intros <;> first | decide +kernel | exact settled (by decide +kernel)

theorem test_witness_ArrivalsAndLineTimers :
    let t (st : LineState) : LineRec :=
      { lineIn st with
        ringQualify := some 0, ringGap := some 0, answerGrace := some 0, loopLoss := some 0, releaseGuard := some 0 }
    let s (st : LineState) : State := withLine (calling st) .l1 (t st)
    let m : State :=
      { live with highway := { live.highway with map := { live.highway.map with
          lineRx := live.highway.map.lineRx.set .l1 (some 15), lineTx := live.highway.map.lineTx.set .l1 (some 15) } } }
    ((s .idle).runs ∧ ((s .idle).lines.recs.get .l1).ringQualify = some 0 ∧
      ((s .idle).lines.recs.get .l1).state = .idle) ∧
    ((s .ringing).runs ∧ ((s .ringing).lines.recs.get .l1).ringGap = some 0) ∧
    ((s .onAir).runs ∧ ((s .onAir).lines.recs.get .l1).answerGrace = some 0 ∧
      ((s .onAir).lines.recs.get .l1).loopLoss = some 0 ∧ ((s .onAir).lines.recs.get .l1).state = .onAir ∧
      ((s .onAir).air.sources.get (.line .l1)).state = .off) ∧
    ((s .releasing).runs ∧ ((s .releasing).lines.recs.get .l1).releaseGuard = some 0) ∧
    ((live.lines.recs.get .l1).ringQualify ≠ some 0 ∧ (live.lines.recs.get .l1).releaseGuard ≠ some 0) ∧
    (∀ k, live.highway.map.lineRx.get k = some (0 : Fin 16) → live.highway.map.lineTx.get k = none) ∧
    (m.runs ∧ m.highway.map.lineRx.get .l1 = some 15 ∧ (m.highway.map.lineTx.get .l1).isSome = true ∧
      ∀ j, m.highway.map.lineRx.get j = some 15 → j = .l1) := by
  and_intros
  any_goals first | decide +kernel | exact settled (by decide +kernel)
  · intro k; cases k <;> decide +kernel
  · intro k; cases k <;> decide +kernel

theorem test_witness_TransmitFramesCarryTheOutputs :
    let m : SlotMap :=
      { SlotMap.reset with
        pgmLeft := some 0, pgmRight := some 1, screenerTx := some 14
        lineTx := SlotMap.reset.lineTx.set .l8 (some 15), txEnable := 0xC007 }
    live.clock.power ≠ .reset ∧ m.txEnable.getLsbD (0 : Fin 16) = true ∧ m.txEnable.getLsbD (13 : Fin 16) = false ∧
      m.pgmLeft = some 0 ∧ m.pgmRight = some 1 ∧ m.screenerTx = some 14 ∧ m.txEnable.getLsbD (15 : Fin 16) = true ∧
      m.lineTx.get .l8 = some 15 ∧ (∀ j, m.lineTx.get j = some 15 → j = .l8) ∧ ∀ k, m.lineTx.get k ≠ some 2 := by
  and_intros
  any_goals first | decide +kernel | exact settled (by decide +kernel)
  · intro k; cases k <;> decide +kernel
  · intro k; cases k <;> decide +kernel

/-- A running part with a READY clip 5 and an alert queue, the class WATCH under a mode. -/
def posting (m : ClassMode) (delay : Nat) (q : List AlertRec) : State :=
  let s := alerting (withClip live 5 readyClip) .standby q
  { s with alert := { s.alert with policy := { s.alert.policy with watch := ⟨m, delay⟩ } } }

theorem test_witness_AlertPostsAreJudged :
    let full : List AlertRec := (List.range 7).map fun n => { alertIn .waitingRelease with id := n + 10, clip := 6 }
    let tail (clip : Fin 128) : AlertRec := { alertIn .waitingRelease with id := 30, clip := clip, priority := 3 }
    let s (m : ClassMode) (p : Phase) (clip : Fin 128) : State :=
      alerting (withClip (posting m 0 (full ++ [tail clip])) 6 readyClip) p (full ++ [tail clip])
    (live.accepts .c ∧ 3 < (4 : Word).toNat ∧ 127 < (128 : Word).toNat ∧ (2 : Word).toNat = classCode .watch ∧
      (5 : Word).toNat = (5 : Fin 128).val ∧ (7 : Word) ≠ 0) ∧
    (∃ r ∈ (posting .airAuto 0 [alertIn .ready]).alert.queue, r.id = (7 : Word).toNat) ∧
    ((posting .logOnly 0 []).accepts .c ∧ ((posting .logOnly 0 []).alert.policy.get .watch).mode = .logOnly) ∧
    ((posting .airOnRelease 60 []).accepts .c ∧ (posting .airOnRelease 60 []).storeFree ∧
      ((posting .airOnRelease 60 []).clip 5).state = .ready ∧ ((posting .airOnRelease 60 []).clip 6).state ≠ .ready ∧
      (posting .airOnRelease 60 []).alert.queue = [] ++ []) ∧
    ¬ (searching (posting .airOnRelease 60 []) 1).storeFree ∧
    ((posting .airOnRelease 0 [alertIn .airing, { alertIn .ready with id := 8, priority := 3 }]).alert.queue =
        [alertIn .airing] ++ [{ alertIn .ready with id := 8, priority := 3 }] ∧
      (∀ x ∈ [alertIn .airing], x.state = .airing ∨ 4 ≤ x.priority) ∧
      ∀ x ∈ [{ alertIn .ready with id := 8, priority := 3 }].head?, x.state ≠ .airing ∧ x.priority < 4) ∧
    ((alerting (posting .airAuto 0 []) .message []).alert.phase ≠ .standby ∧
      (alerting (posting .airAuto 0 []) .message []).accepts .c) ∧
    ((s .airOnRelease .standby 6).accepts .c ∧ (∀ r ∈ full ++ [tail 6], r.id ≠ (7 : Word).toNat) ∧ full.length = 7 ∧
      (tail 6).priority < 4 ∧ 3 ≤ (tail 6).priority ∧ (∀ r ∈ full, r.id ≠ (tail 6).id) ∧
      (s .airOnRelease .standby 6).keepsClip 6) ∧
    ((s .airAuto .message 5).accepts .c ∧ (s .airAuto .message 5).alert.phase ≠ .standby ∧
      (s .airAuto .message 5).keepsClip 5 ∧ ((s .airAuto .message 5).clip 5).state = .ready) := by
  and_intros
  any_goals first | decide +kernel | rfl | exact settled (by decide +kernel)
  exact fun h : State.mustWait _ = false => absurd h (by decide +kernel)

theorem test_witness_AlertsAreReleasedDeclinedAndCancelled :
    let w := alertIn .waitingRelease
    (live.accepts .b ∧ live.accepts .c ∧ ∀ r ∈ live.alert.queue, r.id ≠ (7 : Word).toNat) ∧
    ((posting .airOnRelease 0 [alertIn .ready]).accepts .b ∧ (7 : Word) ≠ 0 ∧
      (posting .airOnRelease 0 [alertIn .ready]).alert.queue = [] ++ alertIn .ready :: [] ∧
      (alertIn .ready).id = (7 : Word).toNat ∧ (alertIn .ready).state ≠ .waitingRelease ∧
      (alertIn .ready).state ≠ .airing) ∧
    ((posting .airOnRelease 0 [w]).accepts .b ∧ (posting .airOnRelease 0 [w]).accepts .c ∧ w.state = .waitingRelease ∧
      (posting .airOnRelease 0 [w]).keepsClip w.clip) ∧
    (alerting live .message [w]).alert.phase ≠ .standby ∧
    (let r := { alertIn .airing with id := 8, clip := 6 }
     let s := lastTaken (withClip (alerting (posting .airAuto 0 []) .message [r, w]) 6 readyClip)
     s.acceptsEnding .c ∧ s.acceptsEnding .b ∧ s.ownersRest ∧ s.alert.messageTaken ∧
      s.alert.queue = r :: [] ++ w :: [] ∧ r.state = .airing ∧
      (∀ y ∈ ([] ++ w :: [] : List AlertRec), y.id ≠ r.id ∧ y.state ≠ .ready ∧ y.state ≠ .airing) ∧
      s.keepsClips [r.clip, w.clip] ∧ s.keepsClip r.clip ∧ w.state = .waitingRelease ∧
      r.id = (8 : Word).toNat ∧ s.storeFree ∧ (s.clip 5).state = .ready ∧ (s.alert.policy.get .watch).mode = .airAuto ∧
      4 ≤ w.priority) := by
  and_intros
  any_goals first
    | decide +kernel | rfl | exact settled (by decide +kernel) | (intro d; cases d <;> exact Or.inr rfl)

theorem test_witness_ReadyAlertsPreempt :
    let w := { alertIn .waitingRelease with forwardTimer := some 0 }
    let s := withSrc (posting .airOnRelease 0 [w]) .mic onSrc
    let kept : List AlertRec := (List.range 7).map fun n => { alertIn .waitingRelease with id := n + 10, clip := 6 }
    let tail : AlertRec := { alertIn .waitingRelease with id := 30, clip := 6, priority := 3 }
    let full := withClip (posting .airAuto 0 (kept ++ [tail])) 6 readyClip
    let p := withSrc (posting .airAuto 0 []) .mic onSrc
    (p.accepts .c ∧ p.ownersRest ∧ (7 : Word) ≠ 0 ∧ (2 : Word).toNat = classCode .watch ∧
      (5 : Word).toNat = (5 : Fin 128).val ∧ p.storeFree ∧ (p.clip 5).state = .ready ∧ p.alert.phase = .standby ∧
      (p.alert.policy.get .watch).mode = .airAuto ∧ p.alert.queue = []) ∧
    (full.accepts .c ∧ full.ownersRest ∧ full.storeFree ∧ (full.clip 5).state = .ready ∧
      full.alert.phase = .standby ∧ (full.alert.policy.get .watch).mode = .airAuto ∧
      (∀ x ∈ full.alert.queue, x.id ≠ (7 : Word).toNat) ∧ (∀ x ∈ kept, x.state ≠ .ready) ∧
      full.alert.queue = kept ++ [tail] ∧ kept.length = 7 ∧ tail.priority < 4 ∧ (∀ x ∈ kept, x.id ≠ tail.id) ∧
      full.keepsClip tail.clip) ∧
    (s.accepts .b ∧ s.runs ∧ s.ownersRest ∧ s.alert.phase = .standby ∧ w ∈ s.alert.queue ∧ w.id = (7 : Word).toNat ∧
      (∀ x ∈ s.alert.queue, x.id = (7 : Word).toNat → x = w) ∧ (∀ x ∈ s.alert.queue, x.state ≠ .ready) ∧
      w.state = .waitingRelease ∧ w.forwardTimer = some 0) ∧
    (let s := alerting s .restore [w, { alertIn .ready with id := 8 }]
     s.runs ∧ s.ownersRest ∧ s.alert.phase = .restore ∧ s.alert.phaseLength ≤ s.alert.phaseEvents ∧
      s.alert.queue = [w] ++ { alertIn .ready with id := 8 } :: [] ∧ ∀ x ∈ [w], x.state ≠ .ready) := by
  and_intros
  any_goals first | decide +kernel | rfl | exact settled (by decide +kernel) | (intro d; cases d <;> exact Or.inr rfl)

theorem test_witness_AiringsRunTheirPhases :
    let r := alertIn .airing
    let x := { alertIn .ready with id := 8, tone := 0 }
    let s (p : Phase) (q : List AlertRec) : State := alerting (posting .airAuto 0 []) p q
    ((lastTaken (s .message [r, x])).runsEnding ∧ (lastTaken (s .message [r, x])).alert.messageTaken ∧
      (s .message [r, x]).alert.queue = r :: [] ++ x :: [] ∧ (∀ y ∈ ([] ++ x :: [] : List AlertRec), y.id ≠ r.id) ∧
      (s .message [r, x]).keepsClip r.clip) ∧
    ((s .preempt [r]).runs ∧ (s .preempt [r]).alert.phaseLength ≤ (s .preempt [r]).alert.phaseEvents ∧ r.tone ≠ 0 ∧
      x.tone = 0) ∧
    ((s .tone [r]).runs ∧ (s .tone [r]).alert.phase = .tone ∧ (s .restore []).runs ∧
      (s .restore []).alert.phaseLength ≤ (s .restore []).alert.phaseEvents) ∧
    ((lastTaken (s .message [r])).ownersRest ∧ (s .message [r]).alert.queue = r :: [] ∧
      (s .message [r]).keepsClip r.clip ∧ (lastTaken (s .message [r])).endsAiring r .messageEnd .aired 0) ∧
    (s .tone [r, x]).endsAiring r (.alertCancel .c 7) .cancelled 7 ∧ (s .tone [r, x]).keepsClip r.clip ∧
    (lastTaken (s .message [r, x])).endsAiring r (.alertCancel .c 7) .aired 7 := by
  refine ⟨?_, ?_, ?_, ⟨?_, rfl, ?_, .inl ⟨rfl, rfl, ?_, ?_⟩⟩, .inr ⟨rfl, by decide, ?_, .inr ⟨rfl, ?_, rfl⟩⟩, ?_,
    .inr ⟨rfl, by decide, ?_, .inl ⟨rfl, ?_, by decide +kernel⟩⟩⟩
  case refine_9 => exact fun h : Phase.tone = .message ∧ _ => nomatch h.1
  all_goals and_intros
  any_goals first | decide +kernel | rfl | exact settled (by decide +kernel) | (intro d; cases d <;> exact Or.inr rfl)

theorem test_witness_AlertTimersAndTones :
    let w := { alertIn .waitingRelease with forwardTimer := some 0, expiryTimer := some 0 }
    let s := alerting (withClip live 5 readyClip) .message [w]
    (s.runs ∧ (7 : Word) ≠ 0 ∧ s.alert.queue = [] ++ w :: [] ∧ w.id = (7 : Word).toNat ∧ w.forwardTimer = some 0 ∧
      w.state = .waitingRelease ∧ s.alert.phase ≠ .standby ∧ w.expiryTimer = some 0 ∧ s.keepsClip w.clip) ∧
    (alertIn .waitingRelease).forwardTimer ≠ some 0 ∧
    live.clock.power ≠ .reset ∧
      ∃ f : ToneState → ToneState, ∀ x, f x =
        if 255 < x.counter then { x with counter := x.settings.reload, positive := !x.positive } else x := by
  and_intros
  any_goals first | decide +kernel | rfl | exact settled (by decide +kernel)
  exact ⟨_, fun _ => rfl⟩

theorem test_witness_FallbackAndDeadAirAreSet :
    let s := withClip (withClip live 5 readyClip) 6 readyClip
    let b : State := { s with deadAir := { s.deadAir with binding := some ⟨6, 0, 1, 8192⟩ } }
    (s.accepts .a ∧ 2 ≤ (2 : Word).toNat ∧ 127 < (128 : Word).toNat ∧ (127 : Word).toNat ≤ 127 ∧
      (decide (s.deadAir.state ≠ .engaged) && decide (s.air.sources.fallback.state = .off)) = true) ∧
    ((window .engaged 0 true 0 0 none).accepts .a ∧
      (decide ((window .engaged 0 true 0 0 none).deadAir.state ≠ .engaged) &&
        decide ((window .engaged 0 true 0 0 none).air.sources.fallback.state = .off)) = false) ∧
    (s.deadAir.binding = none ∧ b.accepts .a ∧ b.deadAir.binding = some ⟨6, 0, 1, 8192⟩ ∧ b.keepsClip 6 ∧
      b.storeFree ∧ (b.clip 5).state = .ready ∧ (6 : Fin 128) ≠ 5 ∧ (b.clip 7).state ≠ .ready) ∧
    ((b.clip 6).state = .ready ∧ (6 : Word).toNat = (6 : Fin 128).val) ∧
    ((searching s 1).accepts .a ∧ ¬ (searching s 1).storeFree) ∧
    min (0 : Long).toNat 8388607 = 0 ∧ min (1 : Long).toNat 8388607 ≠ 0 ∧ live.deadAir.state ≠ .engaged := by
  and_intros
  any_goals first | decide +kernel | rfl | exact settled (by decide +kernel)
  exact fun h : State.mustWait _ = false => absurd h (by decide +kernel)

theorem test_witness_TheCheckIsR154s :
    (∃ feed : Word → Bool → Word, ∀ c b, feed c b = if c.getLsbD 15 = b then c <<< 1 else (c <<< 1) ^^^ 0x1021) ∧
    (∃ hi lo : Byte, hi ++ lo = crc ([] : List Byte)) ∧
    ([0, 0, 0] : List Byte).length = (0 : Byte).toNat * 256 + (3 : Byte).toNat ∧
    (List.replicate 288 (0 : Byte)).length = (1 : Byte).toNat * 256 + (32 : Byte).toNat ∧
    (List.replicate 288 (0 : Byte)).length ≤ 288 := by
  refine ⟨⟨_, fun _ _ => rfl⟩, ⟨0xFF, 0xFF, ?_⟩, ?_, ?_, ?_⟩ <;> decide +kernel

/-- A running part with the link enabled and the transmitter sending a STUDIO_STATUS frame. -/
def sendingLink : Link :=
  { Link.reset with
    enabled := true, receiver := .hunting
    sending := some ⟨⟨.studioStatus, 4, 0, []⟩, false, [], 176⟩ }
/-- A running part with a link block. -/
def linked (l : Link) : State := { live with link := l }
/-- A PROGRAM frame of no pairs. -/
def aFrame (priority : Nat) : Frame := ⟨.program, priority, 1, []⟩

theorem test_witness_LinkSetEnablesAndDisables :
    (live.accepts .a ∧ 2 ≤ (2 : Word).toNat ∧ (1 : Word).toNat ≤ 1 ∧
      (0 : Word) = (if live.link.enabled = true then 1 else 0) ∧ live.link.enabled = false ∧
      live.link.priorityQueue = [] ∧ live.link.programQueue = [] ∧ live.link.pause = none) ∧
    (linked sendingLink).accepts .a ∧ (linked sendingLink).link.enabled = true := by
  and_intros <;> first | decide +kernel | exact settled (by decide +kernel)

theorem test_witness_FramesAreFormedAndQueued :
    let l : Link := { sendingLink with assembly := List.replicate 48 ⟨1, 2⟩ }
    let idle : Link := { l with sending := none }
    let dull : Link := { idle with pause := some ⟨7, some 1⟩, priorityQueue := [aFrame 7], programQueue := [aFrame 0] }
    ((linked l).runs ∧ (linked l).link.sending.isSome = true ∧ 48 ≤ (linked l).link.assembly.length ∧
      (linked l).link.programQueue.length < 14) ∧
    ((linked dull).runs ∧ (∀ x ∈ dull.priorityQueue, ¬ ∀ y ∈ dull.pause, y.threshold < x.priority) ∧
      (∀ x ∈ (dull.programQueue ++ [aFrame 0]).head?, ¬ ∀ y ∈ dull.pause, y.threshold < x.priority)) ∧
    ((linked idle).runs ∧ idle.sending = none ∧ idle.priorityQueue = [] ∧ idle.programQueue = [] ∧ idle.pause = none) ∧
    14 ≤ (linked { l with programQueue := List.replicate 14 (aFrame 0) }).link.programQueue.length ∧
    (linked { l with assembly := List.replicate 47 ⟨1, 2⟩ }).link.assembly.length < 48 ∧
    (live.runs ∧ live.link.enabled = false ∧ (linked sendingLink).runs ∧
      (linked sendingLink).link.priorityQueue.length < 4 ∧
      4 ≤ (linked { sendingLink with priorityQueue := List.replicate 4 (aFrame 7) }).link.priorityQueue.length) ∧
    (∃ n : AlertNotice, Instr.alertNoticeHanded ⟨7, .watch, 4, 2, true, .none, false, false⟩ = .alertNoticeHanded n) ∧
    { sendingLink.studio with micOpen := true } ≠ sendingLink.studio ∧
    live.link.studio.take (.mic false) = live.link.studio ∧
    ((∃ x ∈ dull.pause, 6 ≤ x.threshold) ∧ ∀ x ∈ dull.priorityQueue, ∃ y ∈ dull.pause, x.priority ≤ y.threshold) ∧
    (let p := { idle with pause := some ⟨5, some 1⟩, priorityQueue := [aFrame 5], programQueue := [aFrame 6] }
     (linked p).runs ∧ p.enabled = true ∧ p.sending = none ∧
      p.programQueue.map (fun f => { f with priority := 6 }) = aFrame 6 :: [] ∧ (∀ x ∈ p.pause, x.threshold < 6) ∧
      ∀ x ∈ p.priorityQueue, ∃ y ∈ p.pause, x.priority ≤ y.threshold) := by
  and_intros
  any_goals first | decide +kernel | exact settled (by decide +kernel)
  exact ⟨_, rfl⟩

theorem test_witness_TransmitterSendsWhatPasses :
    let p : Link := { sendingLink with pause := some ⟨5, some 1⟩ }
    live.runs ∧ live.link.sending = none ∧ (linked sendingLink).link.sending.isSome = true ∧
    ({ p with priorityQueue := [aFrame 5, aFrame 6] }.priorityQueue = [aFrame 5] ++ aFrame 6 :: [] ∧
      (∀ x ∈ p.pause, x.threshold < (aFrame 6).priority) ∧ ¬ ∀ x ∈ p.pause, x.threshold < (aFrame 5).priority) ∧
    ({ p with programQueue := [aFrame 6] }.programQueue = aFrame 6 :: [] ∧ p.enabled = true) ∧
    { p with enabled := false }.enabled = false := by
  and_intros <;> first | decide +kernel | exact settled (by decide +kernel)

theorem test_witness_ValidFramesAreTaken :
    let body : List Byte := [0x81, 0, 0, 1, 0, 3, 0, 1, 8]
    let l : Link := { sendingLink with receiver := .reading }
    let idle : Link := { l with sending := none }
    let p : Link := { idle with state := .up, pause := some ⟨6, some 1⟩, priorityQueue := [aFrame 4] }
    ((linked l).runs ∧ l.enabled = true ∧ l.receiver = .reading ∧ l.sending.isSome = true) ∧
    (crc body).extractLsb' 8 8 ++ (crc body).extractLsb' 0 8 = crc body ∧
    (∃ dh dl th : Byte, body = [0x81, 0, 0, 1, 0, 3, dh, dl, th] ∧ ¬ (dh = 0 ∧ dl = 0)) ∧
    (∃ fl level : Byte, ([0x82, 0, 0, 1, 0, 2, 0x80, 9] : List Byte) = [0x82, 0, 0, 1, 0, 2, fl, level] ∧
      fl.getLsbD 7 ≠ (linked p).link.site.carrier) ∧
    { l with state := .up, priorityQueue := List.replicate 4 (aFrame 7) }.state = .up ∧
    ((linked idle).runs ∧ idle.sending = none ∧ idle.state ≠ .up ∧ idle.pause = none ∧ idle.priorityQueue = [] ∧
      idle.programQueue = []) ∧
    ((linked p).runs ∧ p.sending = none ∧ p.state = .up ∧
      (∀ f ∈ p.priorityQueue, ∃ y ∈ p.pause, f.priority ≤ y.threshold) ∧
      (∀ f ∈ p.programQueue.head?, ∃ y ∈ p.pause, f.priority ≤ y.threshold) ∧
      p.priorityQueue = [] ++ aFrame 4 :: []) ∧
    (let q := { p with programQueue := [aFrame 6] }
     (linked q).runs ∧ (∀ f ∈ q.programQueue.head?, ∃ y ∈ q.pause, f.priority ≤ y.threshold) ∧
      (∀ g ∈ q.priorityQueue, ∃ y ∈ some (Pause.mk 5 (some 48)), g.priority ≤ y.threshold) ∧
      ∀ y ∈ some (Pause.mk 5 (some 48)), y.threshold < (aFrame 6).priority) := by
  refine ⟨?_, by decide +kernel, ⟨0, 1, 8, rfl, by decide⟩, ⟨0x80, 9, rfl, by decide⟩, ?_⟩
  all_goals and_intros
  any_goals first | decide +kernel | exact settled (by decide +kernel)

theorem test_witness_BadFramesAndLinkTimers :
    ((linked { sendingLink with receiver := .reading }).runs ∧ sendingLink.enabled = true ∧
      { sendingLink with receiver := .reading }.receiver = .reading) ∧
    ((linked sendingLink).link.receiver = .hunting ∧ (linked sendingLink).link.receiver ≠ .reading) ∧
    ((0 : Byte) ++ (0 : Byte) ≠ crc [0x81, 0, 0, 0, 0, 0] ∧ ([] : List Byte).length = (0 : Byte).toNat * 256 + 0) ∧
    (288 < (1 : Byte).toNat * 256 + (33 : Byte).toNat ∧ ¬ 288 < (1 : Byte).toNat * 256 + (32 : Byte).toNat) ∧
    ((crc [0x83, 0, 0, 0, 0, 0]).extractLsb' 8 8 ++ (crc [0x83, 0, 0, 0, 0, 0]).extractLsb' 0 8 =
      crc [0x83, 0, 0, 0, 0, 0]) ∧
    (live.runs ∧ live.link.enabled = false ∧ live.link.receiver = .stopped ∧ live.link.lossTimer ≠ some 0) ∧
    (let l := { sendingLink with state := .up, lossTimer := some 0, pause := some ⟨5, some 0⟩ }
     (linked l).runs ∧ (linked l).link.lossTimer = some 0 ∧ (linked l).link.state = .up ∧
      (linked l).link.sending.isSome = true ∧ (linked l).link.pause = some ⟨5, some 0⟩) ∧
    (let l := { sendingLink with sending := none, pause := some ⟨5, some 0⟩, programQueue := [aFrame 0] }
     (linked l).runs ∧ l.enabled = true ∧ l.sending = none ∧ l.priorityQueue = [] ∧ l.programQueue = aFrame 0 :: [] ∧
      (linked { l with state := .up, lossTimer := some 0 }).runs ∧ l.pause.isSome = true ∧
      { l with priorityQueue := [aFrame 4] }.priorityQueue = aFrame 4 :: []) := by
  and_intros <;> first | decide +kernel | exact settled (by decide +kernel)

theorem test_witness_TheXmPointerIsR175s :
    live.clock.power ≠ .reset ∧ (live.ports.get .a).wait = none ∧ (0x8000 : Word).getLsbD 15 = true ∧
      base .a + 53 < ((54 : Word) &&& 0x3FFF).toNat ∧ ((0xCFFF : Word) &&& 0x3FFF).toNat = base .a + 4095 := by
  decide +kernel

theorem test_witness_AccessesThroughThePointer :
    let s (a : BitVec 14) : State := withPort live .b { PortState.reset with pointer := a }
    ((s 4095).clock.power ≠ .reset ∧ ((s 4095).ports.get .b).wait = none ∧ ((4095 : BitVec 14).toNat < base .b) ∧
      base .b + 4096 ≤ (8192 : BitVec 14).toNat) ∧
    (base .b < (4097 : BitVec 14).toNat ∧ (8191 : BitVec 14).toNat < base .b + 4096) ∧
    (∀ e ∈ ((s 4096).ports.get .b).readAhead, e.2 = (s 4096).xm.read e.1) ∧
    ((4096 : BitVec 14).toNat = base .b ∧ (Instr.micOpen .b).issued = some (.b, .micOpen, []) ∧
      (s 4096).xm.wf = true ∧ ([] : List Word).length ≤ 24 ∧
      ∀ n, n < ([] : List Word).length → (s 4096).pageWord .b (n + 1) = ([] : List Word).getD n 0) := by
  and_intros <;> decide +kernel

theorem test_witness_EventsAndPortClears :
    live.clock.power ≠ .reset ∧ (live.ports.get .a).wait = none ∧ (0x7FFF : Word).getLsbD 15 = false ∧
      (0x8000 : Word).getLsbD 15 = true ∧ (gathering 0 0 8 none).writeBuffer.length ≤ 8 ∧
      ((withPort live .a (gathering 0 0 0 (some .read))).ports.get .a).wait.isSome = true ∧
      Instr.xmDataRead .a ∈ [Instr.xmPointerWrite .a 0, .xmDataRead .a] := by
  decide +kernel

theorem test_witness_LampsAndCountersFollow :
    (live.runs ∧ live.accepts .a ∧ live.clock.power ≠ .reset) ∧
    (let r : LampRec := ⟨.flash, true, some 0, 192, 0⟩
     (({ live with lamps := { live.lamps with lamps := .all r } } : State).lamps.lamps.get .alert).mode = .flash ∧
      (({ live with lamps := { live.lamps with lamps := .all r } } : State).lamps.lamps.get .alert).timer = some 0) ∧
    (let ins := { live.lamps.inputs with mic := .on }
     LampMode.steady = if ins.mic = .rising ∨ ins.mic = .on then LampMode.steady else .off) ∧
    (live.lamps.lamps.get .onAir).mode ≠ .flash ∧ live.counters[Counter.segueMissed.index] < 4294967295 ∧
    ({ live with counters := Vector.replicate 29 4294967295 } : State).counters[Counter.segueMissed.index]
      = 4294967295 := by
  and_intros <;> first | decide +kernel | exact settled (by decide +kernel)

/-! ## Smoke test of WellFormed: each check refuses an ill-formed command -/

theorem test_wf_refuses :
    (Instr.highwayMap .b []).wellFormed = false ∧ (Instr.alertPolicy .c 0 (List.replicate 24 0)).wellFormed = false ∧
      (Instr.unknownCommand .a 0x0061).wellFormed = false ∧ (Instr.portClear .a 0x7FFF).wellFormed = false ∧
      (Instr.stateNotice .alert ⟨.held, 0⟩).wellFormed = false ∧
      (Instr.stateNotice .mic ⟨.on, 32769⟩).wellFormed = false ∧ (Instr.forwardTimerExpiry 0).wellFormed = false ∧
      (Instr.expiryTimerExpiry 0).wellFormed = false ∧
      (Instr.alertNoticeHanded ⟨0, .watch, 4, 2, true, .none, false, false⟩).wellFormed = false ∧
      (Instr.alertNoticeHanded ⟨7, .watch, 8, 2, true, .none, false, false⟩).wellFormed = false ∧
      (Instr.alertNoticeHanded ⟨7, .watch, 4, 31, true, .none, false, false⟩).wellFormed = false ∧
      (Instr.alertNoticeHanded ⟨7, .watch, 4, 2, true, .aired, false, false⟩).wellFormed = false ∧
      (Instr.alertNoticeHanded ⟨7, .watch, 4, 2, false, .expired, false, false⟩).wellFormed = false ∧
      (Instr.flashTimerExpiry .onAir).wellFormed = false := by
  decide +kernel

/-- A PAUSE of 1 s at threshold 5, checked. -/
def pauseBody : List Byte := [0x81, 0, 0, 1, 0, 3, 0x03, 0xE8, 5]
/-- A received body with its check. -/
def checked (body : List Byte) : List Byte := body ++ bytes2 (crc body).toNat

theorem test_wf_frames :
    (Instr.pauseFrame (checked pauseBody)).wellFormed = true ∧ (Instr.pauseFrame pauseBody).wellFormed = false ∧
      (Instr.siteStatusFrame (checked pauseBody)).wellFormed = false ∧
      (Instr.rxBadCheck (checked pauseBody)).wellFormed = false ∧
      (Instr.rxBadFrame (checked pauseBody)).wellFormed = false ∧
      (Instr.rxBadCheck (pauseBody ++ [0, 0])).wellFormed = true ∧
      (Instr.rxBadFrame [0x81, 0, 0, 1, 1, 33]).wellFormed = true ∧
      (Instr.rxBadFrame (checked [0x01, 0, 0, 1, 0, 0])).wellFormed = true := by
  decide +kernel

/-! ## The reference's worked cases -/

/-- Chapter 1, Worked ramps: 20 ms from unity to 0. -/
theorem test_worked_ramp :
    let r : Ramp := .begin 32768 0 960
    r.levelAt 1 = 32734 ∧ r.levelAt 2 = 32700 ∧ r.levelAt 480 = 16384 ∧ r.levelAt 959 = 35 ∧ r.levelAt 960 = 0 := by
  decide +kernel

/-- Chapter 1, Worked duck: K after 1, 2400, 4800 and 9600 events, and MIC's L after one. -/
theorem test_worked_duck :
    let r : Ramp := .begin 32768 8192 9600
    r.levelAt 1 = 32766 ∧ r.levelAt 2400 = 26624 ∧ r.levelAt 4800 = 20480 ∧ r.levelAt 9600 = 8192 ∧
      (Ramp.begin 0 32768 2400).levelAt 1 = 13 := by
  decide +kernel

/-- Chapter 2, Worked rounding. -/
theorem test_worked_rounding :
    outputOf 49152 = 2 ∧ outputOf (-49152) = -1 ∧ outputOf 16383 = 0 ∧ outputOf 16384 = 1 ∧ outputOf (-16384) = 0 ∧
      outputOf (-16385) = -1 := by
  decide +kernel

/-- Chapter 2, Worked limits: the most negative input does not clamp; the ducked gain is floored first. -/
theorem test_worked_limits :
    outputOf (-8388608 * 32768) = -8388608 ∧ clamps (-8388608 * 32768) = false ∧ outputOf (8388607 * 8190) = 2096640 ∧
      outputOf 3573412364288 = 8388607 := by
  decide +kernel

/-- Chapter 2, a presenter, a caller and music: DECK1 at unity under K = 16384, MIC at unity, LINE3 at 24576, and a caller
WAITING on LINE8. -/
def musicMix : MixFrame :=
  let at' (n : Nat) : SourceRec := ⟨.on, n, .reset, none⟩
  let air : AirMap :=
    { AirMap.reset with
      duck := 16384
      sources := ((AirMap.reset.sources.set (.deck .d1) (at' 32768)).set .mic (at' 32768)).set (.line .l3) (at' 24576) }
  let x : PerSource (Int × Int) :=
    (((PerSource.all ((0 : Int), (0 : Int))).set (.deck .d1) (6000000, -2000000)).set .mic (5000000, 5000000)).set
      (.line .l3) (3000000, 3000000)
  mix air x (((PerLine.all LineState.idle).set .l3 .onAir).set .l8 .waiting) 0 0

/-- The case's sums and program: the left clamps, the right does not. -/
theorem test_worked_mix :
    musicMix.gains.get (.deck .d1) = 16384 ∧ musicMix.sumLeft = 335872000000 ∧ musicMix.sumRight = 204800000000 ∧
      musicMix.program = ⟨8388607, 6250000⟩ ∧ clamps musicMix.sumLeft = true ∧ clamps musicMix.sumRight = false := by
  decide +kernel

/-- The caller's own feed, and the waiting feed. -/
theorem test_worked_mixMinus : musicMix.lineOut.get .l3 = 6000000 ∧ musicMix.lineOut.get .l8 = 7319303 := by
  decide +kernel

/-- Chapter 2: a negative downmix floors away from zero. -/
theorem test_worked_downmix : downmix (-3) 0 = -2 ∧ downmix (-3) 2 = -1 := by decide

/-- Chapter 3, Worked allocation: 7 pages from page 40, then 3 from page 10, and what is left. -/
theorem test_worked_allocation :
    let runs : List PageRun := [⟨0, 10, 0⟩, ⟨15, 25, 2⟩]
    pagesFor 50000 = 7 ∧ firstFit 7 4096 0 runs = some 40 ∧ pagesFor 20000 = 3 ∧
      firstFit 3 4096 0 (insertRun ⟨40, 7, 1⟩ runs) = some 10 ∧
      (let c : ClipStore := { ClipStore.reset with pages := insertRun ⟨10, 3, 3⟩ (insertRun ⟨40, 7, 1⟩ runs) }
       c.freePages = 4051 ∧ c.longestFree = 4049) := by
  decide +kernel

/-- Chapter 3, Worked arbitration: the order in which the waiting requesters are granted. -/
theorem test_worked_arbitration :
    (let a : Arbiter := { Arbiter.reset with lastDeck := some .d2 }
     a.order.take 4 = [.alert, .deck .d1, .deck .d2, .fallback]) ∧
    (let a : Arbiter := { Arbiter.reset with lastDeck := some .d1 }
     a.order.take 3 = [.alert, .deck .d2, .deck .d1]) ∧ burstPeriods 64 = 288 := by
  decide +kernel

/-- Chapter 6, Worked tones: T1 turns at event 24, T2 does not. -/
theorem test_worked_tones :
    let s : State := { live with alert := { live.alert with gen1 := { live.alert.gen1 with counter := 256 } } }
    (s.toneOverflow .t1).alert.gen1 = { live.alert.gen1 with counter := 232, positive := false } ∧
      (s.toneOverflow .t2).alert.gen2 = live.alert.gen2 := by
  decide +kernel

/-- Chapter 6, Worked posting: the full queue before the posts. -/
def fullQueue : List AlertRec :=
  let a (id p : Nat) (st : AlertState) : AlertRec := { alertIn st with id := id, priority := p }
  [a 101 7 .airing, a 205 6 .ready, a 310 5 .waitingRelease, a 311 5 .waitingRelease, a 402 3 .ready, a 403 3 .ready,
   a 520 1 .waitingRelease, a 521 1 .waitingRelease]

/-- The part when the posts arrive: the clips locked by the records, another clip READY. -/
def fullState : State :=
  let s := alerting (withClip (withClip live 5 { readyClip with locks := 8 }) 6 { readyClip with locks := 0 }) .message
    fullQueue
  { s with alert := { s.alert with policy := { s.alert.policy with watch := ⟨.airOnRelease, 60⟩ } } }

/-- The state a command leaves. -/
def after (i : Instr) (s : State) : State :=
  match exec i s with
  | .next t => t
  | _ => s

/-- Id 600 at priority 4 displaces 521 and stands in place 5; then id 700 at priority 1 is refused. -/
theorem test_worked_posting :
    let t := after (.alertPost .c 600 4 2 6 0 60) fullState
    t.alert.queue.map AlertRec.id = [101, 205, 310, 311, 600, 402, 403, 520] ∧ t.pageWord .c 0 = 0x8001 ∧
      t.pageWord .c 28 = 5 ∧ t.pageWord .c 29 = 521 ∧ (t.clip 5).locks = 7 ∧ (t.clip 6).locks = 1 ∧
      (let u := after (.alertPost .c 700 1 2 6 0 60) t
       u.pageWord .c 0 = 0x8002 ∧ u.pageWord .c 49 = 5 ∧ (u.clip 6).locks = 1 ∧ u.alert.queue = t.alert.queue) := by
  decide +kernel

/-- Chapter 8, Worked frame, and chapter 11, its header and payload: the STARTED notice of record 41. -/
theorem test_worked_frame :
    let f : Frame := ⟨.alertNotice, 7, 1041, noticePayload ⟨41, .immediate, 7, 8, true, .none, false, false⟩⟩
    f.header = [0x02, 0x07, 0x04, 0x11, 0x00, 0x08] ∧
      f.payload = [0x00, 0x29, 0x03, 0x07, 0x08, 0x01, 0x00, 0x00] ∧ f.wire.take 2 = [0xA5, 0x3C] ∧ f.bits = 240 := by
  decide +kernel

/-! ## Single rules -/

/-- R97, R100: a RINGING line answered to the queue is SEIZEd and WAITING in place 1. -/
theorem test_answer :
    let t := after (.lineAnswer .b 1 1) (calling .ringing)
    (t.lines.recs.get .l1).state = .waiting ∧ (t.lines.recs.get .l1).seize = true ∧ t.lines.queue = [.l1] ∧
      t.pageWord .b 0 = 0x8001 ∧ t.pageWord .b 25 = 1 ∧ t.pageWord .b 26 = 3 ∧ t.pageWord .b 27 = 1 := by
  decide +kernel

/-- R177: a write outside the port's own region is discarded and counted; R175: the pointer goes from 16383 to 0. -/
theorem test_foreign_write :
    let t := after (.xmDataWrite .a 9) (withPort live .a { PortState.reset with pointer := 16383 })
    t.xm.read 16383 = 0 ∧ (t.ports.get .a).pointer = 0 ∧ t.counters[(Counter.accessFaults .a).index] = 1 ∧
      t.pageWord .a 51 = 0x8000 := by
  decide +kernel

/-- R38, R45: the word that completes a pair puts it into the write buffer, the low byte of words 2 and 4 ignored. -/
theorem test_pair :
    let q : PortState := { PortState.reset with cursor := some ⟨5, 0⟩, partialPair := [0x1234, 0x56FF, 0x789A] }
    let t := after (.clipDataWrite .a 0xBCFF) (withClip (withPort live .a q) 5 loadingClip)
    (t.ports.get .a).writeBuffer = [⟨5, 0, ⟨0x123456, 0x789ABC⟩, true⟩] ∧ (t.ports.get .a).cursor = some ⟨5, 1⟩ := by
  decide +kernel

/-- R190: the identification block at the end of start-up. -/
theorem test_identification :
    let t := after .startUpEnd startUp48
    t.pageWord .b 54 = 0x0AC3 ∧ t.pageWord .b 56 = 1 ∧ t.pageWord .b 57 = 4096 ∧ t.pageWord .b 0 = 0x8003 := by
  decide +kernel

/-- R123: a cancel after the last pair finds the record left as AIRED. -/
theorem test_late_cancel :
    let s := lastTaken (alerting (withClip live 5 readyClip) .message [alertIn .airing])
    let t := after (.alertCancel .c 7) s
    t.pageWord .c 0 = 0x8002 ∧ t.pageWord .c 49 = 9 ∧ t.alert.history.map HistoryEntry.outcome = [.aired] := by
  decide +kernel

/-- R133: a post of the AIRING record's id after the last pair is taken as a new record, READY (2) during RESTORE. -/
theorem test_late_post :
    let s := lastTaken (alerting (posting .airAuto 0 []) .message [alertIn .airing])
    let t := after (.alertPost .c 7 4 2 5 0 60) s
    t.pageWord .c 0 = 0x8001 ∧ t.pageWord .c 27 = 2 ∧ t.alert.phase = .restore ∧
      t.alert.queue.map AlertRec.state = [.ready] ∧ t.alert.history.map HistoryEntry.outcome = [.aired] := by
  decide +kernel

/-- R133: a release after the last pair leaves its record READY during RESTORE, not back to back. -/
theorem test_late_release :
    let s := lastTaken (alerting (posting .airAuto 0 []) .message
      [{ alertIn .airing with id := 8 }, alertIn .waitingRelease])
    let t := after (.alertRelease .b 7) s
    t.pageWord .b 0 = 0x8001 ∧ t.pageWord .b 26 = 2 ∧ t.alert.phase = .restore ∧ t.air.hold = false := by
  decide +kernel

/-- R46, R57: a clip that loses a burst's first pair to the SDRAM and then is freed has one write fault left to count. -/
theorem test_free_mid_burst :
    let s := granted (withClip (withPort live .a { PortState.reset with
      writeBuffer := [⟨5, 0, ⟨1, 2⟩, true⟩, ⟨5, 1, ⟨3, 4⟩, true⟩] }) 5 loadingClip) ⟨.port .a, 2, true, 40⟩
    let t := (((s.writeBurst .a 1).onArbiter fun a => a.moved 1).becomeFree 5)
    t.arbiter.grant = none ∧ (t.ports.get .a).writeBuffer = [] ∧ t.sdram.length = 1 ∧
      t.counters[(Counter.clipWriteFaults .a).index] = 1 := by
  decide +kernel

/-- R66: a skip that cuts its cue short ends the grant that fetches the next one. -/
theorem test_skip_unbinds :
    let r := { deckIn .playing with current := some { cue with fetched := 8192 }, next := some follower, lookahead := .found }
    let s := granted (twice (cueUp r)) ⟨.deck .d1, 36, false, 9⟩
    (after (.deckSkip .a 1 0) s).arbiter.grant = none := by
  decide +kernel

/-- R196: with a READY record, RESTORE_END goes by STANDBY to PREEMPT, and the ALERT lamp from STEADY by OFF to
STEADY, two changes. -/
theorem test_rewrites_counted :
    let s := alerting live .restore [alertIn .ready]
    let s := { s with lamps := { s.lamps with
      inputs := { s.lamps.inputs with phase := .restore }
      lamps := s.lamps.lamps.set .alert { s.lamps.lamps.get .alert with mode := .steady } } }
    let t := after .restoreEnd s
    (t.lamps.lamps.get .alert).mode = .steady ∧ t.xm.read (RecordId.place .lamps) = 2 := by
  decide +kernel

/-- R168: the receiver goes on reading after 0xA5 0x3C alone. -/
theorem test_start_pattern :
    (after (.startPatternFound 0xA53C) (linked sendingLink)).link.receiver = .reading ∧
      (after (.startPatternFound 0xA53D) (linked sendingLink)).link.receiver = .hunting := by
  decide +kernel

/-- R37: the sizes the straps name. -/
theorem test_straps :
    pagesOf false false = 4096 ∧ pagesOf false true = 8192 ∧ pagesOf true false = 16384 ∧ pagesOf true true = 4096 := by
  decide

end Sys2Proof.Tests
end

/-!
The ends of a step that changes nothing more, the counters (R197), and the lines in their order.
-/
namespace Sys2Proof.ProgramArithmetic

open Sys2Proof.Machine

/-! ## The ends of a step -/

/-- With no rewrite asked for, publication leaves the state as it is (R188). -/
theorem publish_same (s : State) (h : s.forced = []) : s.publish = s := by
  unfold State.publish
  rw [h, List.foldl_nil, ← h]

/-- Between steps, the end of a step leaves the state as it is (R188). -/
theorem settle_same (s : State) (h : s.quiet) : s.settle = s := by
  rw [State.settle_plain s h.1, publish_same s h.2]

/-- An act of a released part with nothing owed is made on the state as it is, also during start-up (R189). -/
theorem act_released (s : State) (f : State → State) (hp : s.clock.power ≠ .reset) (hq : s.quiet)
    (ho : s.nothingOwed) : s.act f = (f s).settle := by
  simp [State.act, State.released, hp, s.found_same hq.1 ho]

/-- An act of a running part that leaves the state as it is leaves it so to the end of the step. -/
theorem act_same (s : State) (f : State → State) (h : s.runs) (hf : f s = s) : s.act f = s := by
  rw [s.act_runs f h, hf, settle_same s h.2.1]

/-! ## Counters (R197) -/

/-- The counters in the order of the table of chapter 10. -/
def counterTable : List Counter :=
  [.clipEvents, .starve .d1, .starve .d2, .segueMissed, .cueFault, .alertStarve, .alertsAired, .alertsExpired,
   .alertsDisplaced, .fallbackStarve, .callsAnswered, .missedCalls, .lineDrops, .deadAirEvents, .programDropped,
   .noticeDropped, .rxBadCheck, .rxBadFrame, .rxPause, .linkLosses, .mailboxOverruns .a, .mailboxOverruns .b,
   .mailboxOverruns .c, .accessFaults .a, .accessFaults .b, .accessFaults .c, .clipWriteFaults .a,
   .clipWriteFaults .b, .clipWriteFaults .c]

/-- A counter stands in the table at its own index. -/
theorem counterTable_index (c : Counter) : counterTable[c.index.val]? = some c := by
  cases c with
  | starve d => cases d <;> rfl
  | mailboxOverruns p => cases p <;> rfl
  | accessFaults p => cases p <;> rfl
  | clipWriteFaults p => cases p <;> rfl
  | _ => rfl

/-- No two counters share an index. -/
theorem index_injective : Function.Injective Counter.index := fun a b h => by
  have hb := counterTable_index b
  rw [← h, counterTable_index a] at hb
  exact Option.some.inj hb

/-- What a counter counts. -/
def tally (s : State) (c : Counter) : Nat := s.counters[c.index]

/-- A value moved by an increment, if there is one, up to the largest (R197). -/
def bump (b : Bool) (n : Nat) : Nat := if b = true then min 4294967295 (n + 1) else n

@[simp] theorem bump_false (n : Nat) : bump false n = n := rfl
theorem bump_true (n : Nat) : bump true n = min 4294967295 (n + 1) := rfl

/-- An increment moves its own counter and no other (R197). -/
theorem count_tally (s : State) (c d : Counter) : tally (s.count c) d = bump (decide (d = c)) (tally s d) := by
  by_cases h : d = c
  · subst h
    simp [tally, bump, Config.counterMax]
  · rw [decide_eq_false h]
    exact Vector.getElem_set_ne c.index.isLt d.index.isLt fun e => h (index_injective (Fin.ext e)).symm

/-! ## Lines in their order -/

theorem mem_allLines (k : Line) : k ∈ allLines := by
  cases k <;> decide

/-- The look along the lines finds the one line that qualifies. -/
theorem find_line (p : Line → Bool) (k : Line) (hk : p k = true) (hu : ∀ j, p j = true → j = k) :
    allLines.find? p = some k := by
  cases hf : allLines.find? p with
  | none => exact absurd hk (List.find?_eq_none.mp hf k (mem_allLines k))
  | some j => rw [hu j (List.find?_some hf)]

/-- The look along the lines finds none where none qualifies. -/
theorem find_no_line (p : Line → Bool) (h : ∀ k, p k = false) : allLines.find? p = none :=
  List.find?_eq_none.mpr fun k _ => by simp [h k]

end Sys2Proof.ProgramArithmetic

/-!
O44: the transmit frame (R33, R90).
-/
namespace Sys2Proof.ProgramArithmetic

open Sys2Proof.Machine

theorem exec_transmitFrame (s : State) :
    Sys2Proof.Machine.exec .transmitFrame s = .next (s.act State.sendHighwayFrame) := rfl

/-- The frame TRANSMIT_FRAME sends: what each enabled slot carries, every other slot in high impedance (R90). -/
def frameOf (s : State) : Vector (Option (BitVec 32)) 16 := s.sendHighwayFrame.highway.transmitted

theorem sendHighwayFrame_eq (s : State) :
    s.sendHighwayFrame = { s with highway := { s.highway with transmitted := frameOf s } } := rfl

/-- A slot of the frame (R90). -/
theorem frameOf_slot (s : State) (n : Fin 16) :
    (frameOf s)[n] = if s.highway.map.txEnable.getLsbD n = true then s.slotWord n else none := by
  simp [frameOf, State.sendHighwayFrame]

/-- A slot with no SEIZE flag carries its sample, the rest of the word 0 (R33). -/
theorem transmitWord_plain (x : Sample) : transmitWord x false = x ++ 0#8 := rfl

/-- A slot none of the program and screener outputs names carries the output of the one line that names it (R33, R90). -/
theorem slotWord_line (s : State) (n : Fin 16) (k : Line) (hl : s.highway.map.pgmLeft ≠ some n)
    (hr : s.highway.map.pgmRight ≠ some n) (hs : s.highway.map.screenerTx ≠ some n)
    (hk : s.highway.map.lineTx.get k = some n) (hu : ∀ j, s.highway.map.lineTx.get j = some n → j = k) :
    s.slotWord n = some (transmitWord (s.mixer.lineOut.get k) (s.lines.recs.get k).seize) := by
  simp only [State.slotWord, if_neg hl, if_neg hr, if_neg hs]
  rw [find_line _ k (by simpa using hk) fun j hj => hu j (by simpa using hj)]
  rfl

/-- A slot nothing names carries nothing (R90). -/
theorem slotWord_unassigned (s : State) (n : Fin 16) (hl : s.highway.map.pgmLeft ≠ some n)
    (hr : s.highway.map.pgmRight ≠ some n) (hs : s.highway.map.screenerTx ≠ some n)
    (hk : ∀ k, s.highway.map.lineTx.get k ≠ some n) : s.slotWord n = none := by
  simp only [State.slotWord, if_neg hl, if_neg hr, if_neg hs]
  rw [find_no_line _ fun k => by simpa using hk k]
  rfl

/-- Settles O44: the frame is `frameOf s`, each slot read off what it is assigned to. -/
theorem transmitFramesCarryTheOutputs : Obligations.TransmitFramesCarryTheOutputs := by
  intro s hp hq ho
  refine ⟨frameOf s, ?_, ?_⟩
  · rw [exec_transmitFrame, act_released s _ hp hq ho, sendHighwayFrame_eq]
    exact congrArg _ (settle_same _ hq)
  · rintro n m rfl
    refine ⟨fun h => by rw [frameOf_slot, if_neg (by rw [h]; exact Bool.false_ne_true)], fun he => ?_⟩
    rw [frameOf_slot, if_pos he]
    refine ⟨fun hl => ?_, fun hl hr => ?_, fun hl hr hs => ?_, fun hl hr hs => ⟨fun k hk hu => ?_, fun hk => ?_⟩⟩
    · simp [State.slotWord, hl, transmitWord_plain]
    · simp [State.slotWord, hl, hr, transmitWord_plain]
    · simp [State.slotWord, hl, hr, hs, transmitWord_plain]
    · exact slotWord_line s n k hl hr hs hk hu
    · exact slotWord_unassigned s n hl hr hs hk

end Sys2Proof.ProgramArithmetic

/-!
O43: the arrivals of slot words and the timers of a line (R23, R89, R94 to R96, R99, R106).
-/
namespace Sys2Proof.ProgramArithmetic

open Sys2Proof.Machine

theorem exec_ringQualifyExpiry (s : State) (k : Line) :
    Sys2Proof.Machine.exec (.ringQualifyExpiry k) s = .next (s.act fun s => s.ringQualified k) := rfl
theorem exec_ringGapExpiry (s : State) (k : Line) :
    Sys2Proof.Machine.exec (.ringGapExpiry k) s = .next (s.act fun s => s.ringGone k) := rfl
theorem exec_answerGraceExpiry (s : State) (k : Line) :
    Sys2Proof.Machine.exec (.answerGraceExpiry k) s = .next (s.act fun s => s.graceOver k) := rfl
theorem exec_loopLossExpiry (s : State) (k : Line) :
    Sys2Proof.Machine.exec (.loopLossExpiry k) s = .next (s.act fun s => s.loopLost k) := rfl
theorem exec_releaseGuardExpiry (s : State) (k : Line) :
    Sys2Proof.Machine.exec (.releaseGuardExpiry k) s = .next (s.act fun s => s.guardOver k) := rfl
theorem exec_slotWordArrival (s : State) (slot : Fin 16) (w : BitVec 32) :
    Sys2Proof.Machine.exec (.slotWordArrival slot w) s = .next (s.act fun s => s.slotArrival slot w) := rfl

/-! ## Timers -/

theorem ranOut_iff (t : Timer) : ranOut t = true ↔ t = some 0 := by simp [ranOut]

/-- A call is in progress in SCREEN, WAITING and ON_AIR (R96). -/
theorem inCall_iff (st : LineState) : st.inCall = true ↔ st = .screen ∨ st = .waiting ∨ st = .onAir := by
  cases st <;> simp [LineState.inCall]

theorem ringQualified_due (s : State) (k : Line) (ht : (s.lines.recs.get k).ringQualify = some 0)
    (hs : (s.lines.recs.get k).state = .idle) :
    s.ringQualified k =
      (s.onLine k fun r => { r with state := .ringing, ringQualify := none }).raiseAll .lineRing := by
  simp [State.ringQualified, ranOut_iff, ht, hs]

theorem ringGone_due (s : State) (k : Line) (ht : (s.lines.recs.get k).ringGap = some 0)
    (hs : (s.lines.recs.get k).state = .ringing) :
    s.ringGone k =
      ((s.onLine k fun r => { r with state := .idle, ringGap := none }).raiseAll .missedCall).count .missedCalls := by
  simp [State.ringGone, ranOut_iff, ht, hs]

theorem graceOver_due (s : State) (k : Line) (ht : (s.lines.recs.get k).answerGrace = some 0)
    (hs : (s.lines.recs.get k).state.inCall = true) : s.graceOver k = s.hangup k := by
  simp [State.graceOver, ranOut_iff, ht, hs]

theorem loopLost_due (s : State) (k : Line) (ht : (s.lines.recs.get k).loopLoss = some 0)
    (hs : (s.lines.recs.get k).state.inCall = true) : s.loopLost k = s.hangup k := by
  simp [State.loopLost, ranOut_iff, ht, hs]

theorem guardOver_due (s : State) (k : Line) (ht : (s.lines.recs.get k).releaseGuard = some 0)
    (hs : (s.lines.recs.get k).state = .releasing) :
    s.guardOver k = (s.lineCut k).onLine k fun r => { r with state := .idle, seize := false, releaseGuard := none } := by
  simp [State.guardOver, ranOut_iff, ht, hs]

/-! ## Rewrites a change of a line asks for -/

/-- A rewrite asked for by a change is of the record the change names. -/
theorem mem_rewriteIf {s : State} {q r : RecordId} {b a : List Nat} (h : r ∈ (s.rewriteIf q b a).forced) :
    r ∈ s.forced ∨ r = q := by
  simp only [State.rewriteIf, State.force_forced, List.mem_append, List.mem_filter] at h
  refine h.imp id fun ⟨h, _⟩ => ?_
  split at h
  · cases h
  · exact List.mem_singleton.mp h

/-- A changed line asks for the rewrite of its own record at most (R109). -/
theorem mem_onLine_forced {s : State} {k : Line} {f : LineRec → LineRec} {r : RecordId} (hs : s.forced = [])
    (h : r ∈ (s.onLine k f).forced) : r = .line k := by
  rw [State.onLine_forced] at h
  simpa [hs] using mem_rewriteIf h

/-- The line records with a changed one in place, as the line controller holds them. -/
theorem onLine_lines_of (s : State) (k : Line) (f : LineRec → LineRec) (r : LineRec) (h : f (s.lines.recs.get k) = r) :
    (s.onLine k f).lines = { s.lines with recs := s.lines.recs.set k r } := by
  rw [State.onLine_lines, PerLine.modify, h]

/-- The blocks a changed line leaves. -/
theorem onLine_blocks (s : State) (k : Line) (f : LineRec → LineRec) (r : LineRec) (h : f (s.lines.recs.get k) = r) :
    (s.onLine k f).blocks =
      ({ s with lines := { s.lines with recs := s.lines.recs.set k r } } : State).blocks := by
  rw [← onLine_lines_of s k f r h]
  rfl

/-! ## The step of a line's own timer -/

/-- The step in which a line of a running part changes, an event is raised in every event word, and a counter may move:
the line's record and the event words are all that exchange memory shows of it. -/
theorem ringStep (s : State) (f : State → State) (k : Line) (g : LineRec → LineRec) (e : Event) (h : s.runs)
    (hm : (f s).messages = []) (hf : (f s).forced = (s.onLine k g).forced)
    (hx : (f s).xm = ((s.onLine k g).raiseAll e).xm) (hp : (f s).ports = ((s.onLine k g).raiseAll e).ports) :
    (∀ p, (s.act f).hasEvent p e) ∧ s.changedTo (s.act f) (f s) (fun a => eventWord a ∨ inRecord (.line k) a) := by
  obtain ⟨t, ht, hc⟩ := s.plainAct f (fun a => eventWord a ∨ inRecord (.line k) a) h hm
    (fun q => by rw [hp]; simp) (fun a ha => by
      rw [hx, State.raiseAll_read _ _ _ fun p hp => ha (.inl ⟨p, hp⟩)]
      rfl)
    (fun r a hr ha hin => by
      rw [hf] at hin
      exact ha (.inr (mem_onLine_forced h.2.1.2 hin ▸ hr)))
  refine ⟨fun p => ?_, ht ▸ hc⟩
  have hev := (s.onLine k g).raiseAll_has e p
  rw [s.act_runs f h, State.settle_plain _ hm]
  simp only [State.hasEvent, State.publish_page _ p 51 (by omega)]
  simpa only [State.hasEvent, State.pageWord, hx] using hev

/-! ## A line's source cut (R9, R99, R106) -/

/-- The parts a change of a line's source reaches (R12, R159, R193). -/
def lineParts : List Part := [.air, .lines, .link, .lamps, .counters]

/-- The notice of a line's source cut (R12). -/
def cutNotice (k : Line) : Message := .state (.line k) ⟨.off, 0⟩

/-- A source that is OFF is not cut. -/
theorem lineCut_off (s : State) (k : Line) (h : (s.air.sources.get (.line k)).state = .off) : s.lineCut k = s := by
  simp [State.lineCut, State.lineSource, h]

/-- A source that is not OFF is cut, its notice sent and its seat given up. -/
theorem lineCut_on (s : State) (k : Line) (h : (s.air.sources.get (.line k)).state ≠ .off) :
    s.lineCut k =
      (({ s with air := s.air.cutOff (.line k) } : State).tell [cutNotice k]).seat k false := by
  simp [State.lineCut, State.lineSource, h, State.airCut, stateNotice, cutNotice, AirMap.cutOff,
    AirMap.put_eq_withSource]

theorem lineCut_air (s : State) (k : Line) : (s.lineCut k).air = s.air.cutOff (.line k) := by
  by_cases h : (s.air.sources.get (.line k)).state = .off
  · simp [lineCut_off s k h, AirMap.cutOff, h]
  · rw [lineCut_on s k h]
    rfl

theorem lineCut_lines (s : State) (k : Line) :
    (s.lineCut k).lines = { s.lines with
      seats := if (s.air.sources.get (.line k)).state = .off then s.lines.seats else s.lines.seats.set k false } := by
  by_cases h : (s.air.sources.get (.line k)).state = .off
  · rw [lineCut_off s k h, if_pos h]
  · rw [lineCut_on s k h, if_neg h]
    rfl

theorem lineCut_messages (s : State) (k : Line) :
    (s.lineCut k).messages =
      s.messages ++ if (s.air.sources.get (.line k)).state = .off then [] else [cutNotice k] := by
  by_cases h : (s.air.sources.get (.line k)).state = .off
  · rw [lineCut_off s k h, if_pos h, List.append_nil]
  · rw [lineCut_on s k h, if_neg h]
    rfl

theorem lineCut_counters (s : State) (k : Line) : (s.lineCut k).counters = s.counters := by
  by_cases h : (s.air.sources.get (.line k)).state = .off
  · rw [lineCut_off s k h]
  · rw [lineCut_on s k h]
    rfl

theorem lineCut_touches (s : State) (k : Line) : State.Touches [.air, .lines] s (s.lineCut k) := by
  by_cases h : (s.air.sources.get (.line k)).state = .off
  · rw [lineCut_off s k h]
    exact s.touches_refl _
  · rw [lineCut_on s k h]
    exact ((s.touches_air _).mono (by simp)).trans
      (((State.touches_tell _ _).mono (by simp)).trans ((State.seat_touches _ _ _).mono (by simp)))

/-! ## A far-end hangup (R99) -/

theorem onQueue_touches (s : State) (f : List Line → List Line) : State.Touches [.lines] s (s.onQueue f) :=
  (s.touches_lines _).trans (State.touches_rewriteIf _ .callerQueue _ _)

/-- The screener binding set: the slot map the line summary shows beside it stays. -/
theorem bindScreener_touches (s : State) (b : Option Line) : State.Touches [.lines] s (s.bindScreener b) := by
  refine (s.touches_lines _).trans (State.touches_force _ _ _ fun r hr => ?_)
  split at hr <;> simp_all [RecordId.parts]

theorem leave_touches (s : State) (k : Line) : State.Touches [.lines] s (s.leave k) := by
  unfold State.leave
  dsimp only
  split
  · exact (onQueue_touches _ _).trans (bindScreener_touches _ _)
  · exact onQueue_touches _ _

theorem leave_lines (s : State) (k : Line) :
    (s.leave k).lines = { s.lines with
      queue := s.lines.queue.filter (· ≠ k)
      screener := if s.lines.screener = some k then none else s.lines.screener } := by
  by_cases h : s.lines.screener = some k
  · have hu : (s.onQueue fun q => q.filter (· ≠ k)).lines.screener = some k := h
    rw [State.leave, if_pos hu, if_pos h]
    rfl
  · have hu : (s.onQueue fun q => q.filter (· ≠ k)).lines.screener ≠ some k := h
    rw [State.leave, if_neg hu, if_neg h]
    rfl

theorem leave_messages (s : State) (k : Line) : (s.leave k).messages = s.messages := by
  unfold State.leave
  dsimp only
  split <;> rfl

theorem leave_counters (s : State) (k : Line) : (s.leave k).counters = s.counters := by
  unfold State.leave
  dsimp only
  split <;> rfl

/-- What a hangup leaves before its event is raised and its counter moved. -/
def dropped (s : State) (k : Line) : State := ((s.lineCut k).leave k).toReleasing k false

theorem hangup_eq (s : State) (k : Line) :
    s.hangup k = ((dropped s k).raiseAll .lineDropped).count .lineDrops := rfl

/-- An event raised and a counter moved keep every part but the counters. -/
theorem raiseAll_count_keeps (s : State) (e : Event) (c : Counter) (x : Part) (hx : x ≠ .counters) :
    s.keeps ((s.raiseAll e).count c) x := by
  cases x <;> first | rfl | exact absurd rfl hx

theorem dropped_touches (s : State) (k : Line) : State.Touches [.air, .lines] s (dropped s k) :=
  (lineCut_touches s k).trans
    (((leave_touches _ k).mono (by simp)).trans ((State.onLine_touches _ _ _).mono (by simp)))

/-- A hangup leaves the line controller with the call gone and the line RELEASING (R99). -/
theorem dropped_lines (s : State) (k : Line) :
    (dropped s k).lines = s.callLeft k ((s.lines.recs.get k).releasing false) := by
  rw [dropped, State.toReleasing, State.onLine_lines, leave_lines, lineCut_lines]
  rfl

theorem dropped_messages (s : State) (k : Line) : (dropped s k).messages = (s.lineCut k).messages :=
  leave_messages _ k

theorem dropped_counters (s : State) (k : Line) : (dropped s k).counters = s.counters :=
  (leave_counters _ k).trans (lineCut_counters s k)

theorem dropped_air (s : State) (k : Line) : (dropped s k).air = s.air.cutOff (.line k) := by
  have h : ((s.lineCut k).leave k).air = (s.lineCut k).air := (leave_touches _ k).keeps .air (by simp)
  exact h.trans (lineCut_air s k)

/-! ## The step that cuts a line's source -/

/-- Putting back what stands in a place changes nothing. -/
theorem perLine_set_self {α : Type} (t : PerLine α) (k : Line) (x : α) (h : t.get k = x) : t.set k x = t := by
  subst h
  cases k <;> rfl

/-- A free seat noted again changes no line. -/
theorem seat_same (s : State) (k : Line) (h : s.lines.seats.get k = false) : (s.seat k false).lines = s.lines := by
  show { s.lines with seats := s.lines.seats.set k false } = s.lines
  rw [perLine_set_self _ _ _ h]

/-- A change that leaves a line's record as it is changes no line. -/
theorem onLine_same (s : State) (k : Line) (f : LineRec → LineRec)
    (h : f (s.lines.recs.get k) = s.lines.recs.get k) : (s.onLine k f).lines = s.lines := by
  rw [onLine_lines_of s k f _ h, perLine_set_self _ _ _ rfl]

/-- The controller finds a line whose seat is free and SEIZE clear as its source's OFF leaves it (R106). -/
theorem lineNotice_off_same (s : State) (k : Line) (hs : s.lines.seats.get k = false)
    (hz : (s.lines.recs.get k).seize = false) : (s.lineNotice k .off).lines = s.lines := by
  have hseat := seat_same s k hs
  unfold State.lineNotice
  rw [bne_self_eq_false]
  dsimp only
  split
  · rw [onLine_same _ k _ ?_, hseat]
    rw [hseat, ← hz]
  · exact hseat

/-- The notice of a cut source leaves such a line as it is. -/
theorem deliver_cutNotice_lines (s : State) (k : Line) (hs : s.lines.seats.get k = false)
    (hz : (s.lines.recs.get k).seize = false) : (s.deliver (cutNotice k)).lines = s.lines := by
  have ht : (s.tapState (.line k) .off).lines = s.lines := (s.tapState_touches (.line k) .off).keeps .lines (by simp)
  exact (lineNotice_off_same _ k (by rw [ht, hs]) (by rw [ht, hz])).trans ht

/-- The notices a step that may have cut a line's source leaves to deliver: none if the source was OFF, else that of the
cut, the seat given up. -/
structure CutTold (s v : State) (k : Line) : Prop where
  off : (s.air.sources.get (.line k)).state = .off → v.messages = []
  on : (s.air.sources.get (.line k)).state ≠ .off → v.messages = [cutNotice k] ∧ v.lines.seats.get k = false
  seize : (v.lines.recs.get k).seize = false

/-- Delivering them leaves the line controller as it is. -/
theorem CutTold.drain_lines {s v : State} {k : Line} (h : CutTold s v k) : v.drain.lines = v.lines := by
  by_cases ho : (s.air.sources.get (.line k)).state = .off
  · rw [State.drain_nil _ (h.off ho)]
  · obtain ⟨hm, hs⟩ := h.on ho
    have hd := deliver_cutNotice_lines ({ v with messages := [] }) k hs h.seize
    have hn : (({ v with messages := [] } : State).deliver (cutNotice k)).messages = [] :=
      (State.deliver_state _ (.line k) _ ⟨nofun, nofun⟩).messages
    show (v.drainMessages 1000).lines = v.lines
    rw [State.drainMessages_cons 999 v _ _ hm, State.drainMessages_nil _ _ hn, hd]

/-- The step of a running part whose act may cut a line's source: the act's air map and line controller, the rest within
the parts the cut reaches, and exchange memory below the status region as the act leaves it. -/
theorem cutStep (s : State) (f : State → State) (k : Line) (w : Nat → Prop) (h : s.runs)
    (hk : ∀ x, x ∉ lineParts → s.keeps (f s) x) (hforced : ∀ r ∈ (f s).forced, ∃ x ∈ r.parts, x ∈ lineParts)
    (hp : s.samePorts (f s)) (hx : s.sameXmBut (f s) w) (ht : CutTold s (f s) k) :
    (s.act f).air = (f s).air ∧ (s.act f).lines = (f s).lines ∧ s.within (s.act f) lineParts w ∧
      ((s.air.sources.get (.line k)).state = .off → (s.act f).counters = (f s).counters) ∧
      ∀ a < Config.statusBase, (s.act f).xm.read a = (f s).xm.read a := by
  have hmsg : ∀ m ∈ (f s).messages, m = cutNotice k := fun m hm => by
    by_cases ho : (s.air.sources.get (.line k)).state = .off
    · rw [ht.off ho] at hm
      cases hm
    · rw [(ht.on ho).1] at hm
      exact List.mem_singleton.mp hm
  have hlen : (f s).messages.length ≤ 1000 := by
    by_cases ho : (s.air.sources.get (.line k)).state = .off
    · simp [ht.off ho]
    · simp [(ht.on ho).1]
  have hrest : ∀ m ∈ (f s).messages,
      m.restful (f s) ∧ ∀ src, m.source = some src → ∀ x ∈ noticeParts src, x ∈ lineParts := fun m hm => by
    rw [hmsg m hm]
    exact ⟨⟨nofun, nofun⟩, fun src hs => by cases hs; exact fun _ h => h⟩
  obtain ⟨t, hact, hwithin, hblocks, hair⟩ := s.withinAct f lineParts w h hk hforced hp hx hlen hrest
  subst hact
  refine ⟨hair, (congrArg State.lines hblocks).trans ht.drain_lines, hwithin, fun ho => ?_, fun a ha => ?_⟩
  · rw [State.drain_nil _ (ht.off ho)] at hblocks
    have hcounters : (s.act f).blocks.counters = (f s).blocks.counters := by rw [hblocks]
    exact hcounters
  · rw [s.act_runs f h, State.settle, State.publish_read_low _ a ha, ((f s).drain_rest lineParts hlen hrest).touches.xm]

/-- The step of a hangup (R99). -/
theorem hangupStep (s : State) (f : State → State) (k : Line) (h : s.runs) (hf : f s = s.hangup k) :
    (∀ p, (s.act f).hasEvent p .lineDropped) ∧ (s.act f).air = s.air.cutOff (.line k) ∧
      (s.act f).lines = s.callLeft k ((s.lines.recs.get k).releasing false) ∧
      ((s.air.sources.get (.line k)).state = .off → (s.act f).counters = (s.count .lineDrops).counters) ∧
      s.within (s.act f) lineParts eventWord := by
  have ht := dropped_touches s k
  have hl : (f s).lines = s.callLeft k ((s.lines.recs.get k).releasing false) := by
    rw [hf]
    exact dropped_lines s k
  have hm : (f s).messages = (s.lineCut k).messages := by
    rw [hf]
    exact dropped_messages s k
  obtain ⟨hair, hlines, hwithin, hcount, hlow⟩ := cutStep s f k eventWord h
    (fun x hx => by
      simp only [lineParts, List.mem_cons, List.not_mem_nil, or_false, not_or] at hx
      rw [hf, hangup_eq]
      exact State.keeps_trans (ht.keeps x (by simp [hx])) (raiseAll_count_keeps _ _ _ x (by simp [hx])))
    (fun r hr => by
      rw [hf] at hr
      obtain ⟨x, hx, hps⟩ := (ht.forced r hr).resolve_left (by simp [h.2.1.2])
      exact ⟨x, hx, by simp [lineParts] at hps ⊢; tauto⟩)
    (fun q => by rw [hf, hangup_eq, State.count_ports, State.raiseAll_port_bare, ht.ports])
    (fun a ha => by
      rw [hf, hangup_eq, State.count_xm, State.raiseAll_read _ _ _ fun p hp => ha ⟨p, hp⟩, ht.xm])
    ⟨fun ho => by rw [hm, lineCut_messages, if_pos ho, h.2.1.1]; rfl,
      fun ho => ⟨by rw [hm, lineCut_messages, if_neg ho, h.2.1.1]; rfl, by simp [hl, State.callLeft, ho]⟩,
      by simp [hl, State.callLeft, LineRec.releasing]⟩
  refine ⟨fun p => ?_, ?_, hlines.trans hl, fun ho => ?_, hwithin⟩
  · have hev := (dropped s k).raiseAll_has .lineDropped p
    have hpage : base p + 51 < Config.statusBase := by
      have := base_lt p
      rw [statusBase_eq]
      omega
    rw [State.hasEvent, State.pageWord, hlow _ hpage, hf]
    exact hev
  · rw [hair, hf]
    exact dropped_air s k
  · rw [hcount ho, hf, hangup_eq]
    simp [dropped_counters]

/-- The step in which the release guard ends a line's RELEASING (R106). -/
theorem guardStep (s : State) (k : Line) (h : s.runs) (ht : (s.lines.recs.get k).releaseGuard = some 0)
    (hs : (s.lines.recs.get k).state = .releasing) :
    (s.act fun s => s.guardOver k).air = s.air.cutOff (.line k) ∧
      (s.act fun s => s.guardOver k).lines =
        { s.lines with
          recs := s.lines.recs.set k
            { s.lines.recs.get k with state := .idle, seize := false, releaseGuard := none }
          seats :=
            if (s.air.sources.get (.line k)).state = .off then s.lines.seats else s.lines.seats.set k false } ∧
      s.within (s.act fun s => s.guardOver k) lineParts (fun _ => False) := by
  have he := guardOver_due s k ht hs
  have htouch : State.Touches lineParts s (s.guardOver k) := by
    rw [he]
    exact ((lineCut_touches s k).mono (by simp [lineParts])).trans
      ((State.onLine_touches _ _ _).mono (by simp [lineParts]))
  have hl : (s.guardOver k).lines =
      { s.lines with
        recs := s.lines.recs.set k
          { s.lines.recs.get k with state := .idle, seize := false, releaseGuard := none }
        seats :=
          if (s.air.sources.get (.line k)).state = .off then s.lines.seats else s.lines.seats.set k false } := by
    rw [he, State.onLine_lines, lineCut_lines]
    rfl
  have hm : (s.guardOver k).messages = (s.lineCut k).messages := by
    rw [he]
    rfl
  obtain ⟨hair, hlines, hwithin, _, _⟩ := cutStep s (fun s => s.guardOver k) k (fun _ => False) h htouch.keeps
    (fun r hr => (htouch.forced r hr).resolve_left (by simp [h.2.1.2])) (fun q => by rw [htouch.ports])
    (fun a _ => by rw [htouch.xm])
    ⟨fun ho => by rw [hm, lineCut_messages, if_pos ho, h.2.1.1]; rfl,
      fun ho => ⟨by rw [hm, lineCut_messages, if_neg ho, h.2.1.1]; rfl, by simp [hl, ho]⟩, by simp [hl]⟩
  refine ⟨?_, hlines.trans hl, hwithin⟩
  rw [hair, he]
  exact lineCut_air s k

/-! ## Arrivals (R23, R89, R94 to R96) -/

/-- The highway with a slot's sample kept, as a slot not enabled for receiving reads (R23, R89). -/
def keptAt (h : Highway) (slot : Fin 16) (w : BitVec 32) : Highway :=
  { h with kept := h.kept.set slot (if h.map.rxEnable.getLsbD slot = true then w.extractLsb' 8 24 else 0) }

/-- A flag of an arriving word, as a slot not enabled for receiving reads (R89). -/
theorem arrivedFlag (b : Bool) (w : BitVec 32) (n : Nat) :
    (if b = true then w else 0).getLsbD n = (b && w.getLsbD n) := by
  cases b <;> simp

/-- The sample of an arriving word, as a slot not enabled for receiving reads (R89). -/
theorem arrivedSample (b : Bool) (w : BitVec 32) :
    (if b = true then w else 0).extractLsb' 8 24 = if b = true then w.extractLsb' 8 24 else 0 := by
  cases b <;> simp

/-- With no connected line at its slot, an arrival only keeps the sample (R89). -/
theorem slotArrival_unassigned (s : State) (slot : Fin 16) (w : BitVec 32)
    (h : ∀ k, s.highway.map.lineRx.get k = some slot → s.highway.map.lineTx.get k = none) :
    s.slotArrival slot w = { s with highway := keptAt s.highway slot w } := by
  unfold State.slotArrival
  dsimp only
  rw [find_no_line _ fun k => ?_, arrivedSample]
  · rfl
  · by_cases hk : s.highway.map.lineRx.get k = some slot
    · simp [SlotMap.connected, h k hk]
    · simp [hk]

/-- With one connected line at its slot, an arrival keeps the sample and hands that line RING and LOOP (R89). -/
theorem slotArrival_line (s : State) (slot : Fin 16) (w : BitVec 32) (k : Line)
    (hr : s.highway.map.lineRx.get k = some slot) (ht : (s.highway.map.lineTx.get k).isSome = true)
    (hu : ∀ j, s.highway.map.lineRx.get j = some slot → j = k) :
    s.slotArrival slot w =
      ({ s with highway := keptAt s.highway slot w } : State).onLine k fun r =>
        r.arrival (s.highway.map.rxEnable.getLsbD slot && w.getLsbD 7)
          (s.highway.map.rxEnable.getLsbD slot && w.getLsbD 6) := by
  unfold State.slotArrival
  dsimp only
  rw [find_line _ k (by simp [SlotMap.connected, hr, ht]) fun j hj =>
    hu j (eq_of_beq (Bool.and_eq_true_iff.mp hj).1), arrivedSample]
  simp only [arrivedFlag]
  rfl

/-- The step of an arrival that no line takes. -/
theorem arrivalStep_unassigned (s : State) (slot : Fin 16) (w : BitVec 32) (h : s.runs)
    (hn : ∀ k, s.highway.map.lineRx.get k = some slot → s.highway.map.lineTx.get k = none) :
    s.changedTo (s.act fun s => s.slotArrival slot w) { s with highway := keptAt s.highway slot w }
      (fun _ => False) := by
  have he := slotArrival_unassigned s slot w hn
  obtain ⟨t, ht, hc⟩ := s.plainAct (fun s => s.slotArrival slot w) (fun _ => False) h (by rw [he]; exact h.2.1.1)
    (fun q => by rw [he]) (fun a _ => by rw [he]) (fun r a _ _ hin => by
      rw [he] at hin
      exact List.not_mem_nil (h.2.1.2 ▸ hin))
  rw [← he]
  exact ht ▸ hc

/-- The step of an arrival that one line takes. -/
theorem arrivalStep_line (s : State) (slot : Fin 16) (w : BitVec 32) (k : Line) (r : LineRec) (h : s.runs)
    (hr : s.highway.map.lineRx.get k = some slot) (ht : (s.highway.map.lineTx.get k).isSome = true)
    (hu : ∀ j, s.highway.map.lineRx.get j = some slot → j = k)
    (ha : (s.lines.recs.get k).arrival (s.highway.map.rxEnable.getLsbD slot && w.getLsbD 7)
      (s.highway.map.rxEnable.getLsbD slot && w.getLsbD 6) = r) :
    s.changedTo (s.act fun s => s.slotArrival slot w)
      { s with
        highway := keptAt s.highway slot w
        lines := { s.lines with recs := s.lines.recs.set k r } }
      (inRecord (.line k)) := by
  have he := slotArrival_line s slot w k hr ht hu
  obtain ⟨t, hact, hblocks, hports, hxm⟩ := s.plainAct (fun s => s.slotArrival slot w) (inRecord (.line k)) h
    (by rw [he]; exact h.2.1.1) (fun q => by rw [he]; rfl) (fun a _ => by rw [he]; rfl) (fun r a hin hn hf => by
      rw [he] at hf
      exact hn (mem_onLine_forced (s := { s with highway := keptAt s.highway slot w }) h.2.1.2 hf ▸ hin))
  subst hact
  refine ⟨?_, hports, hxm⟩
  rw [hblocks, he]
  exact onLine_blocks { s with highway := keptAt s.highway slot w } k _ r ha

/-- An arrival by the line's state, timer by timer (R94 to R96). -/
theorem arrival_eq (x r : LineRec) (ring loop : Bool) (hr : r = { x with lastRing := ring, lastLoop := loop }) :
    x.arrival ring loop =
      match r.state with
      | .idle =>
        { r with
          ringQualify :=
            if ring = true then (if r.ringQualify.isSome = true then r.ringQualify else some 4800)
            else none }
      | .ringing =>
        { r with
          ringGap :=
            if ring = true then none
            else if r.ringGap.isSome = true then r.ringGap else some 288000 }
      | .screen | .waiting | .onAir =>
        if loop = true then
          { r with
            loopSeen := true, loopLoss := none
            answerGrace := if r.loopSeen = true then r.answerGrace else none }
        else if r.loopSeen = true then
          { r with loopLoss := if r.loopLoss.isSome = true then r.loopLoss else some 19200 }
        else r
      | .releasing => r := by
  subst hr
  rfl

/-! ## The statement -/

/-- A line timer that has not run out does nothing (log 6). -/
theorem timersRunning (s : State) (k : Line) (r : LineRec) (h : s.runs) (hr : s.lines.recs.get k = r) :
    (r.ringQualify ≠ some 0 → Sys2Proof.Machine.exec (.ringQualifyExpiry k) s = .next s) ∧
    (r.ringGap ≠ some 0 → Sys2Proof.Machine.exec (.ringGapExpiry k) s = .next s) ∧
    (r.answerGrace ≠ some 0 → Sys2Proof.Machine.exec (.answerGraceExpiry k) s = .next s) ∧
    (r.loopLoss ≠ some 0 → Sys2Proof.Machine.exec (.loopLossExpiry k) s = .next s) ∧
    (r.releaseGuard ≠ some 0 → Sys2Proof.Machine.exec (.releaseGuardExpiry k) s = .next s) := by
  subst hr
  refine ⟨fun ht => ?_, fun ht => ?_, fun ht => ?_, fun ht => ?_, fun ht => ?_⟩
  · rw [exec_ringQualifyExpiry, act_same s _ h (by simp [State.ringQualified, ranOut_iff, ht])]
  · rw [exec_ringGapExpiry, act_same s _ h (by simp [State.ringGone, ranOut_iff, ht])]
  · rw [exec_answerGraceExpiry, act_same s _ h (by simp [State.graceOver, ranOut_iff, ht])]
  · rw [exec_loopLossExpiry, act_same s _ h (by simp [State.loopLost, ranOut_iff, ht])]
  · rw [exec_releaseGuardExpiry, act_same s _ h (by simp [State.guardOver, ranOut_iff, ht])]

/-- Settles O43: each expiry is the step of its own lemma above, and an arrival the record `arrival_eq` names. -/
theorem arrivalsAndLineTimers : Obligations.ArrivalsAndLineTimers := by
  refine ⟨fun s k r h hr => ?_, fun s slot w hw h hh hn => ?_,
    fun s slot w hw k ring loop r h hh hrx htx hu hring hloop hr => ?_⟩
  · have hrunning := timersRunning s k r h hr
    subst hr
    refine ⟨fun ht hs => ?_, fun ht hs => ?_, fun i hi hs => ?_, fun ht hs => ?_, hrunning⟩
    · have he := ringQualified_due s k ht hs
      obtain ⟨hev, hblocks, hrest⟩ := ringStep s (fun s => s.ringQualified k) k _ .lineRing h
        (by rw [he]; exact h.2.1.1) (by rw [he]; rfl) (by rw [he]) (by rw [he])
      refine ⟨_, exec_ringQualifyExpiry s k, hev, ?_, hrest⟩
      rw [hblocks, he, State.blocks_raiseAll, onLine_blocks s k _ _ rfl]
    · have he := ringGone_due s k ht hs
      obtain ⟨hev, hblocks, hrest⟩ := ringStep s (fun s => s.ringGone k) k _ .missedCall h
        (by rw [he]; exact h.2.1.1) (by rw [he]; rfl) (by rw [he]; rfl) (by rw [he]; rfl)
      refine ⟨_, exec_ringGapExpiry s k, hev, ?_, hrest⟩
      rw [hblocks, he]
      rfl
    · have hcall := (inCall_iff _).mpr hs
      rcases hi with ⟨rfl, ht⟩ | ⟨rfl, ht⟩
      · exact ⟨_, exec_answerGraceExpiry s k, hangupStep s _ k h (graceOver_due s k ht hcall)⟩
      · exact ⟨_, exec_loopLossExpiry s k, hangupStep s _ k h (loopLost_due s k ht hcall)⟩
    · exact ⟨_, exec_releaseGuardExpiry s k, guardStep s k h ht hs⟩
  · subst hh
    exact ⟨_, exec_slotWordArrival s slot w, arrivalStep_unassigned s slot w h hn⟩
  · subst hh hring hloop
    exact ⟨_, exec_slotWordArrival s slot w,
      arrivalStep_line s slot w k _ h hrx htx hu (arrival_eq _ r _ _ hr)⟩

end Sys2Proof.ProgramArithmetic

/-!
What a program sample event does, part by part (R21): the takes from the readers' buffers (R22 to R24), the mixer's
work, the hand-over (R34, R35), the timers and the clock.
-/
namespace Sys2Proof.ProgramArithmetic

open Sys2Proof.Machine

/-! ## Takes from a reader's buffer (R22) -/

/-- What one take gives: the oldest pair, 0 from an empty buffer, 0 where the mixer does not take (R22). -/
def taken (taking : Bool) (buffer : List Pair) : Int × Int :=
  match taking, buffer with
  | true, p :: _ => pairInputs p
  | _, _ => (0, 0)

/-- A take from an empty buffer starves (R22). -/
def starves (taking : Bool) (buffer : List Pair) : Bool := taking && buffer.isEmpty

@[simp] theorem taken_off (l : List Pair) : taken false l = (0, 0) := rfl
@[simp] theorem taken_empty (b : Bool) : taken b [] = (0, 0) := by cases b <;> rfl
theorem taken_pair (p : Pair) (l : List Pair) : taken true (p :: l) = pairInputs p := rfl
@[simp] theorem starves_off (l : List Pair) : starves false l = false := rfl
@[simp] theorem starves_empty : starves true [] = true := rfl
@[simp] theorem starves_pair (b : Bool) (p : Pair) (l : List Pair) : starves b (p :: l) = false := by cases b <;> rfl

/-! ## A deck's take (R22, R71) -/

/-- A deck after the mixer's take of one event (R71). -/
def deckAfter (r : DeckRec) : DeckRec := if r.taking = true then r.take.1 else r

/-- A deck's take is none, a starve, or the oldest pair (R22). -/
theorem takeDeck_cases (s : State) (d : DeckId) (r : DeckRec) (hr : s.decks.get d = r) :
    (r.taking = false ∧ s.takeDeck d = (s, (0, 0))) ∨
    (r.taking = true ∧ r.buffer = [] ∧ s.takeDeck d = (s.count (.starve d), (0, 0))) ∨
    ∃ p t, r.taking = true ∧ r.buffer = p :: t ∧ s.takeDeck d = (s.onDeck d fun _ => r.take.1, pairInputs p) := by
  subst hr
  unfold State.takeDeck DeckRec.take
  cases ht : (s.decks.get d).taking with
  | false => simp [ht]
  | true => cases hb : (s.decks.get d).buffer with
    | nil => simp [ht, hb]
    | cons p t => simp [ht, hb]

theorem takeDeck_input (s : State) (d : DeckId) :
    (s.takeDeck d).2 = taken (s.decks.get d).taking (s.decks.get d).buffer := by
  rcases takeDeck_cases s d _ rfl with ⟨ht, he⟩ | ⟨ht, hb, he⟩ | ⟨p, t, ht, hb, he⟩
  · rw [he, ht, taken_off]
  · rw [he, hb, taken_empty]
  · rw [he, ht, hb, taken_pair]

theorem takeDeck_deck (s : State) (d e : DeckId) :
    (s.takeDeck d).1.decks.get e = if e = d then deckAfter (s.decks.get d) else s.decks.get e := by
  rcases takeDeck_cases s d _ rfl with ⟨ht, he⟩ | ⟨ht, hb, he⟩ | ⟨p, t, ht, hb, he⟩
  · rw [he]
    split
    · rename_i hd
      rw [hd, deckAfter, ht]
      rfl
    · rfl
  · rw [he]
    split
    · rename_i hd
      rw [hd, deckAfter, if_pos ht, DeckRec.take, hb]
      rfl
    · rfl
  · rw [he, deckAfter, if_pos ht, State.onDeck_decks, PerDeck.get_modify]

theorem takeDeck_tally (s : State) (d : DeckId) (c : Counter) :
    tally (s.takeDeck d).1 c =
      bump (decide (c = .starve d) && starves (s.decks.get d).taking (s.decks.get d).buffer) (tally s c) := by
  rcases takeDeck_cases s d _ rfl with ⟨ht, he⟩ | ⟨ht, hb, he⟩ | ⟨p, t, ht, hb, he⟩
  · rw [he, ht, starves_off, Bool.and_false, bump_false]
  · rw [he, ht, hb, starves_empty, Bool.and_true, count_tally]
  · rw [he, hb, starves_pair, Bool.and_false, bump_false]
    rfl

theorem takeDeck_touches (s : State) (d : DeckId) : State.Touches [.decks, .counters] s (s.takeDeck d).1 := by
  rcases takeDeck_cases s d _ rfl with ⟨_, he⟩ | ⟨_, _, he⟩ | ⟨p, t, _, _, he⟩ <;> rw [he]
  · exact s.touches_refl _
  · exact (s.count_touches _).mono (by simp)
  · exact (s.onDeck_touches _ _).mono (by simp)

theorem takeDeck_messages (s : State) (d : DeckId) : (s.takeDeck d).1.messages = s.messages := by
  rcases takeDeck_cases s d _ rfl with ⟨_, he⟩ | ⟨_, _, he⟩ | ⟨p, t, _, _, he⟩ <;>
    exact congrArg (fun w => w.1.messages) he

/-! ## The alert engine's input (R24, R127, R129) -/

/-- The engine after the mixer's take of one event (R129). -/
def alertAfter (e : AlertEngine) : AlertEngine := if e.phase = .message then e.take.1 else e

/-- The input of ALERT: the tone sum in TONE, the reader's take in MESSAGE, else 0 (R24). -/
def alertInput (e : AlertEngine) : Int × Int :=
  match e.phase with
  | .tone => (e.toneSum, e.toneSum)
  | .message => taken true e.reader.buffer
  | _ => (0, 0)

/-- The engine gives its tone sum or 0, starves, or gives the oldest pair (R24). -/
theorem takeAlert_cases (s : State) :
    (s.alert.phase ≠ .message ∧ s.takeAlert = (s, alertInput s.alert)) ∨
    (s.alert.phase = .message ∧ s.alert.reader.buffer = [] ∧ s.takeAlert = (s.count .alertStarve, (0, 0))) ∨
    ∃ p t, s.alert.phase = .message ∧ s.alert.reader.buffer = p :: t ∧
      s.takeAlert = ({ s with alert := s.alert.take.1 }, pairInputs p) := by
  unfold State.takeAlert AlertEngine.take alertInput
  cases hp : s.alert.phase with
  | message => cases hb : s.alert.reader.buffer with
    | nil => simp
    | cons p t => simp
  | _ => simp

theorem takeAlert_input (s : State) : s.takeAlert.2 = alertInput s.alert := by
  rcases takeAlert_cases s with ⟨_, he⟩ | ⟨hp, hb, he⟩ | ⟨p, t, hp, hb, he⟩
  · rw [he]
  · simp [he, alertInput, hp, hb]
  · simp [he, alertInput, hp, hb, taken_pair]

theorem takeAlert_alert (s : State) : s.takeAlert.1.alert = alertAfter s.alert := by
  rcases takeAlert_cases s with ⟨hp, he⟩ | ⟨hp, hb, he⟩ | ⟨p, t, hp, hb, he⟩
  · rw [he, alertAfter, if_neg hp]
  · rw [he, alertAfter, if_pos hp, AlertEngine.take, hb]
    rfl
  · rw [he, alertAfter, if_pos hp]

theorem takeAlert_tally (s : State) (c : Counter) :
    tally s.takeAlert.1 c =
      bump (decide (c = .alertStarve) && starves (s.alert.phase == .message) s.alert.reader.buffer) (tally s c) := by
  rcases takeAlert_cases s with ⟨hp, he⟩ | ⟨hp, hb, he⟩ | ⟨p, t, hp, hb, he⟩
  · rw [he, beq_false_of_ne hp, starves_off, Bool.and_false, bump_false]
  · rw [he, hp, hb, beq_self_eq_true, starves_empty, Bool.and_true, count_tally]
  · rw [he, hb, starves_pair, Bool.and_false, bump_false]
    rfl

theorem takeAlert_touches (s : State) : State.Touches [.alert, .counters] s s.takeAlert.1 := by
  rcases takeAlert_cases s with ⟨_, he⟩ | ⟨_, _, he⟩ | ⟨p, t, _, _, he⟩ <;> rw [he]
  · exact s.touches_refl _
  · exact (s.count_touches _).mono (by simp)
  · exact (s.touches_alert _).mono (by simp)

theorem takeAlert_messages (s : State) : s.takeAlert.1.messages = s.messages := by
  rcases takeAlert_cases s with ⟨_, he⟩ | ⟨_, _, he⟩ | ⟨p, t, _, _, he⟩ <;>
    exact congrArg (fun w => w.1.messages) he

/-! ## The fallback's take (R22, R146) -/

/-- The monitor's reader after the mixer's take of one event (R146). -/
def fallbackAfter (taking : Bool) (d : DeadAir) : DeadAir := if taking = true then d.take.1 else d

/-- The mixer takes from the fallback while it is not OFF, and HELD only above L = 0 (R22). -/
theorem fallbackTaking_iff (s : State) :
    s.fallbackTaking = true ↔
      s.air.sources.fallback.now ≠ .off ∧ (s.air.sources.fallback.now = .held → 0 < s.air.sources.fallback.level) := by
  unfold State.fallbackTaking
  cases h : s.air.sources.fallback.now <;> simp [h]

/-- The fallback's take is none, a starve, or the oldest pair (R22, R146). -/
theorem takeFallback_cases (s : State) :
    (s.fallbackTaking = false ∧ s.takeFallback = (s, (0, 0))) ∨
    (s.fallbackTaking = true ∧ s.deadAir.buffer = [] ∧ s.takeFallback = (s.count .fallbackStarve, (0, 0))) ∨
    ∃ p t, s.fallbackTaking = true ∧ s.deadAir.buffer = p :: t ∧
      s.takeFallback = ({ s with deadAir := s.deadAir.take.1 }, pairInputs p) := by
  unfold State.takeFallback DeadAir.take
  cases ht : s.fallbackTaking with
  | false => simp
  | true => cases hb : s.deadAir.buffer with
    | nil => simp
    | cons p t => simp

theorem takeFallback_input (s : State) : s.takeFallback.2 = taken s.fallbackTaking s.deadAir.buffer := by
  rcases takeFallback_cases s with ⟨ht, he⟩ | ⟨ht, hb, he⟩ | ⟨p, t, ht, hb, he⟩
  · rw [he, ht, taken_off]
  · rw [he, hb, taken_empty]
  · rw [he, ht, hb, taken_pair]

theorem takeFallback_deadAir (s : State) : s.takeFallback.1.deadAir = fallbackAfter s.fallbackTaking s.deadAir := by
  rcases takeFallback_cases s with ⟨ht, he⟩ | ⟨ht, hb, he⟩ | ⟨p, t, ht, hb, he⟩
  · rw [he, ht]
    rfl
  · rw [he, ht, fallbackAfter, if_pos rfl, DeadAir.take, hb]
    rfl
  · rw [he, ht]
    rfl

theorem takeFallback_tally (s : State) (c : Counter) :
    tally s.takeFallback.1 c =
      bump (decide (c = .fallbackStarve) && starves s.fallbackTaking s.deadAir.buffer) (tally s c) := by
  rcases takeFallback_cases s with ⟨ht, he⟩ | ⟨ht, hb, he⟩ | ⟨p, t, ht, hb, he⟩
  · rw [he, ht, starves_off, Bool.and_false, bump_false]
  · rw [he, ht, hb, starves_empty, Bool.and_true, count_tally]
  · rw [he, hb, starves_pair, Bool.and_false, bump_false]
    rfl

theorem takeFallback_touches (s : State) : State.Touches [.deadAir, .counters] s s.takeFallback.1 := by
  rcases takeFallback_cases s with ⟨_, he⟩ | ⟨_, _, he⟩ | ⟨p, t, _, _, he⟩ <;> rw [he]
  · exact s.touches_refl _
  · exact (s.count_touches _).mono (by simp)
  · exact (s.touches_deadAir _).mono (by simp)

theorem takeFallback_messages (s : State) : s.takeFallback.1.messages = s.messages := by
  rcases takeFallback_cases s with ⟨_, he⟩ | ⟨_, _, he⟩ | ⟨p, t, _, _, he⟩ <;>
    exact congrArg (fun w => w.1.messages) he

/-! ## All the inputs of an event -/

/-- The inputs the mixer gathers from a state (R22 to R24). -/
def inputsOf (s : State) : PerSource (Int × Int) where
  decks := s.decks.mapWith fun _ r => taken r.taking r.buffer
  mic := (s.highway.input s.highway.map.mic, s.highway.input s.highway.map.mic)
  lines := s.highway.map.lineRx.mapWith fun _ slot => (s.highway.input slot, s.highway.input slot)
  alert := alertInput s.alert
  fallback := taken s.fallbackTaking s.deadAir.buffer

/-- The state after the takes of both decks. -/
def decksTaken (s : State) : State := ((s.takeDeck .d1).1.takeDeck .d2).1

theorem decksTaken_touches (s : State) : State.Touches [.decks, .counters] s (decksTaken s) :=
  (takeDeck_touches s .d1).trans (takeDeck_touches _ .d2)
theorem decksTaken_alert (s : State) : (decksTaken s).alert = s.alert :=
  (decksTaken_touches s).keeps .alert (by simp)
theorem decksTaken_air (s : State) : (decksTaken s).air = s.air := (decksTaken_touches s).keeps .air (by simp)
theorem decksTaken_deadAir (s : State) : (decksTaken s).deadAir = s.deadAir :=
  (decksTaken_touches s).keeps .deadAir (by simp)

theorem decksTaken_deck (s : State) (d : DeckId) : (decksTaken s).decks.get d = deckAfter (s.decks.get d) := by
  cases d <;> simp [decksTaken, takeDeck_deck]

/-- The state after the decks' and the engine's takes. -/
def alertTaken (s : State) : State := (decksTaken s).takeAlert.1

theorem alertTaken_deadAir (s : State) : (alertTaken s).deadAir = s.deadAir :=
  ((takeAlert_touches _).keeps .deadAir (by simp)).trans (decksTaken_deadAir s)
theorem alertTaken_taking (s : State) : (alertTaken s).fallbackTaking = s.fallbackTaking := by
  have h : (alertTaken s).air = s.air := ((takeAlert_touches _).keeps .air (by simp)).trans (decksTaken_air s)
  simp only [State.fallbackTaking, h]

theorem takeInputs_state (s : State) : s.takeInputs.1 = (alertTaken s).takeFallback.1 := (rfl)

/-- Each take gives what the state of the event's beginning holds for it. -/
theorem takeInputs_inputs (s : State) : s.takeInputs.2 = inputsOf s := by
  have hd : (s.takeDeck .d1).1.decks.get .d2 = s.decks.get .d2 := by simp [takeDeck_deck]
  have h1 : (s.takeDeck .d1).2 = taken s.decks.d1.taking s.decks.d1.buffer := takeDeck_input s .d1
  have h2 : ((s.takeDeck .d1).1.takeDeck .d2).2 = taken s.decks.d2.taking s.decks.d2.buffer := by
    rw [takeDeck_input, hd]
    rfl
  have h3 : (decksTaken s).takeAlert.2 = alertInput s.alert := by rw [takeAlert_input, decksTaken_alert]
  have h4 : (alertTaken s).takeFallback.2 = taken s.fallbackTaking s.deadAir.buffer := by
    rw [takeFallback_input, alertTaken_taking, alertTaken_deadAir]
  rw [inputsOf, ← h3, ← h4, PerDeck.mapWith, ← h1, ← h2]
  rfl

theorem takeInputs_touches (s : State) : State.Touches [.decks, .alert, .deadAir, .counters] s s.takeInputs.1 :=
  ((decksTaken_touches s).mono (by simp)).trans
    (((takeAlert_touches _).mono (by simp)).trans ((takeFallback_touches _).mono (by simp)))

theorem takeInputs_messages (s : State) : s.takeInputs.1.messages = s.messages := by
  rw [takeInputs_state, takeFallback_messages, alertTaken, takeAlert_messages, decksTaken, takeDeck_messages,
    takeDeck_messages]

theorem takeInputs_deck (s : State) (d : DeckId) : s.takeInputs.1.decks.get d = deckAfter (s.decks.get d) := by
  have h : s.takeInputs.1.decks = (decksTaken s).decks :=
    ((takeFallback_touches _).keeps .decks (by simp)).trans ((takeAlert_touches _).keeps .decks (by simp))
  rw [h, decksTaken_deck]

theorem takeInputs_alert (s : State) : s.takeInputs.1.alert = alertAfter s.alert := by
  have h : s.takeInputs.1.alert = (alertTaken s).alert := (takeFallback_touches _).keeps .alert (by simp)
  rw [h, alertTaken, takeAlert_alert, decksTaken_alert]

theorem takeInputs_deadAir (s : State) : s.takeInputs.1.deadAir = fallbackAfter s.fallbackTaking s.deadAir := by
  rw [takeInputs_state, takeFallback_deadAir, alertTaken_taking, alertTaken_deadAir]

/-- The starve a counter counts at an event, if it counts one (R22, R129, R146). -/
def starvesAt (s : State) : Counter → Bool
  | .starve d => starves (s.decks.get d).taking (s.decks.get d).buffer
  | .alertStarve => starves (s.alert.phase == .message) s.alert.reader.buffer
  | .fallbackStarve => starves s.fallbackTaking s.deadAir.buffer
  | _ => false

/-- The takes move the counters of the readers that starve, and no other. -/
theorem takeInputs_tally (s : State) (c : Counter) :
    tally s.takeInputs.1 c = bump (starvesAt s c) (tally s c) := by
  have hd : (s.takeDeck .d1).1.decks.get .d2 = s.decks.get .d2 := by simp [takeDeck_deck]
  rw [takeInputs_state, takeFallback_tally, alertTaken_taking, alertTaken_deadAir, alertTaken, takeAlert_tally,
    decksTaken_alert, decksTaken, takeDeck_tally, hd, takeDeck_tally]
  cases c with
  | starve d => cases d <;> simp [starvesAt]
  | _ => simp [starvesAt]

/-! ## The mixer's work, and the rest of the event -/

/-- The frame the mixer forms from a state whose ramps have stepped (R21). -/
def mixedFrame (s : State) : MixFrame :=
  mix s.air (inputsOf s) (s.lines.recs.mapWith fun _ r => r.state) (s.highway.input s.highway.map.screenerRx)
    s.screenedInput

/-- The state after the mixer's takes, with the frame it formed. -/
def mixedState (s : State) : State := { s.takeInputs.1 with mixer := mixedFrame s }

theorem mixNow_eq (s : State) :
    s.mixNow =
      if (clamps (mixedFrame s).sumLeft || clamps (mixedFrame s).sumRight) = true then
        (mixedState s).count .clipEvents
      else mixedState s := by
  have ht := takeInputs_touches s
  have hair : s.takeInputs.1.air = s.air := ht.keeps .air (by simp)
  have hlines : s.takeInputs.1.lines = s.lines := ht.keeps .lines (by simp)
  have hhigh : s.takeInputs.1.highway = s.highway := ht.keeps .highway (by simp)
  have hframe : mix s.takeInputs.1.air s.takeInputs.2 (s.takeInputs.1.lines.recs.mapWith fun _ r => r.state)
      (s.takeInputs.1.highway.input s.takeInputs.1.highway.map.screenerRx) s.takeInputs.1.screenedInput =
      mixedFrame s := by
    simp only [State.screenedInput, mixedFrame, takeInputs_inputs, hair, hlines, hhigh]
  unfold State.mixNow
  dsimp only
  rw [hframe]
  rfl

/-- The mixer's work is its takes and its frame, with a count at most (R28). -/
theorem mixNow_touches_mixed (s : State) : State.Touches [.counters] (mixedState s) s.mixNow := by
  rw [mixNow_eq]
  split
  · exact State.count_touches _ _
  · exact State.touches_refl _ _

theorem mixNow_messages (s : State) : s.mixNow.messages = s.messages := by
  have hm : (mixedState s).messages = s.messages := takeInputs_messages s
  rw [mixNow_eq]
  split
  · rw [State.count_messages, hm]
  · exact hm

/-- An output sum of the program is clamped (R28). -/
def clipped (f : MixFrame) : Bool := clamps f.sumLeft || clamps f.sumRight

theorem mixNow_tally (s : State) (c : Counter) :
    tally s.mixNow c = bump (starvesAt s c || (decide (c = .clipEvents) && clipped (mixedFrame s))) (tally s c) := by
  have hm : tally (mixedState s) c = bump (starvesAt s c) (tally s c) := takeInputs_tally s c
  rw [mixNow_eq, ← clipped]
  cases clipped (mixedFrame s) with
  | false => rw [if_neg Bool.false_ne_true, hm, Bool.and_false, Bool.or_false]
  | true =>
    rw [if_pos rfl, count_tally, hm, Bool.and_true]
    by_cases hc : c = .clipEvents
    · subst hc
      rfl
    · rw [decide_eq_false hc, bump_false, Bool.or_false]

theorem touches_mixer (s : State) (f : MixFrame) : State.Touches [.mixer] s { s with mixer := f } :=
  .plain (fun y hy => by cases y <;> first | rfl | simp at hy) rfl rfl rfl

theorem mixNow_touches (s : State) : State.Touches [.mixer, .decks, .alert, .deadAir, .counters] s s.mixNow :=
  ((takeInputs_touches s).mono (by simp)).trans
    (((touches_mixer s.takeInputs.1 (mixedFrame s)).mono (by simp)).trans ((mixNow_touches_mixed s).mono (by simp)))

theorem handOn_touches (s : State) : State.Touches [.link, .deadAir] s s.handOn := by
  unfold State.handOn
  dsimp only
  split
  · exact ((s.onLink_touches _).mono (by simp)).trans ((State.onDeadAir_touches _ _).mono (by simp))
  · exact (s.onLink_touches _).mono (by simp)

theorem handOn_messages (s : State) : s.handOn.messages = s.messages := by
  unfold State.handOn
  dsimp only
  split <;> rfl

/-- The framer takes the program pair (R34, R157). -/
theorem handOn_link (s : State) : s.handOn.link = s.link.takePair s.mixer.program := by
  unfold State.handOn
  dsimp only
  split <;> rfl

/-- The monitor of a running part takes the program and primary pairs (R35, R137). -/
theorem handOn_deadAir (s : State) :
    s.handOn.deadAir =
      if s.clock.power = .running then s.deadAir.hear s.mixer.program s.mixer.primary else s.deadAir := by
  unfold State.handOn
  by_cases h : s.clock.power = .running
  · have hu : (s.onLink fun l => l.takePair s.mixer.program).clock.power = .running := h
    rw [if_pos h]
    dsimp only
    rw [if_pos hu]
    rfl
  · have hu : (s.onLink fun l => l.takePair s.mixer.program).clock.power ≠ .running := h
    rw [if_neg h]
    dsimp only
    rw [if_neg hu]
    rfl

theorem tickTimers_touches (s : State) : State.Touches [.lines, .alert, .link, .lamps, .clips] s s.tickTimers :=
  .plain (fun y hy => by cases y <;> first | rfl | simp at hy) rfl rfl rfl

theorem tickTimers_messages (s : State) : s.tickTimers.messages = s.messages := rfl
theorem tickTimers_alert (s : State) : s.tickTimers.alert = s.alert.tick := rfl
theorem tickTimers_link (s : State) : s.tickTimers.link = s.link.tick := rfl
theorem tickTimers_deadAir (s : State) : s.tickTimers.deadAir = s.deadAir := rfl

theorem tickClock_touches (s : State) : State.Touches [.clock, .alert] s s.tickClock := by
  unfold State.tickClock
  split
  · exact s.touches_refl _
  · exact .plain (fun y hy => by cases y <;> first | rfl | simp at hy) rfl rfl rfl
  · split
    · exact .plain (fun y hy => by cases y <;> first | rfl | simp at hy) rfl rfl rfl
    · exact .plain (fun y hy => by cases y <;> first | rfl | simp at hy) rfl rfl rfl

theorem tickClock_messages (s : State) : s.tickClock.messages = s.messages := by
  unfold State.tickClock
  split
  · rfl
  · rfl
  · split <;> rfl

/-- The clock moves no more of the alert engine than its millisecond count (R113). -/
theorem tickClock_alert (s : State) :
    s.tickClock.alert = { s.alert with milliseconds := s.tickClock.alert.milliseconds } := by
  unfold State.tickClock
  split
  · rfl
  · rfl
  · split <;> rfl

/-! ## The event -/

/-- The state whose ramps have stepped (R4, R15). -/
def stepped (s : State) : State := { s with air := s.air.step }

theorem sampleEvent_eq (s : State) : s.sampleEvent = (stepped s).mixNow.handOn.tickTimers.tickClock := rfl

theorem sampleEvent_messages (s : State) : s.sampleEvent.messages = s.messages := by
  rw [sampleEvent_eq, tickClock_messages, tickTimers_messages, handOn_messages, mixNow_messages]
  rfl

/-- The parts the hand-over, the timers and the clock leave as the mixer's work left them. -/
theorem sampleEvent_touches_mixNow (s : State) :
    State.Touches [.link, .deadAir, .lines, .alert, .lamps, .clips, .clock] (stepped s).mixNow s.sampleEvent :=
  ((handOn_touches _).mono (by simp)).trans
    (((tickTimers_touches _).mono (by simp)).trans ((tickClock_touches _).mono (by simp)))

theorem sampleEvent_touches (s : State) :
    State.Touches [.air, .mixer, .decks, .alert, .deadAir, .counters, .link, .lines, .lamps, .clips, .clock] s
      s.sampleEvent :=
  ((s.touches_air _).mono (by simp)).trans
    (((mixNow_touches (stepped s)).mono (by simp)).trans ((sampleEvent_touches_mixNow s).mono (by simp)))

/-- The air map of an event is the stepped one: the mixer only reads it (R21). -/
theorem sampleEvent_air (s : State) : s.sampleEvent.air = s.air.step :=
  ((sampleEvent_touches_mixNow s).keeps .air (by simp)).trans ((mixNow_touches (stepped s)).keeps .air (by simp))

theorem mixNow_mixer (s : State) : s.mixNow.mixer = mixedFrame s :=
  (mixNow_touches_mixed s).keeps .mixer (by simp)

theorem sampleEvent_mixer (s : State) : s.sampleEvent.mixer = mixedFrame (stepped s) :=
  ((sampleEvent_touches_mixNow s).keeps .mixer (by simp)).trans (mixNow_mixer _)

theorem sampleEvent_deck (s : State) (d : DeckId) : s.sampleEvent.decks.get d = deckAfter (s.decks.get d) := by
  have h : s.sampleEvent.decks = (mixedState (stepped s)).decks :=
    ((sampleEvent_touches_mixNow s).keeps .decks (by simp)).trans ((mixNow_touches_mixed _).keeps .decks (by simp))
  rw [h]
  exact takeInputs_deck (stepped s) d

/-- The counters an event moves: those of the readers that starve, and CLIP_EVENTS (R22, R28). -/
theorem sampleEvent_tally (s : State) (c : Counter) :
    tally s.sampleEvent c =
      bump (starvesAt (stepped s) c || (decide (c = .clipEvents) && clipped s.sampleEvent.mixer)) (tally s c) := by
  have h : tally s.sampleEvent c = tally (stepped s).mixNow c :=
    congrArg (fun v : Vector Nat 29 => v[c.index]) ((sampleEvent_touches_mixNow s).keeps .counters (by simp))
  rw [h, mixNow_tally, sampleEvent_mixer]
  rfl

/-- The alert engine of an event: the mixer's take, then its own tick (R124, R127, R129). -/
theorem sampleEvent_alert (s : State) :
    s.sampleEvent.alert = { (alertAfter s.alert).tick with milliseconds := s.sampleEvent.alert.milliseconds } := by
  have hmix : (stepped s).mixNow.alert = alertAfter s.alert := by
    have h : (stepped s).mixNow.alert = (mixedState (stepped s)).alert :=
      (mixNow_touches_mixed _).keeps .alert (by simp)
    exact h.trans (takeInputs_alert (stepped s))
  have hand : (stepped s).mixNow.handOn.alert = alertAfter s.alert :=
    ((handOn_touches _).keeps .alert (by simp)).trans hmix
  rw [← hand, ← tickTimers_alert]
  exact tickClock_alert _

/-- The link of an event: the pair handed over, its timers one event on (R157, R166, R170). -/
theorem sampleEvent_link (s : State) : s.sampleEvent.link = (s.link.takePair s.sampleEvent.mixer.program).tick := by
  have hmix : (stepped s).mixNow.link = s.link := (mixNow_touches (stepped s)).keeps .link (by simp)
  have htick : s.sampleEvent.link = (stepped s).mixNow.handOn.tickTimers.link :=
    (tickClock_touches _).keeps .link (by simp)
  rw [htick, tickTimers_link, handOn_link, hmix, mixNow_mixer, sampleEvent_mixer]

/-- The monitor of an event: the mixer's take, then the pairs it hears while the part runs (R137, R146). -/
theorem sampleEvent_deadAir (s : State) :
    s.sampleEvent.deadAir =
      if s.clock.power = .running then
        (fallbackAfter (stepped s).fallbackTaking s.deadAir).hear s.sampleEvent.mixer.program
          s.sampleEvent.mixer.primary
      else fallbackAfter (stepped s).fallbackTaking s.deadAir := by
  have hmix : (stepped s).mixNow.deadAir = fallbackAfter (stepped s).fallbackTaking s.deadAir := by
    have h : (stepped s).mixNow.deadAir = (mixedState (stepped s)).deadAir :=
      (mixNow_touches_mixed _).keeps .deadAir (by simp)
    exact h.trans (takeInputs_deadAir (stepped s))
  have hclock : (stepped s).mixNow.clock = s.clock := (mixNow_touches (stepped s)).keeps .clock (by simp)
  have htick : s.sampleEvent.deadAir = (stepped s).mixNow.handOn.tickTimers.deadAir :=
    (tickClock_touches _).keeps .deadAir (by simp)
  rw [htick, tickTimers_deadAir, handOn_deadAir, hclock, hmix, mixNow_mixer, sampleEvent_mixer]

/-- PROGRAM_SAMPLE_EVENT is the event made on the state in which what was due has acted, and its publication (R21). -/
theorem exec_programSampleEvent (s v : State) (h : s.clock.power ≠ .reset) (hv : s.caughtUp = v) :
    Sys2Proof.Machine.exec .programSampleEvent s = .next v.sampleEvent.publish := by
  have hm : s.caughtUp.messages = [] := (State.settle_quiet _).1
  have hp : s.programSample = s.caughtUp.sampleEvent.settle := rfl
  show Host.Outcome.next (s.released fun s => s.programSample) = _
  rw [State.released, if_neg h, hp, State.settle_plain _ ((sampleEvent_messages _).trans hm), hv]

end Sys2Proof.ProgramArithmetic

/-!
O16: the program arithmetic of an event (R25 to R32) and its hand-over (R34, R35, R137, R157).
-/
namespace Sys2Proof.ProgramArithmetic

open Sys2Proof.Machine

/-! ## The mixer's arithmetic -/

/-- The clamped output of a sum (R27, R29). -/
theorem outputOf_eq (a : Int) : outputOf a = max (-8388608) (min 8388607 ((a + 16384) / 32768)) := rfl

/-- An output is clamped where the rounded sum leaves the 24-bit range (R28). -/
theorem clamps_iff (a : Int) :
    clamps a = true ↔ (a + 16384) / 32768 < -8388608 ∨ 8388607 < (a + 16384) / 32768 := by
  simp only [clamps, sat24, roundSum, bne_iff_ne, ne_eq]
  omega

/-- The kept sample of a slot, as the statements spell it (R23). -/
theorem input_eq (h : Highway) (slot : Option (Fin 16) → Int)
    (hslot : ∀ x, slot x = match x with
      | none => 0
      | some n => if h.map.rxEnable.getLsbD n = true then h.kept[n].toInt else 0) (x : Option (Fin 16)) :
    h.input x = slot x := by
  rw [hslot]
  cases x <;> rfl

/-- A term is input times gain for a source that is on the air, else 0 (R26). -/
theorem term_eq (on : Bool) (st : SourceState) (x : Int) (g : Nat) (hon : on = decide (st ≠ .off)) :
    term st x g = if on = true then x * (g : Int) else 0 := by
  subst hon
  by_cases h : st = .off <;> simp [term, h]

theorem mix_gain (air : AirMap) (x : PerSource (Int × Int)) (lines : PerLine LineState) (a b : Int) (src : Source) :
    (mix air x lines a b).gains.get src = air.effective src (air.sources.get src) :=
  PerSource.get_mapWith _ _ _

/-- A gain is weighted by K for the decks and FALLBACK, and is L for the rest (R25). -/
theorem effective_eq (air : AirMap) (src : Source) (r : SourceRec) :
    air.effective src r = match src with
      | .deck _ | .fallback => r.level * air.duck / 32768
      | _ => r.level := by
  cases src <;> rfl

/-- The terms of a frame, left and right, as inputs times gains of the sources on the air. -/
structure Terms (air : AirMap) (f : MixFrame) (on : Source → Bool) (left right : Source → Int) : Prop where
  onAir : ∀ src, on src = decide ((air.sources.get src).now ≠ .off)
  leftTerm : ∀ src, left src = if on src = true then (f.inputs.get src).1 * (f.gains.get src : Int) else 0
  rightTerm : ∀ src, right src = if on src = true then (f.inputs.get src).2 * (f.gains.get src : Int) else 0

section
variable {air : AirMap} {x : PerSource (Int × Int)} {lines : PerLine LineState} {a b : Int}
  {on : Source → Bool} {left right : Source → Int}

theorem Terms.left_eq (h : Terms air (mix air x lines a b) on left right) :
    (fun src => term (air.sources.get src).now (x.get src).1 ((mix air x lines a b).gains.get src)) = left :=
  funext fun src => (term_eq _ _ _ _ (h.onAir src)).trans (h.leftTerm src).symm

theorem Terms.right_eq (h : Terms air (mix air x lines a b) on left right) :
    (fun src => term (air.sources.get src).now (x.get src).2 ((mix air x lines a b).gains.get src)) = right :=
  funext fun src => (term_eq _ _ _ _ (h.onAir src)).trans (h.rightTerm src).symm

/-- The exact sums, and the fallback's terms (R26, R29). -/
theorem Terms.sums (h : Terms air (mix air x lines a b) on left right) :
    (mix air x lines a b).sumLeft = (allSources.map left).sum ∧
      (mix air x lines a b).sumRight = (allSources.map right).sum ∧
      (mix air x lines a b).fallbackLeft = left .fallback ∧ (mix air x lines a b).fallbackRight = right .fallback := by
  rw [← h.left_eq, ← h.right_eq]
  exact ⟨rfl, rfl, rfl, rfl⟩

/-- A line's output, by its state and its source's: what `lineFeed` picks from its send, the waiting feed and the
screener's sample (R30, R31). -/
theorem Terms.lineOut (h : Terms air (mix air x lines a b) on left right) (k : Line) :
    (mix air x lines a b).lineOut.get k =
      sample (lineFeed (lines.get k) (air.sources.get (.line k)).now
        (downmix (outputOf ((mix air x lines a b).sumLeft - left (.line k)))
          (outputOf ((mix air x lines a b).sumRight - right (.line k))))
        (downmix (outputOf (mix air x lines a b).sumLeft) (outputOf (mix air x lines a b).sumRight)) a) := by
  rw [← h.left_eq, ← h.right_eq]
  exact PerLine.get_mapWith _ _ _

end

/-- What a line hears, by its state and whether its source is on the air (R31). -/
theorem lineFeed_eq (st : LineState) (src : SourceState) (on : Bool) (send waiting screener : Int)
    (hon : on = decide (src ≠ .off)) :
    lineFeed st src send waiting screener =
      match st with
      | .onAir => if on = true then send else waiting
      | .releasing => if on = true then send else 0
      | .waiting => waiting
      | .screen => screener
      | .idle | .ringing => 0 := by
  subst hon
  by_cases h : src = .off <;> cases st <;> simp [lineFeed, h]

/-! ## The hand-over -/

/-- An event adds the program pair to the assembly of an enabled link, and moves its timers (R34, R157). -/
theorem takePair_tick (l : Link) (p : Pair) :
    (l.takePair p).tick =
      { l with
        lossTimer := (l.takePair p).tick.lossTimer, pause := (l.takePair p).tick.pause
        assembly := if l.enabled = true then l.assembly ++ [p] else l.assembly } := by
  unfold Link.takePair
  cases h : l.enabled <;> simp [Link.tick, h]

/-- A take leaves the window as it is (R137, R146). -/
theorem fallbackAfter_window (b : Bool) (d : DeadAir) :
    (fallbackAfter b d).windowEvents = d.windowEvents ∧ (fallbackAfter b d).peaks = d.peaks := by
  unfold fallbackAfter DeadAir.take
  split
  · split <;> exact ⟨rfl, rfl⟩
  · exact ⟨rfl, rfl⟩

/-- The window of a running part counts the event and takes its peaks (R35, R137). -/
theorem sampleEvent_window (s : State) :
    s.sampleEvent.deadAir.windowEvents =
        (if s.clock.power = .running then s.deadAir.windowEvents + 1 else s.deadAir.windowEvents) ∧
      s.sampleEvent.deadAir.peaks =
        if s.clock.power = .running then s.deadAir.peaks.take s.sampleEvent.mixer.program s.sampleEvent.mixer.primary
        else s.deadAir.peaks := by
  obtain ⟨hw, hp⟩ := fallbackAfter_window (stepped s).fallbackTaking s.deadAir
  rw [sampleEvent_deadAir]
  by_cases h : s.clock.power = .running
  · rw [if_pos h, if_pos h, if_pos h, ← hw, ← hp]
    exact ⟨rfl, rfl⟩
  · rw [if_neg h, if_neg h, if_neg h]
    exact ⟨hw, hp⟩

/-- An event counts CLIP_EVENTS once if an output of the program is clamped (R28). -/
theorem sampleEvent_clipEvents (s : State) :
    s.sampleEvent.counters[Counter.clipEvents.index] =
      if (∃ a ∈ [s.sampleEvent.mixer.sumLeft, s.sampleEvent.mixer.sumRight],
          (a + 16384) / 32768 < -8388608 ∨ 8388607 < (a + 16384) / 32768) then
        min 4294967295 (s.counters[Counter.clipEvents.index] + 1)
      else s.counters[Counter.clipEvents.index] := by
  have ht : tally s.sampleEvent .clipEvents = bump (clipped s.sampleEvent.mixer) (tally s .clipEvents) :=
    sampleEvent_tally s .clipEvents
  have hc : clipped s.sampleEvent.mixer = true ↔ ∃ a ∈ [s.sampleEvent.mixer.sumLeft, s.sampleEvent.mixer.sumRight],
      (a + 16384) / 32768 < -8388608 ∨ 8388607 < (a + 16384) / 32768 := by
    simp [clipped, clamps_iff]
  refine ht.trans ?_
  simp only [← hc]
  rfl

/-! ## The statement -/

/-- Settles O16: the frame of an event is `mixedFrame` of the stepped state, whose arithmetic `Terms` spells out. -/
theorem sampleEventMixesTheProgram : Obligations.SampleEventMixesTheProgram := by
  intro s v out slot hp hv hout hslot
  have hout : out = outputOf := funext fun a => (hout a).trans (outputOf_eq a).symm
  have hin := input_eq v.highway slot hslot
  have hm := sampleEvent_mixer v
  have hair := sampleEvent_air v
  refine ⟨_, exec_programSampleEvent s v hp hv, ?_⟩
  rw [State.publish_mixer, State.publish_air, State.publish_counters, State.publish_deadAir, State.publish_link, hout]
  refine ⟨fun src => ?_, fun on left right hon hl hr => ?_, ?_, ⟨?_, ?_⟩, sampleEvent_clipEvents v,
    sampleEvent_window v, ?_⟩
  · rw [hm, hair, mixedFrame, mix_gain]
    exact effective_eq _ src _
  · have hterms : Terms (stepped v).air (mixedFrame (stepped v)) on left right := by
      rw [hair] at hon
      rw [hm] at hl hr
      exact ⟨hon, hl, hr⟩
    obtain ⟨h1, h2, h3, h4⟩ := hterms.sums
    rw [hm]
    refine ⟨h1, h2, h3, h4, fun k => ?_⟩
    have hk := hterms.lineOut k
    rw [PerLine.get_mapWith, lineFeed_eq _ _ (on (.line k)) _ _ _ (hterms.onAir (.line k))] at hk
    refine hk.trans ?_
    rw [← hin]
    rfl
  · rw [hm]
    show sample v.screenedInput = _
    unfold State.screenedInput
    cases v.lines.screener with
    | none => rfl
    | some k => exact congrArg _ (hin _)
  · rw [hm]
    rfl
  · rw [hm]
    rfl
  · rw [sampleEvent_link]
    exact takePair_tick _ _

end Sys2Proof.ProgramArithmetic

/-!
O17: the inputs of an event (R21 to R24, R71, R127, R129, R146).
-/
namespace Sys2Proof.ProgramArithmetic

open Sys2Proof.Machine

/-! ## Decks -/

/-- The mixer takes from a deck that is PLAYING, or HELD and not held silent (R22). -/
theorem taking_iff (r : DeckRec) :
    r.taking = true ↔ r.state = .playing ∨ (r.state = .held ∧ r.heldSilent = false) := by
  simp [DeckRec.taking]

/-- The input, the record and the starve count of a deck at an event (R22, R71). -/
theorem sampleEvent_deckInput (s : State) (d : DeckId) :
    s.sampleEvent.mixer.inputs.get (.deck d) = taken (s.decks.get d).taking (s.decks.get d).buffer := by
  rw [sampleEvent_mixer]
  exact PerDeck.get_mapWith _ _ _

theorem sampleEvent_deckTally (s : State) (d : DeckId) :
    tally s.sampleEvent (.starve d) =
      bump (starves (s.decks.get d).taking (s.decks.get d).buffer) (tally s (.starve d)) := by
  rw [sampleEvent_tally, decide_eq_false (by simp), Bool.false_and, Bool.or_false]
  rfl

theorem sampleEvent_takingDeck (s : State) (d : DeckId) (r : DeckRec) (hr : s.decks.get d = r) (ht : r.taking = true) :
    match r.buffer with
    | [] => s.sampleEvent.decks.get d = r ∧ s.sampleEvent.mixer.inputs.get (.deck d) = (0, 0) ∧
        tally s.sampleEvent (.starve d) = min 4294967295 (tally s (.starve d) + 1)
    | p :: t => s.sampleEvent.decks.get d =
          { r with buffer := t, current := r.current.map fun c => { c with played := c.played + 1 } } ∧
        s.sampleEvent.mixer.inputs.get (.deck d) = (p.left.toInt, p.right.toInt) ∧
        tally s.sampleEvent (.starve d) = tally s (.starve d) := by
  subst hr
  rw [sampleEvent_deck, sampleEvent_deckInput, sampleEvent_deckTally, ht, deckAfter, if_pos ht, DeckRec.take]
  cases (s.decks.get d).buffer with
  | nil => exact ⟨rfl, rfl, bump_true _⟩
  | cons p t => exact ⟨rfl, rfl, rfl⟩

theorem sampleEvent_restingDeck (s : State) (d : DeckId) (r : DeckRec) (hr : s.decks.get d = r) (ht : r.taking = false) :
    s.sampleEvent.decks.get d = r ∧ s.sampleEvent.mixer.inputs.get (.deck d) = (0, 0) ∧
      tally s.sampleEvent (.starve d) = tally s (.starve d) := by
  subst hr
  rw [sampleEvent_deck, sampleEvent_deckInput, sampleEvent_deckTally, ht, deckAfter, ht]
  exact ⟨rfl, rfl, rfl⟩

/-! ## The alert engine -/

theorem sampleEvent_alertInput (s : State) : s.sampleEvent.mixer.inputs.alert = alertInput s.alert := by
  rw [sampleEvent_mixer]
  rfl

theorem sampleEvent_alertTally (s : State) :
    tally s.sampleEvent .alertStarve =
      bump (starves (s.alert.phase == .message) s.alert.reader.buffer) (tally s .alertStarve) := by
  rw [sampleEvent_tally, decide_eq_false (by simp), Bool.false_and, Bool.or_false]
  rfl

/-- A take leaves the phase and the generators (R127, R129). -/
theorem alertAfter_tone (e : AlertEngine) :
    (alertAfter e).phase = e.phase ∧ (alertAfter e).gen1 = e.gen1 ∧ (alertAfter e).gen2 = e.gen2 := by
  unfold alertAfter AlertEngine.take
  split
  · split <;> exact ⟨rfl, rfl, rfl⟩
  · exact ⟨rfl, rfl, rfl⟩

/-- The generators step in TONE and rest in every other phase (R127). -/
theorem sampleEvent_generators (s : State) :
    s.sampleEvent.alert.gen1 = (if s.alert.phase = .tone then s.alert.gen1.step else s.alert.gen1) ∧
      s.sampleEvent.alert.gen2 = if s.alert.phase = .tone then s.alert.gen2.step else s.alert.gen2 := by
  obtain ⟨hp, h1, h2⟩ := alertAfter_tone s.alert
  rw [sampleEvent_alert, ← hp, ← h1, ← h2]
  exact ⟨rfl, rfl⟩

/-- The reader and the pairs counted of an event are those the take leaves (R129). -/
theorem sampleEvent_reader (s : State) :
    s.sampleEvent.alert.reader = (alertAfter s.alert).reader ∧
      s.sampleEvent.alert.pairsTaken = (alertAfter s.alert).pairsTaken := by
  rw [sampleEvent_alert]
  exact ⟨rfl, rfl⟩

/-- In MESSAGE the mixer takes from the reader (R129). -/
theorem sampleEvent_message (s : State) (h : s.alert.phase = .message) :
    match s.alert.reader.buffer with
    | [] => s.sampleEvent.mixer.inputs.alert = (0, 0) ∧ s.sampleEvent.alert.reader = s.alert.reader ∧
        s.sampleEvent.alert.pairsTaken = s.alert.pairsTaken ∧
        tally s.sampleEvent .alertStarve = min 4294967295 (tally s .alertStarve + 1)
    | p :: t => s.sampleEvent.mixer.inputs.alert = (p.left.toInt, p.right.toInt) ∧
        s.sampleEvent.alert.reader = { s.alert.reader with buffer := t } ∧
        s.sampleEvent.alert.pairsTaken = s.alert.pairsTaken + 1 ∧
        tally s.sampleEvent .alertStarve = tally s .alertStarve := by
  obtain ⟨hr, hp⟩ := sampleEvent_reader s
  rw [hr, hp, sampleEvent_alertInput, sampleEvent_alertTally, alertInput, h, alertAfter, if_pos h, AlertEngine.take]
  cases s.alert.reader.buffer with
  | nil => exact ⟨rfl, rfl, rfl, bump_true _⟩
  | cons p t => exact ⟨rfl, rfl, rfl, rfl⟩

/-- In every other phase the reader rests (R129). -/
theorem sampleEvent_noMessage (s : State) (h : s.alert.phase ≠ .message) :
    s.sampleEvent.alert.reader = s.alert.reader ∧ s.sampleEvent.alert.pairsTaken = s.alert.pairsTaken ∧
      tally s.sampleEvent .alertStarve = tally s .alertStarve := by
  obtain ⟨hr, hp⟩ := sampleEvent_reader s
  rw [hr, hp, sampleEvent_alertTally, beq_false_of_ne h, alertAfter, if_neg h]
  exact ⟨rfl, rfl, rfl⟩

/-- The tone sum is that of the generators' outputs, clamped (R127). -/
theorem toneSum_eq (e : AlertEngine) (sign : ToneState → Int)
    (hsign : ∀ g, sign g = if g.positive = true then (g.settings.amplitude : Int) else -(g.settings.amplitude : Int)) :
    e.toneSum = max (-8388608) (min 8388607 (sign e.gen1 + sign e.gen2)) := by
  rw [hsign, hsign]
  rfl

/-! ## The fallback -/

theorem sampleEvent_fallbackInput (s : State) :
    s.sampleEvent.mixer.inputs.fallback = taken (stepped s).fallbackTaking s.deadAir.buffer := by
  rw [sampleEvent_mixer]
  rfl

theorem sampleEvent_fallbackTally (s : State) :
    tally s.sampleEvent .fallbackStarve =
      bump (starves (stepped s).fallbackTaking s.deadAir.buffer) (tally s .fallbackStarve) := by
  rw [sampleEvent_tally, decide_eq_false (by simp), Bool.false_and, Bool.or_false]
  rfl

/-- The monitor of an event is the one the take leaves, but for its window (R137, R146). -/
theorem sampleEvent_heard (s : State) :
    s.sampleEvent.deadAir = { fallbackAfter (stepped s).fallbackTaking s.deadAir with
      peaks := s.sampleEvent.deadAir.peaks, windowEvents := s.sampleEvent.deadAir.windowEvents } := by
  rw [sampleEvent_deadAir]
  split <;> rfl

/-- A fallback that the mixer takes from gives its oldest pair and plays on round the clip, or starves (R22, R146). -/
theorem sampleEvent_takingFallback (s : State) (heard : DeadAir) (ht : (stepped s).fallbackTaking = true)
    (hh : heard = { s.deadAir with
      peaks := s.sampleEvent.deadAir.peaks, windowEvents := s.sampleEvent.deadAir.windowEvents }) :
    match s.deadAir.buffer with
    | [] => s.sampleEvent.mixer.inputs.fallback = (0, 0) ∧ s.sampleEvent.deadAir = heard ∧
        tally s.sampleEvent .fallbackStarve = min 4294967295 (tally s .fallbackStarve + 1)
    | p :: t => s.sampleEvent.mixer.inputs.fallback = (p.left.toInt, p.right.toInt) ∧
        (∀ b, s.deadAir.binding = some b →
          s.sampleEvent.deadAir =
            { heard with buffer := t, playPosition := (s.deadAir.playPosition + 1) % b.sealed }) ∧
        s.sampleEvent.deadAir.buffer = t ∧ tally s.sampleEvent .fallbackStarve = tally s .fallbackStarve := by
  have hd := sampleEvent_heard s
  rw [ht, fallbackAfter, if_pos rfl, DeadAir.take] at hd
  rw [sampleEvent_fallbackInput, sampleEvent_fallbackTally, ht, hh]
  cases hb : s.deadAir.buffer with
  | nil =>
    rw [hb] at hd
    exact ⟨rfl, hd, bump_true _⟩
  | cons p t =>
    rw [hb] at hd
    refine ⟨rfl, fun b hbind => ?_, congrArg DeadAir.buffer hd, rfl⟩
    have hn : (s.deadAir.binding.map FallbackBinding.sealed).getD 1 = b.sealed := by rw [hbind]; rfl
    rw [← hn]
    exact hd

/-- A fallback that the mixer does not take from gives 0 and rests (R22). -/
theorem sampleEvent_restingFallback (s : State) (heard : DeadAir) (ht : (stepped s).fallbackTaking = false)
    (hh : heard = { s.deadAir with
      peaks := s.sampleEvent.deadAir.peaks, windowEvents := s.sampleEvent.deadAir.windowEvents }) :
    s.sampleEvent.mixer.inputs.fallback = (0, 0) ∧ s.sampleEvent.deadAir = heard ∧
      tally s.sampleEvent .fallbackStarve = tally s .fallbackStarve := by
  have hd := sampleEvent_heard s
  rw [ht] at hd
  rw [sampleEvent_fallbackInput, sampleEvent_fallbackTally, ht, hh]
  exact ⟨rfl, hd, rfl⟩

/-! ## The statement -/

/-- An event moves no counter but those of the readers' starves and CLIP_EVENTS. -/
theorem sampleEvent_otherTally (s : State) (c : Counter)
    (h : c ∉ [.starve .d1, .starve .d2, .alertStarve, .fallbackStarve, .clipEvents]) :
    tally s.sampleEvent c = tally s c := by
  simp only [List.mem_cons, List.not_mem_nil, or_false, not_or] at h
  obtain ⟨h1, h2, h3, h4, h5⟩ := h
  rw [sampleEvent_tally, decide_eq_false h5, Bool.false_and, Bool.or_false]
  cases c with
  | starve d => cases d with
    | d1 => exact absurd rfl h1
    | d2 => exact absurd rfl h2
  | alertStarve => exact absurd rfl h3
  | fallbackStarve => exact absurd rfl h4
  | _ => rfl

/-- Settles O17: each input is `inputsOf` the stepped state, and each reader is left by its own take. -/
theorem sampleEventGathersTheInputs : Obligations.SampleEventGathersTheInputs := by
  intro s v slot hp hv hslot
  have hin := input_eq v.highway slot hslot
  have hm := sampleEvent_mixer v
  have htouch := sampleEvent_touches v
  refine ⟨_, exec_programSampleEvent s v hp hv, ?_⟩
  rw [State.publish_mixer, State.publish_air, State.publish_counters, State.publish_deadAir, State.publish_alert,
    State.publish_decks, State.publish_highway, State.publish_sdram, State.publish_arbiter]
  refine ⟨fun d r hr => ⟨fun ht => ?_, fun ht => ?_⟩, ?_, fun k => ?_, fun tone sign next hsign htone hnext => ?_,
    fun a heard ha hh => ⟨fun ht => ?_, fun ht => ?_⟩, fun c hc => sampleEvent_otherTally v c hc,
    htouch.keeps .highway (by simp), htouch.keeps .sdram (by simp), htouch.keeps .arbiter (by simp), fun q => ?_⟩
  · exact sampleEvent_takingDeck v d r hr ((taking_iff r).mpr ht)
  · exact sampleEvent_restingDeck v d r hr (Bool.eq_false_iff.mpr fun h => ht ((taking_iff r).mp h))
  · rw [hm, ← hin]
    rfl
  · rw [hm, ← hin]
    exact PerLine.get_mapWith _ _ _
  · have hstep : next = ToneState.step := funext hnext
    obtain ⟨hg1, hg2⟩ := sampleEvent_generators v
    rw [hg1, hg2, hstep]
    refine ⟨fun h => ⟨?_, if_pos h, if_pos h⟩, fun h => ⟨if_neg h, if_neg h⟩, sampleEvent_message v,
      sampleEvent_noMessage v, fun h1 h2 => ?_⟩
    · rw [sampleEvent_alertInput, htone, ← toneSum_eq v.alert sign hsign, alertInput, h]
    · rw [sampleEvent_alertInput, alertInput]
      cases h : v.alert.phase with
      | tone => exact absurd h h1
      | message => exact absurd h h2
      | _ => rfl
  · subst ha
    rw [sampleEvent_air] at ht
    exact sampleEvent_takingFallback v heard ((fallbackTaking_iff (stepped v)).mpr ht) hh
  · subst ha
    rw [sampleEvent_air] at ht
    exact sampleEvent_restingFallback v heard
      (Bool.eq_false_iff.mpr fun h => ht ((fallbackTaking_iff (stepped v)).mp h)) hh
  · rw [State.publish_bare, htouch.ports]

end Sys2Proof.ProgramArithmetic

/-!
O9: what every step keeps of the decks' cues and of the counters (R64, R197).
-/
namespace Sys2Proof.DecksAndCueChains

open Sys2Proof.Machine

/-- A move keeps the counters in range (R197). -/
theorem move_keeps_countersInRange {P : Prop} {s t : State} (h : Move P s t) (hs : s.countersInRange) :
    t.countersInRange := by
  cases h with
  | counters cs h => exact h hs
  | rest _ _ _ _ _ _ hc =>
    unfold State.countersInRange at *
    rwa [hc]
  | _ => exact hs

/-- The assertion of RESET_N leaves no cue on a deck. -/
theorem assertReset_cuesPlaced (s : State) : s.assertReset.cuesPlaced := by
  intro d
  cases d <;> exact ⟨nofun, nofun, nofun⟩

/-- The assertion of RESET_N puts every counter at 0. -/
theorem assertReset_countersInRange (s : State) : s.assertReset.countersInRange := by
  intro c
  have h0 : s.assertReset.counters = Vector.replicate 29 0 := rfl
  simp [h0]

/-- What a step does: nothing, an assertion of RESET_N, or moves from the state with one command less in the queue. -/
theorem step_cases {s t : State} (h : Sys2Proof.Machine.step s = .next t) :
    t = s ∨ ∃ rest, t = ({ s with pending := rest } : State).assertReset ∨
      ({ s with pending := rest } : State).moves s.cuesPlaced t := by
  unfold Sys2Proof.Machine.step at h
  split at h
  · injection h with h
    exact .inl h.symm
  · next c rest _ => exact .inr ⟨rest, exec_moves h⟩

/-- Settles O9: every command is an assertion of RESET_N or a chain of moves, and both keep the two invariants. -/
theorem stepKeepsCuesPlacedAndCountersInRange : Obligations.StepKeepsCuesPlacedAndCountersInRange := by
  refine ⟨fun s t hs h => ?_, fun s t hs h => ?_⟩
  · obtain rfl | ⟨rest, rfl | hm⟩ := step_cases h
    · exact hs
    · exact assertReset_cuesPlaced _
    · exact hm.cuesPlaced (fun _ => hs) hs
  · obtain rfl | ⟨rest, rfl | hm⟩ := step_cases h
    · exact hs
    · exact assertReset_countersInRange _
    · exact hm.keep State.countersInRange (fun _ _ => move_keeps_countersInRange) hs

end Sys2Proof.DecksAndCueChains

/-!
What an act on a deck may leave of everything it does not name, and the ends of the steps that make it: their frames (R188)
and the answers in the mailbox pages (R183, R184).
-/
namespace Sys2Proof.DecksAndCueChains

open Sys2Proof.Machine

/-! ## The reach of an act -/

/-- Every part but those named is as it was, the ports are as they were but for their read-aheads, exchange memory is as it
was but for the words named, and every rewrite asked for is of a record that shows one of the parts or lies in the words. -/
structure Reaches (ps : List Part) (w : Nat → Prop) (s v : State) : Prop where
  keeps : ∀ x, x ∉ ps → s.keeps v x
  ports : s.samePorts v
  xm : s.sameXmBut v w
  forced : ∀ r ∈ v.forced, r ∈ s.forced ∨ (∃ x ∈ r.parts, x ∈ ps) ∨ ∀ a, inRecord r a → w a

theorem Reaches.refl (ps : List Part) (w : Nat → Prop) (s : State) : Reaches ps w s s :=
  ⟨fun x _ => by cases x <;> rfl, fun _ => rfl, fun _ _ => rfl, fun _ => .inl⟩

variable {ps qs : List Part} {w w' : Nat → Prop} {s t u v : State}

theorem Reaches.trans (h : Reaches ps w s t) (g : Reaches ps w t u) : Reaches ps w s u where
  keeps x hx := State.keeps_trans (h.keeps x hx) (g.keeps x hx)
  ports q := (g.ports q).trans (h.ports q)
  xm a ha := (g.xm a ha).trans (h.xm a ha)
  forced r hr := (g.forced r hr).elim (h.forced r) .inr

theorem Reaches.mono (h : Reaches ps w s t) (hp : ∀ x ∈ ps, x ∈ qs) (hw : ∀ a, w a → w' a) : Reaches qs w' s t where
  keeps x hx := h.keeps x fun hm => hx (hp x hm)
  ports := h.ports
  xm a ha := h.xm a fun hm => ha (hw a hm)
  forced r hr := (h.forced r hr).imp id
    (Or.imp (fun ⟨x, h1, h2⟩ => ⟨x, h1, hp x h2⟩) fun h1 a ha => hw a (h1 a ha))

/-- An update of the parts named that leaves exchange memory and the ports alone. -/
theorem Reaches.touches (h : Reaches ps w s t) {f : State} (g : State.Touches qs t f) (hp : ∀ x ∈ qs, x ∈ ps) :
    Reaches ps w s f :=
  h.trans
    ⟨fun x hx => g.keeps x fun hm => hx (hp x hm), fun q => by rw [g.ports], fun a _ => by rw [g.xm],
      fun r hr => (g.forced r hr).imp id fun ⟨x, h1, h2⟩ => .inl ⟨x, h1, hp x h2⟩⟩

theorem Reaches.deck (h : Reaches ps w s t) (hp : Part.decks ∈ ps) (d : DeckId) (f : DeckRec → DeckRec) :
    Reaches ps w s (t.onDeck d f) :=
  h.touches (t.onDeck_touches d f) (by simpa using hp)

theorem Reaches.count (h : Reaches ps w s t) (hp : Part.counters ∈ ps) (c : Counter) : Reaches ps w s (t.count c) :=
  h.touches (t.count_touches c) (by simpa using hp)

theorem Reaches.tell (h : Reaches ps w s t) (ms : List Message) : Reaches ps w s (t.tell ms) :=
  h.touches (t.touches_tell ms) (by simp)

theorem Reaches.messages (h : Reaches ps w s t) (ms : List Message) : Reaches ps w s { t with messages := ms } :=
  h.touches (t.touches_messages ms) (by simp)

theorem Reaches.withAir (h : Reaches ps w s t) (hp : Part.air ∈ ps) (a : AirMap) : Reaches ps w s { t with air := a } :=
  h.touches (t.touches_air a) (by simpa using hp)

theorem Reaches.endGrant (h : Reaches ps w s t) (hp : Part.arbiter ∈ ps) (q : Requester) (b : Bool) :
    Reaches ps w s (t.endGrantOf q b) :=
  h.touches (t.endGrantOf_touches q b) (by simpa using hp)

theorem Reaches.enqueue (h : Reaches ps w s t) (hp : Part.clips ∈ ps) (r : ClipRequest) : Reaches ps w s (t.enqueue r) :=
  h.touches (t.touches_clips _) (by simpa using hp)

/-- Rewrites asked for of records within the words named. -/
theorem Reaches.force (h : Reaches ps w s t) (rs : List RecordId) (hr : ∀ r ∈ rs, ∀ a, inRecord r a → w a) :
    Reaches ps w s (t.force rs) :=
  h.trans ⟨fun x _ => by cases x <;> rfl, fun _ => rfl, fun _ _ => rfl, fun r hm => by
    rw [State.force_forced, List.mem_append] at hm
    exact hm.imp id fun hf => .inr (hr r (List.mem_of_mem_filter hf))⟩

theorem Reaches.clip (h : Reaches ps w s t) (hp : Part.clips ∈ ps) (i : Fin 128) (f : ClipEntry → ClipEntry) :
    Reaches ps w s (t.onClip i f) :=
  h.touches ((t.touches_clips _).trans (State.touches_force _ _ _ fun r hr => by
    split at hr
    · simp at hr
    · rw [List.mem_singleton] at hr
      exact ⟨.clips, by simp [hr, RecordId.parts], List.mem_singleton_self _⟩)) (by simpa using hp)

/-- A write of exchange memory within the words named. -/
theorem Reaches.onXm (h : Reaches ps w s t) (f : Mem 16 → Mem 16) (hf : ∀ a, ¬ w a → (f t.xm).read a = t.xm.read a) :
    Reaches ps w s (t.onXm f) :=
  h.trans ⟨fun x _ => by cases x <;> rfl, fun q => by cases q <;> rfl, hf, fun _ => .inl⟩

theorem not_completionWord {a b : Nat} (h : ¬ completionWord a b) : b < a + 11 ∨ a + 11 + 4 ≤ b := by
  unfold completionWord at h
  omega

/-- The completion fields of a record written leave every other word. -/
theorem writeCompletion_read (s : State) (a : Nat) (st : CueStatus) (n : Nat) (f : Option CueFault) (b : Nat)
    (h : ¬ completionWord a b) : (s.writeCompletion a st n f).xm.read b = s.xm.read b := by
  have hb := not_completionWord h
  unfold State.writeCompletion
  rw [State.xmWriteBlock_xm, Mem.read_writeBlock_other]
  simpa [words2] using hb

theorem Reaches.completion (h : Reaches ps w s t) {a : Nat} (hw : ∀ b, completionWord a b → w b) (st : CueStatus)
    (n : Nat) (f : Option CueFault) : Reaches ps w s (t.writeCompletion a st n f) :=
  h.onXm (fun m => m.writeBlock (a + 11) _) fun b hb => writeCompletion_read t a st n f b fun hc => hb (hw b hc)

theorem Reaches.raiseAll (h : Reaches ps w s t) (hw : ∀ a, eventWord a → w a) (e : Event) :
    Reaches ps w s (t.raiseAll e) :=
  h.trans ⟨fun x _ => by cases x <;> rfl, fun q => by simp, fun a ha =>
    t.raiseAll_read e a fun p hp => ha (hw a ⟨p, hp⟩), fun _ => .inl⟩

/-- Either of two branches. -/
theorem Reaches.ite {c : Prop} [Decidable c] (h1 : Reaches ps w s t) (h2 : Reaches ps w s u) :
    Reaches ps w s (if c then t else u) := by
  split
  · exact h1
  · exact h2

/-! ## Completion fields and events -/

/-- The completion fields of a record as they are written (R63). -/
theorem writeCompletion_completion (s : State) (a : Nat) (st : CueStatus) (n : Nat) (f : Option CueFault) :
    (s.writeCompletion a st n f).completion a st n f := by
  have hhigh : word (n / 65536 % 65536) = word (n / 65536) := by
    apply BitVec.eq_of_toNat_eq
    simp [word]
  have hlow : word (n % 65536) = word n := by
    apply BitVec.eq_of_toNat_eq
    simp [word]
  refine ⟨?_, ?_, ?_, ?_⟩ <;>
    simp [State.writeCompletion, words2, Mem.read_writeBlock, hhigh, hlow]

/-- Completion fields stay where their words do. -/
theorem completion_of_same {a : Nat} {st : CueStatus} {n : Nat} {f : Option CueFault} (h : s.completion a st n f)
    (hx : ∀ b, completionWord a b → t.xm.read b = s.xm.read b) : t.completion a st n f := by
  obtain ⟨h1, h2, h3, h4⟩ := h
  refine ⟨?_, ?_, ?_, ?_⟩
  · rw [hx _ ⟨by omega, by omega⟩, h1]
  · rw [hx _ ⟨by omega, by omega⟩, h2]
  · rw [hx _ ⟨by omega, by omega⟩, h3]
  · rw [hx _ ⟨by omega, by omega⟩, h4]

/-- The completion fields of a record in the cue area lie above the mailbox pages' words and below port B's region. -/
theorem completionWord_bounds {a b : Nat} (ha : inCueArea a) (hb : completionWord a b) : 75 ≤ b ∧ b ≤ 4094 := by
  unfold inCueArea at ha
  unfold completionWord at hb
  omega

theorem not_eventWord_of_bounds {b : Nat} (h : 52 ≤ b ∧ b ≤ 4095) : ¬ eventWord b := by
  rintro ⟨p, hp⟩
  cases p <;> simp only [base] at hp <;> omega

theorem completionWord_not_event {a b : Nat} (ha : inCueArea a) (hb : completionWord a b) : ¬ eventWord b := by
  have := completionWord_bounds ha hb
  exact not_eventWord_of_bounds (by omega)

theorem completionWord_not_ownPage {a b : Nat} (ha : inCueArea a) (hb : completionWord a b) (p : Port) :
    ¬ ownPage p b := by
  have := completionWord_bounds ha hb
  unfold ownPage
  cases p <;> simp only [base] <;> omega

/-- No completion field of a record in the cue area is a word of a mailbox page. -/
theorem not_completionWord_page {a : Nat} (ha : inCueArea a) (p : Port) {n : Nat} (hn : n < 64) :
    ¬ completionWord a (base p + n) := fun hb => by
  have := completionWord_bounds ha hb
  cases p <;> simp only [base] at this <;> omega

theorem apart_words {a b x : Nat} (h : apart a b) (hx : completionWord a x) : ¬ completionWord b x := by
  unfold apart at h
  unfold completionWord at *
  omega

/-- An event stays set where its word does. -/
theorem hasEvent_of_same {p : Port} {e : Event} (h : s.hasEvent p e) (hx : t.xm.read (base p + 51) = s.xm.read (base p + 51)) :
    t.hasEvent p e := by
  unfold State.hasEvent State.pageWord at *
  rwa [hx]

/-- An event stays set where a further one is raised. -/
theorem hasEvent_raiseAll {p : Port} {e : Event} (h : s.hasEvent p e) (e' : Event) : (s.raiseAll e').hasEvent p e := by
  unfold State.hasEvent at *
  rw [State.raiseAll_event, BitVec.getLsbD_or, h, Bool.true_or]

/-! ## The ends of steps -/

/-- Publication leaves every word below the status region, and so completion fields and events. -/
theorem completion_publish {a : Nat} {st : CueStatus} {n : Nat} {f : Option CueFault} (ha : inCueArea a)
    (h : s.completion a st n f) : s.publish.completion a st n f :=
  completion_of_same h fun b hb => s.publish_read_low b (by
    have := completionWord_bounds ha hb
    rw [statusBase_eq]
    omega)

theorem hasEvent_publish {p : Port} {e : Event} (h : s.hasEvent p e) : s.publish.hasEvent p e := by
  unfold State.hasEvent at *
  rwa [s.publish_page p 51 (by omega)]

/-- The frame of a step that publishes what an act left (R188). -/
theorem Reaches.frame (h : Reaches ps w s v) (hs : s.forced = []) : s.frame v.publish ps w := by
  refine ⟨fun x hx => State.keeps_trans (h.keeps x hx) (by cases x <;> simp [State.keeps]), fun a ha => ?_⟩
  simp only [not_or] at ha
  rw [State.publish_read_other, h.xm a ha.1]
  intro r hr hin
  rcases h.forced r hr with hr | ⟨x, hx, hp⟩ | hr
  · simp [hs] at hr
  · exact ha.2 ⟨r, hin, x, hx, hp⟩
  · exact ha.1 (hr a hin)

theorem Reaches.samePorts_publish (h : Reaches ps w s v) : s.samePorts v.publish := fun q => by
  rw [State.publish_bare, h.ports]

theorem Reaches.within (h : Reaches ps w s v) (hs : s.forced = []) : s.within v.publish ps w :=
  ⟨h.samePorts_publish, h.frame hs⟩

/-- A step that publishes what an act left whose every rewrite lies in the words named. -/
theorem Reaches.changedTo (h : Reaches ps w s v) (b : State) (hb : v.blocks = b.blocks)
    (hf : v.forced = []) : s.changedTo v.publish b w := by
  refine ⟨by rw [State.publish_blocks, hb], h.samePorts_publish, fun a ha => ?_⟩
  rw [State.publish_read_other v a (by simp [hf]), h.xm a ha]

end Sys2Proof.DecksAndCueChains

/-!
Cue records as a deck reads them, and the walks from a link (R64, R65): what a good record and a faulty one leave, and that
what is left of one record is read of another.
-/
namespace Sys2Proof.DecksAndCueChains

open Sys2Proof.Machine

/-! ## Deck records -/

/-- One deck's record put in the place of another of the same deck. -/
theorem perDeck_set_set {α : Type} (t : PerDeck α) (d : DeckId) (x y : α) : (t.set d x).set d y = t.set d y := by
  cases d <;> rfl

theorem perDeck_set_self {α : Type} (t : PerDeck α) (d : DeckId) (x : α) (h : t.get d = x) : t.set d x = t := by
  subst h
  cases d <;> rfl

theorem other_ne (d : DeckId) : d.other ≠ d := by cases d <;> decide

@[simp] theorem get_set_other {α : Type} (t : PerDeck α) (d : DeckId) (x : α) :
    (t.set d x).get d.other = t.get d.other := PerDeck.get_set_other _ _ (other_ne d)

@[simp] theorem get_set_of_other {α : Type} (t : PerDeck α) (d : DeckId) (x : α) :
    (t.set d.other x).get d = t.get d := PerDeck.get_set_other _ _ (other_ne d).symm

/-- The decks once one record has changed, as the record it becomes. -/
theorem onDeck_decks_of (s : State) (d : DeckId) (f : DeckRec → DeckRec) (r : DeckRec) (h : f (s.decks.get d) = r) :
    (s.onDeck d f).decks = s.decks.set d r := by
  rw [State.onDeck_decks, PerDeck.modify, h]

@[simp] theorem loadPending_messages (s : State) (d : DeckId) (c : Cue) : (s.loadPending d c).messages = s.messages := rfl
@[simp] theorem loadPending_clips (s : State) (d : DeckId) (c : Cue) : (s.loadPending d c).clips = s.clips := rfl
@[simp] theorem loadPending_xm (s : State) (d : DeckId) (c : Cue) : (s.loadPending d c).xm = s.xm := rfl

/-- The record a deck loads with play pending (R73). -/
theorem loadPending_decks (s : State) (d : DeckId) (c : Cue) :
    (s.loadPending d c).decks = s.decks.set d
      { s.decks.get d with
        state := .loading, current := some c, next := none, playPending := true, lookahead := .notMade
        resumeAddress := none } := rfl

theorem onDeck_blocks (s : State) (d : DeckId) (f : DeckRec → DeckRec) :
    (s.onDeck d f).blocks = { s.blocks with decks := s.decks.set d (f (s.decks.get d)) } := rfl
theorem enqueue_blocks (s : State) (r : ClipRequest) :
    (s.enqueue r).blocks = { s.blocks with clips := { s.clips with waiting := s.clips.waiting ++ [r] } } := rfl

/-- A changed deck record whose published values stay asks for no rewrite (R86). -/
theorem onDeck_forced_same (s : State) (d : DeckId) (f : DeckRec → DeckRec)
    (h : deckKey (f (s.decks.get d)) = deckKey (s.decks.get d)) : (s.onDeck d f).forced = s.forced := by
  simp [State.onDeck, State.rewriteIf, State.force, h]

/-! ## A record's words -/

/-- A word of a record's copy is the word of exchange memory it was read from (R64). -/
theorem recWord_readBlock (m : Mem 16) (a : Nat) {n : Nat} (h : n < 16) :
    recWord (m.readBlock a 16) n = (m.read (a + n)).toNat := by
  rw [recWord, Mem.readBlock_getD _ _ _ _ h]

/-- A long value of a record's copy joins the two words it was read from (R64). -/
theorem recLong_readBlock (m : Mem 16) (a : Nat) {n : Nat} (h : n < 15) :
    recLong (m.readBlock a 16) n = (m.read (a + n)).toNat * 65536 + (m.read (a + (n + 1))).toNat := by
  rw [recLong, recWord_readBlock _ _ (by omega), recWord_readBlock _ _ (by omega)]

/-- A cue copy takes the first eleven words of a record (R64). -/
theorem cueOf_congr (a : Nat) {ws vs : List Word} (i : Fin 128) (first pages sealed : Nat)
    (h : ∀ n ≤ 10, ws.getD n 0 = vs.getD n 0) : cueOf a ws i first pages sealed = cueOf a vs i first pages sealed := by
  have hw : ∀ n ≤ 10, recWord ws n = recWord vs n := fun n hn => by rw [recWord, recWord, h n hn]
  have hl : ∀ n ≤ 9, recLong ws n = recLong vs n := fun n hn => by
    rw [recLong, recLong, hw n (by omega), hw (n + 1) (by omega)]
  have hf : ∀ n ≤ 10, recFade ws n = recFade vs n := fun n hn => by rw [recFade, recFade, hw n hn]
  unfold cueOf
  rw [h 1 (by omega), hl 3 (by omega), hl 5 (by omega), hw 7 (by omega), hf 8 (by omega), hf 9 (by omega),
    hf 10 (by omega)]

/-- The clip a record names (R64). -/
theorem clipOf_val (i : Fin 128) : clipOf i.val = some i := by simp [clipOf, i.isLt]

theorem clipOf_none {n : Nat} (h : 128 ≤ n) : clipOf n = none := by
  unfold clipOf
  rw [dif_neg (by omega)]

theorem not_outside {a : Nat} (h : inCueArea a) : ¬ (a < 64 ∨ 4080 < a) := by
  unfold inCueArea at h
  omega

/-! ## A good record -/

/-- The cue a good record of a clip gives (R62, R64). -/
def foundCue (s : State) (a : Nat) (i : Fin 128) : Cue :=
  cueOf a (s.xm.readBlock a 16) i (s.clip i).first (s.clip i).pages (s.clip i).sealed

/-- What reading a good record leaves: its clip locked, QUEUED written, the fault streak 0 (R64). -/
def goodRead (s : State) (d : DeckId) (a : Nat) (i : Fin 128) : State :=
  ((s.onClip i fun e => { e with locks := e.locks + 1 }).writeCompletion a .queued 0 none).onDeck d fun r =>
    { r with faultStreak := 0 }

theorem goodRead_clips (s : State) (d : DeckId) (a : Nat) (i : Fin 128) : (goodRead s d a i).clips = s.lockTaken i := rfl

theorem goodRead_decks (s : State) (d : DeckId) (a : Nat) (i : Fin 128) :
    (goodRead s d a i).decks = s.decks.set d { s.decks.get d with faultStreak := 0 } := rfl

@[simp] theorem goodRead_messages (s : State) (d : DeckId) (a : Nat) (i : Fin 128) :
    (goodRead s d a i).messages = s.messages := rfl

theorem goodRead_completion (s : State) (d : DeckId) (a : Nat) (i : Fin 128) :
    (goodRead s d a i).completion a .queued 0 none :=
  completion_of_same (writeCompletion_completion (s.onClip i _) a .queued 0 none) fun _ _ => rfl

theorem goodRead_reaches (s : State) (d : DeckId) (a : Nat) (i : Fin 128) :
    Reaches [.decks, .clips] (completionWord a) s (goodRead s d a i) :=
  (((Reaches.refl _ _ s).clip (by simp) i _).completion (fun _ h => h) _ _ _).deck (by simp) d _

/-- A good record read (R64). -/
theorem readRecord_good {s : State} {a : Nat} {i : Fin 128} (h : s.goodRecord a i) (d : DeckId) (ctx : ReadContext) :
    s.readRecord d a ctx = (goodRead s d a i, .good (foundCue s a i)) := by
  obtain ⟨ha, hfree, hclip, hready, hstart⟩ := h
  have hlong : recLong (s.xm.readBlock a 16) 3 < (s.clip i).sealed := by
    rw [recLong_readBlock _ _ (by omega)]
    exact hstart
  have hmust : s.mustWait = false := hfree
  simp only [State.readRecord, if_neg (not_outside ha), recWord_readBlock s.xm a (show 2 < 16 by omega), hclip,
    clipOf_val, hmust, Bool.false_eq_true, if_false, State.lockedRead, State.lockNow, if_pos hready, if_pos hlong]
  rfl

/-- A record read while requests wait behind a page search: the deck is held with it (R64). -/
theorem readRecord_waits {s : State} {a : Nat} (ha : inCueArea a) (hc : (s.xm.read (a + 2)).toNat < 128)
    (hw : ¬ s.storeFree) (d : DeckId) (ctx : ReadContext) :
    s.readRecord d a ctx =
      ((s.onDeck d fun r => { r with reading := some ⟨a, s.xm.readBlock a 16, ctx⟩ }).enqueue (.deckRead d), .waits) := by
  have hclip : clipOf (s.xm.read (a + 2)).toNat = some ⟨_, hc⟩ := by simp [clipOf, hc]
  have hmust : s.mustWait = true := by simpa [State.storeFree] using hw
  simp only [State.readRecord, if_neg (not_outside ha), recWord_readBlock s.xm a (show 2 < 16 by omega), hclip, hmust,
    if_true]

/-! ## A faulty record -/

/-- The words a faulty record's fault writes: the event words, its completion fields where it has a record, and the clip
record of an OUT_OF_RANGE one (R41, R64). -/
def faultWord (s : State) (a : Nat) (f : CueFault) (b : Nat) : Prop :=
  eventWord b ∨ (f ≠ .badAddress ∧ completionWord a b) ∨ s.lockedWord a f b

/-- What a faulty record read by a deck leaves (R64): the fault marked, raised and counted, and the fault streak one more. -/
structure Faulted (d : DeckId) (a : Nat) (f : CueFault) (s u : State) : Prop where
  decks : u.decks = s.decks.set d
    { s.decks.get d with faultStreak := (s.decks.get d).faultStreak + 1, lastFault := some (a, f) }
  clips : u.clips = s.clips
  counters : u.counters = (s.count .cueFault).counters
  messages : u.messages = s.messages
  completion : f ≠ .badAddress → u.completion a .fault 0 (some f)
  event : ∀ p, u.hasEvent p .cueFault
  reaches : Reaches [.decks, .counters] (faultWord s a f) s u

/-- A deck's fault streak one more (R65). -/
def streaked (s : State) (d : DeckId) : State := s.onDeck d fun r => { r with faultStreak := r.faultStreak + 1 }

theorem faultyRecord_placed {s : State} {a : Nat} {f : CueFault} (h : s.faultyRecord a f) (hf : f ≠ .badAddress) :
    inCueArea a := by
  rcases h with ⟨_, rfl⟩ | ⟨ha, _⟩ | ⟨_, ha, _⟩
  · exact absurd rfl hf
  · exact ha
  · exact ha

/-- What marking a fault leaves before it is raised and counted: the fault in the record, where there is one (R64). -/
theorem marked_record (s : State) (a : Nat) (f : CueFault) (rs : List RecordId)
    (hrs : ∀ r ∈ rs, ∀ b, inRecord r b → s.lockedWord a f b) :
    ∃ m : State, m = (if f = .badAddress then s.force rs else (s.force rs).writeCompletion a .fault 0 (some f)) ∧
      m.decks = s.decks ∧ m.clips = s.clips ∧ m.counters = s.counters ∧ m.messages = s.messages ∧
      Reaches [.decks, .counters] (faultWord s a f) s m ∧
      (f ≠ .badAddress → m.completion a .fault 0 (some f)) := by
  have hforce : Reaches [.decks, .counters] (faultWord s a f) s (s.force rs) :=
    (Reaches.refl _ _ s).force rs fun r hr b hb => .inr (.inr (hrs r hr b hb))
  by_cases hf : f = .badAddress
  · exact ⟨_, (if_pos hf).symm, rfl, rfl, rfl, rfl, hforce, fun h => absurd hf h⟩
  · exact ⟨_, (if_neg hf).symm, rfl, rfl, rfl, rfl,
      hforce.completion (fun _ h => .inr (.inl ⟨hf, h⟩)) _ _ _, fun _ => writeCompletion_completion _ _ _ _ _⟩

/-- The fault marked after rewrites that its own words allow. -/
theorem faulted_of_markFault (s : State) (d : DeckId) (a : Nat) (f : CueFault) (rs : List RecordId)
    (hrs : ∀ r ∈ rs, ∀ b, inRecord r b → s.lockedWord a f b) (ha : f ≠ .badAddress → inCueArea a) :
    Faulted d a f s (streaked ((s.force rs).markFault d a f) d) := by
  obtain ⟨m, hm, hdecks, hclips, hcounters, hmessages, hreach, hcompletion⟩ := marked_record s a f rs hrs
  have hmark : streaked ((s.force rs).markFault d a f) d =
      streaked (((m.raiseAll .cueFault).count .cueFault).onDeck d fun r => { r with lastFault := some (a, f) }) d := by
    rw [hm]
    rfl
  rw [hmark]
  have hx : ∀ b, (streaked (((m.raiseAll .cueFault).count .cueFault).onDeck d fun r =>
      { r with lastFault := some (a, f) }) d).xm.read b = (m.raiseAll .cueFault).xm.read b := fun _ => rfl
  have hcount : (m.count .cueFault).counters = (s.count .cueFault).counters := by
    rw [State.count_counters, State.count_counters, hcounters]
  refine ⟨by simp [streaked, PerDeck.modify, perDeck_set_set, hdecks], hclips, hcount, hmessages, fun hf => ?_,
    fun p => hasEvent_of_same (m.raiseAll_has .cueFault p) (hx _), ?_⟩
  · refine completion_of_same (hcompletion hf) fun b hb => ?_
    rw [hx, State.raiseAll_read _ _ _ fun p hp => completionWord_not_event (ha hf) hb ⟨p, hp⟩]
  · exact (((hreach.raiseAll (fun _ h => .inl h) _).count (by simp) _).deck (by simp) d _).deck (by simp) d _

/-- A clip locked and released in one act stands as it was, its record rewritten (R41, R52, R53). -/
theorem lock_unlock (s : State) (i : Fin 128) (h : (s.clip i).state = .ready) :
    ∃ rs : List RecordId, (∀ r ∈ rs, r = .clip i) ∧
      (s.onClip i fun e => { e with locks := e.locks + 1 }).unlockNow i = s.force rs := by
  have he : (s.onClip i fun e => { e with locks := e.locks + 1 }).clip i =
      { s.clip i with locks := (s.clip i).locks + 1 } := by
    simp [State.clip]
  have hunlock : (s.onClip i fun e => { e with locks := e.locks + 1 }).unlockNow i =
      (s.onClip i fun e => { e with locks := e.locks + 1 }).onClip i fun e => { e with locks := e.locks - 1 } := by
    simp [State.unlockNow, he, h]
  refine ⟨[.clip i, .clip i], by simp, ?_⟩
  have hne : ({ s.clip i with locks := (s.clip i).locks + 1 } : ClipEntry) ≠ s.clip i := fun hc => by
    have := congrArg ClipEntry.locks hc
    simp at this
  have hne' : ({ s.clip i with locks := (s.clip i).locks + 1 - 1 } : ClipEntry) ≠
      { s.clip i with locks := (s.clip i).locks + 1 } := fun hc => by
    have := congrArg ClipEntry.locks hc
    simp at this
  have hset : s.clips.table.set i s.clips.table[i] = s.clips.table := Vector.set_getElem_self i.isLt
  rw [hunlock, State.onClip, he, if_neg hne']
  simp only [State.onClip, if_neg hne, State.force, State.onClips, RecordId.early]
  simp [Vector.set_set]
  exact congrArg (fun t => ({ s.clips with table := t } : ClipStore)) hset

/-- A faulty record read (R64). -/
theorem readRecord_faulty {s : State} {a : Nat} {f : CueFault} (h : s.faultyRecord a f) (d : DeckId)
    (ctx : ReadContext) :
    ∃ rs : List RecordId, (∀ r ∈ rs, ∀ b, inRecord r b → s.lockedWord a f b) ∧
      s.readRecord d a ctx = ((s.force rs).markFault d a f, .faulty f) := by
  have hnil : s.force [] = s := by simp [State.force]
  rcases h with ⟨ha, rfl⟩ | ⟨ha, hc, rfl⟩ | ⟨i, ha, hfree, hclip, hcase⟩
  · refine ⟨[], by simp, ?_⟩
    have hout : a < 64 ∨ 4080 < a := by
      unfold inCueArea at ha
      omega
    rw [State.readRecord, if_pos hout, hnil]
  · refine ⟨[], by simp, ?_⟩
    simp only [State.readRecord, if_neg (not_outside ha), recWord_readBlock s.xm a (show 2 < 16 by omega),
      clipOf_none hc, hnil]
  · have hmust : s.mustWait = false := hfree
    have hread : s.readRecord d a ctx = s.lockedRead d a (s.xm.readBlock a 16) i := by
      simp only [State.readRecord, if_neg (not_outside ha), recWord_readBlock s.xm a (show 2 < 16 by omega), hclip,
        clipOf_val, hmust, Bool.false_eq_true, if_false]
    rcases hcase with ⟨hstate, rfl⟩ | ⟨hready, hstart, rfl⟩
    · exact ⟨[], by simp, by simp only [hread, State.lockedRead, State.lockNow, if_neg hstate, hnil]⟩
    · obtain ⟨rs, hrs, hforce⟩ := lock_unlock s i hready
      refine ⟨rs, fun r hr b hb => ⟨i, rfl, hclip, hrs r hr ▸ hb⟩, ?_⟩
      have hlong : ¬ recLong (s.xm.readBlock a 16) 3 < (s.clip i).sealed := by
        rw [recLong_readBlock _ _ (by omega)]
        exact Nat.not_lt.mpr hstart
      simp only [hread, State.lockedRead, State.lockNow, if_pos hready, if_neg hlong, hforce]

/-! ## Walks (R65) -/

theorem walk_none (n : Nat) (s : State) (d : DeckId) (ctx : ReadContext) :
    State.walk (n + 1) s d 0xFFFF ctx = (s, .none) := by
  simp [State.walk, Config.noAddress]

theorem inCueArea_link {a : Nat} (h : inCueArea a) : a ≠ Config.noAddress := by
  unfold inCueArea at h
  unfold Config.noAddress
  omega

theorem walk_good {s : State} {a : Nat} {i : Fin 128} (h : s.goodRecord a i) (n : Nat) (d : DeckId) (ctx : ReadContext) :
    State.walk (n + 1) s d a ctx = (goodRead s d a i, .found (foundCue s a i)) := by
  rw [State.walk, if_neg (inCueArea_link h.1), readRecord_good h]

theorem walk_waits {s : State} {a : Nat} (ha : inCueArea a) (hc : (s.xm.read (a + 2)).toNat < 128)
    (hw : ¬ s.storeFree) (n : Nat) (d : DeckId) (ctx : ReadContext) :
    State.walk (n + 1) s d a ctx =
      ((s.onDeck d fun r => { r with reading := some ⟨a, s.xm.readBlock a 16, ctx⟩ }).enqueue (.deckRead d), .waits) := by
  rw [State.walk, if_neg (inCueArea_link ha), readRecord_waits ha hc hw]

/-- A walk meets a faulty record: four in a row exhaust it, one outside the cue area ends it, and any other is passed by its
own link (R65). -/
theorem walk_faulty {s : State} {a : Nat} {f : CueFault} (h : s.faultyRecord a f) (ha : a ≠ 0xFFFF) (n : Nat)
    (d : DeckId) (ctx : ReadContext) :
    ∃ u, Faulted d a f s u ∧
      State.walk (n + 1) s d a ctx =
        if 3 ≤ (s.decks.get d).faultStreak then (u, .exhausted)
        else if f = .badAddress then (u, .none)
        else State.walk n u d (u.xm.read a).toNat ctx := by
  obtain ⟨rs, hrs, hread⟩ := readRecord_faulty h d ctx
  have hu := faulted_of_markFault s d a f rs hrs (faultyRecord_placed h)
  refine ⟨_, hu, ?_⟩
  have hstreak : 4 ≤ ((streaked ((s.force rs).markFault d a f) d).decks.get d).faultStreak ↔
      3 ≤ (s.decks.get d).faultStreak := by
    rw [hu.decks, PerDeck.get_set_same]
    show 4 ≤ (s.decks.get d).faultStreak + 1 ↔ _
    omega
  rw [State.walk, if_neg (show a ≠ Config.noAddress from ha), hread]
  exact if_congr hstreak rfl rfl

/-! ## A record read after another -/

/-- A record reads the same in two states: its first eleven words, and its clip but for the locks (R64). -/
structure SameRecord (s u : State) (a : Nat) (i : Fin 128) : Prop where
  words : ∀ k ≤ 10, u.xm.read (a + k) = s.xm.read (a + k)
  clip : ∃ n, u.clip i = { s.clip i with locks := n }
  free : u.mustWait = s.mustWait

theorem SameRecord.goodRecord {s u : State} {a : Nat} {i : Fin 128} (h : SameRecord s u a i) (hg : s.goodRecord a i) :
    u.goodRecord a i := by
  obtain ⟨ha, hfree, hclip, hready, hstart⟩ := hg
  obtain ⟨n, hn⟩ := h.clip
  refine ⟨ha, h.free.trans hfree, ?_, ?_, ?_⟩
  · rw [h.words 2 (by omega), hclip]
  · rw [hn]
    exact hready
  · rw [h.words 3 (by omega), h.words 4 (by omega), hn]
    exact hstart

theorem SameRecord.foundCue {s u : State} {a : Nat} {i : Fin 128} (h : SameRecord s u a i) :
    foundCue u a i = foundCue s a i := by
  obtain ⟨n, hn⟩ := h.clip
  unfold DecksAndCueChains.foundCue
  rw [hn]
  refine cueOf_congr a i _ _ _ fun k hk => ?_
  rw [Mem.readBlock_getD _ _ _ _ (by omega), Mem.readBlock_getD _ _ _ _ (by omega), h.words k hk]

/-- A faulty record stays faulty where its words and the clip table stay. -/
theorem faultyRecord_same {s u : State} {a : Nat} {f : CueFault} (hw : ∀ k ≤ 10, u.xm.read (a + k) = s.xm.read (a + k))
    (hc : u.clips = s.clips) (h : s.faultyRecord a f) : u.faultyRecord a f := by
  have hclip : ∀ i, u.clip i = s.clip i := fun i => by rw [State.clip, State.clip, hc]
  have hfree : u.storeFree ↔ s.storeFree := by rw [State.storeFree, State.storeFree, State.mustWait, State.mustWait, hc]
  unfold State.faultyRecord
  simp only [hclip, hfree, hw 2 (by omega), hw 3 (by omega), hw 4 (by omega)]
  exact h

/-- The words of a record in the cue area lie below the status region and are no event words. -/
theorem record_bounds {a k : Nat} (ha : inCueArea a) (hk : k ≤ 10) : ¬ eventWord (a + k) ∧ a + k < 12288 := by
  unfold inCueArea at ha
  exact ⟨not_eventWord_of_bounds (by omega), by omega⟩

theorem lockedWord_bounds {s : State} {a : Nat} {f : CueFault} {b : Nat} (h : s.lockedWord a f b) : 12288 ≤ b := by
  obtain ⟨i, _, _, hb, _⟩ := h
  have := RecordId.place_low (.clip i)
  rw [statusBase_eq] at this
  omega

/-- A fault's words are none of a record's that is read apart from the faulty one. -/
theorem not_faultWord {s : State} {a b : Nat} {f : CueFault} (hb : inCueArea b) (h : readApart a b) {k : Nat}
    (hk : k ≤ 10) : ¬ faultWord s a f (b + k) := by
  obtain ⟨he, hs⟩ := record_bounds hb hk
  rintro (h1 | ⟨_, h1⟩ | h1)
  · exact he h1
  · exact h k hk h1
  · have := lockedWord_bounds h1
    omega

/-- A fault leaves the link of its own record. -/
theorem Faulted.link {d : DeckId} {a : Nat} {f : CueFault} {s u : State} (h : Faulted d a f s u) (ha : inCueArea a) :
    u.xm.read a = s.xm.read a := by
  refine h.reaches.xm a ?_
  obtain ⟨he, hs⟩ := record_bounds ha (Nat.zero_le 10)
  rintro (h1 | ⟨_, h1⟩ | h1)
  · exact he h1
  · unfold completionWord at h1
    omega
  · have := lockedWord_bounds h1
    omega

/-- A record read apart from a faulty one reads the same after its fault. -/
theorem Faulted.words {d : DeckId} {a b : Nat} {f : CueFault} {s u : State} (h : Faulted d a f s u) (hb : inCueArea b)
    (hab : readApart a b) : ∀ k ≤ 10, u.xm.read (b + k) = s.xm.read (b + k) :=
  fun _ hk => h.reaches.xm _ (not_faultWord hb hab hk)

theorem Faulted.sameRecord {d : DeckId} {a b : Nat} {f : CueFault} {s u : State} (h : Faulted d a f s u)
    (hb : inCueArea b) (hab : readApart a b) (i : Fin 128) : SameRecord s u b i :=
  ⟨h.words hb hab, ⟨(s.clip i).locks, by rw [State.clip, h.clips]; rfl⟩,
    by rw [State.mustWait, State.mustWait, h.clips]⟩

end Sys2Proof.DecksAndCueChains

/-!
LOOKAHEAD (R72): due or not, and what its walk leaves by the record it meets.
-/
namespace Sys2Proof.DecksAndCueChains

open Sys2Proof.Machine

theorem exec_lookahead (s : State) (d : DeckId) :
    Sys2Proof.Machine.exec (.lookahead d) s = .next (s.deckAct fun s => s.makeLookahead d) := rfl

/-- When a deck's lookahead is due (R72). -/
theorem lookaheadDue_iff {r : DeckRec} {c : Cue} (hc : r.current = some c) :
    r.lookaheadDue = true ↔ r.lookahead = .notMade ∧ c.holds = false ∧ c.length ≤ c.fetched ∧ r.reading = none := by
  simp [DeckRec.lookaheadDue, hc, and_assoc]

theorem makeLookahead_notDue (s : State) (d : DeckId) (h : (s.decks.get d).lookaheadDue = false) :
    s.makeLookahead d = s := by
  simp [State.makeLookahead, h]

/-- A lookahead that is due walks from the current cue's link (R72). -/
theorem makeLookahead_due {s : State} {d : DeckId} {c : Cue} (hc : (s.decks.get d).current = some c)
    (h : (s.decks.get d).lookaheadDue = true) :
    s.makeLookahead d = (State.walk 5 s d (s.xm.read c.address).toNat .lookahead).1.finishLookahead d
      (State.walk 5 s d (s.xm.read c.address).toNat .lookahead).2 := by
  simp [State.makeLookahead, h, hc, State.walkFrom]

/-- A deck's act on a point of its own that leaves the state as it is changes nothing. -/
theorem deckAct_same (s : State) (f : State → State) (h : s.runsOwing) (hf : f s = s) : s.deckAct f = s := by
  rw [s.deckAct_runs f h, hf, ProgramArithmetic.settle_same s h.2.1]

/-- A deck's act on a point of its own that sends no message is published. -/
theorem deckAct_publish {s : State} {f : State → State} {v : State} (h : s.runsOwing) (hf : f s = v)
    (hm : v.messages = []) : s.deckAct f = v.publish := by
  rw [s.deckAct_runs f h, hf, State.settle_plain v hm]

/-- A lookahead that sends no message is published. -/
theorem lookahead_publish {s v : State} {d : DeckId} (h : s.runsOwing) (hf : s.makeLookahead d = v)
    (hm : v.messages = []) : (s.deckAct fun s => s.makeLookahead d) = v.publish :=
  deckAct_publish (f := fun s => s.makeLookahead d) h hf hm

/-! ## What a lookahead leaves -/

section

variable {s : State} {d : DeckId} {r : DeckRec} {c : Cue} {link : Nat}

theorem lookahead_none (h : s.runsOwing) (hd : s.decks.get d = r) (hc : r.current = some c)
    (hl : link = (s.xm.read c.address).toNat) (hdue : r.lookaheadDue = true) (hn : link = 0xFFFF) :
    ∃ t, Sys2Proof.Machine.exec (.lookahead d) s = .next t ∧
      s.changedTo t { s with decks := s.decks.set d { r with lookahead := .none } } (fun _ => False) := by
  subst hd
  refine ⟨_, rfl, ?_⟩
  have hmake : s.makeLookahead d = s.onDeck d fun r => { r with lookahead := .none } := by
    rw [makeLookahead_due hc hdue, ← hl, hn, walk_none]
    rfl
  have hkey : (s.onDeck d fun r => { r with lookahead := .none }).forced = [] :=
    (onDeck_forced_same s d _ rfl).trans h.2.1.2
  rw [lookahead_publish h hmake h.2.1.1]
  exact ((Reaches.refl [.decks] _ s).deck (by simp) d _).changedTo _ rfl hkey

theorem lookahead_found (h : s.runsOwing) (hd : s.decks.get d = r) (hc : r.current = some c)
    (hl : link = (s.xm.read c.address).toNat) (hdue : r.lookaheadDue = true) (i : Fin 128) (hi : s.goodRecord link i) :
    ∃ t, Sys2Proof.Machine.exec (.lookahead d) s = .next t ∧
      t.decks = s.decks.set d
        { r with
          faultStreak := 0, lookahead := .found
          next := some (cueOf link (s.xm.readBlock link 16) i (s.clip i).first (s.clip i).pages (s.clip i).sealed) } ∧
      t.clips = s.lockTaken i ∧ t.completion link .queued 0 none ∧
      s.within t [.decks, .clips] (completionWord link) := by
  subst hd
  refine ⟨_, rfl, ?_⟩
  have hmake : s.makeLookahead d =
      (goodRead s d link i).onDeck d fun r => { r with next := some (foundCue s link i), lookahead := .found } := by
    rw [makeLookahead_due hc hdue, ← hl, walk_good hi]
    rfl
  rw [lookahead_publish h hmake h.2.1.1, State.publish_decks, State.publish_clips]
  refine ⟨?_, rfl, completion_publish hi.1 (completion_of_same (goodRead_completion s d link i) fun _ _ => rfl),
    ((goodRead_reaches s d link i).deck (by simp) d _).within h.2.1.2⟩
  rw [onDeck_decks_of _ _ _ _ rfl, goodRead_decks, perDeck_set_set, PerDeck.get_set_same]
  rfl

theorem lookahead_waits (h : s.runsOwing) (hd : s.decks.get d = r) (hc : r.current = some c)
    (hl : link = (s.xm.read c.address).toNat) (hdue : r.lookaheadDue = true) (ha : inCueArea link)
    (hclip : (s.xm.read (link + 2)).toNat < 128) (hw : ¬ s.storeFree) :
    ∃ t, Sys2Proof.Machine.exec (.lookahead d) s = .next t ∧
      s.changedTo t
        { s with
          decks := s.decks.set d { r with reading := some ⟨link, s.xm.readBlock link 16, .lookahead⟩ }
          clips := { s.clips with waiting := s.clips.waiting ++ [.deckRead d] } } (fun _ => False) := by
  subst hd
  refine ⟨_, rfl, ?_⟩
  have hmake : s.makeLookahead d =
      (s.onDeck d fun r => { r with reading := some ⟨link, s.xm.readBlock link 16, .lookahead⟩ }).enqueue
        (.deckRead d) := by
    rw [makeLookahead_due hc hdue, ← hl, walk_waits ha hclip hw]
    rfl
  have hkey : ((s.onDeck d fun r => { r with reading := some ⟨link, s.xm.readBlock link 16, .lookahead⟩ }).enqueue
      (.deckRead d)).forced = [] := (onDeck_forced_same s d _ rfl).trans h.2.1.2
  rw [lookahead_publish h hmake h.2.1.1]
  exact (((Reaches.refl [.decks, .clips] _ s).deck (by simp) d _).enqueue (by simp) _).changedTo _ rfl hkey

/-- A lookahead that ends without a record, after the faults met: the outcome on the deck's record, in the frame of what
came before. -/
theorem lookahead_ends {u : State} {o : Lookahead} {w : Nat → Prop} (h : s.runsOwing)
    (hmake : s.makeLookahead d = u.onDeck d fun r => { r with lookahead := o }) (hm : u.messages = s.messages)
    (hu : Reaches [.decks, .counters] w s u) :
    ∃ t, Sys2Proof.Machine.exec (.lookahead d) s = .next t ∧ t = (u.onDeck d fun r => { r with lookahead := o }).publish ∧
      t.decks = u.decks.set d { u.decks.get d with lookahead := o } ∧ t.clips = u.clips ∧ t.counters = u.counters ∧
      s.within t [.decks, .counters] w := by
  refine ⟨_, rfl, lookahead_publish h hmake (hm.trans h.2.1.1), ?_⟩
  rw [lookahead_publish h hmake (hm.trans h.2.1.1), State.publish_decks, State.publish_clips, State.publish_counters]
  exact ⟨rfl, rfl, rfl, (hu.deck (by simp) d _).within h.2.1.2⟩

/-- A fault stays marked through a change of the deck's record and publication. -/
theorem Faulted.marksFault {a : Nat} {f : CueFault} {s u t : State} (hu : Faulted d a f s u)
    (ha : f ≠ .badAddress → inCueArea a) {g : DeckRec → DeckRec} (ht : t = (u.onDeck d g).publish) :
    s.marksFault t a f := by
  subst ht
  refine ⟨fun hf => completion_publish (ha hf) (completion_of_same (hu.completion hf) fun _ _ => rfl),
    fun p => hasEvent_publish (hasEvent_of_same (hu.event p) rfl), ?_⟩
  rw [State.publish_counters]
  exact hu.counters

theorem lookahead_faulty_ends (h : s.runsOwing) (hd : s.decks.get d = r) (hc : r.current = some c)
    (hl : link = (s.xm.read c.address).toNat) (hdue : r.lookaheadDue = true) (f : CueFault)
    (hf : s.faultyRecord link f) (hne : link ≠ 0xFFFF) (hend : 3 ≤ r.faultStreak ∨ f = .badAddress) :
    ∃ t, Sys2Proof.Machine.exec (.lookahead d) s = .next t ∧ s.marksFault t link f ∧ t.clips = s.clips ∧
      t.decks = s.decks.set d
        { r with
          lookahead := if 3 ≤ r.faultStreak then .exhausted else .none
          faultStreak := r.faultStreak + 1, lastFault := some (link, f) } ∧
      s.within t [.decks, .counters]
        (fun b => eventWord b ∨ (f ≠ .badAddress ∧ completionWord link b) ∨ s.lockedWord link f b) := by
  subst hd
  obtain ⟨u, hu, hwalk⟩ := walk_faulty hf hne 4 d .lookahead
  have hmake : s.makeLookahead d = u.onDeck d fun r =>
      { r with lookahead := if 3 ≤ (s.decks.get d).faultStreak then .exhausted else .none } := by
    rw [makeLookahead_due hc hdue, ← hl, hwalk]
    by_cases h3 : 3 ≤ (s.decks.get d).faultStreak
    · simp only [if_pos h3]
      rfl
    · simp only [if_neg h3, if_pos (hend.resolve_left h3)]
      rfl
  obtain ⟨t, hexec, ht, hdecks, hclips, _, hwithin⟩ := lookahead_ends h hmake hu.messages hu.reaches
  refine ⟨t, hexec, hu.marksFault (faultyRecord_placed hf) ht, hclips.trans hu.clips, ?_, hwithin⟩
  rw [hdecks, hu.decks, perDeck_set_set, PerDeck.get_set_same]

/-- The walk goes on past a faulty record by its own link. -/
theorem makeLookahead_passes (hc : (s.decks.get d).current = some c) (hl : link = (s.xm.read c.address).toNat)
    (hdue : (s.decks.get d).lookaheadDue = true) (f : CueFault) (hf : s.faultyRecord link f) (hne : f ≠ .badAddress)
    (h3 : (s.decks.get d).faultStreak < 3) :
    ∃ u, Faulted d link f s u ∧
      s.makeLookahead d = (State.walk 4 u d (s.xm.read link).toNat .lookahead).1.finishLookahead d
        (State.walk 4 u d (s.xm.read link).toNat .lookahead).2 := by
  have ha := faultyRecord_placed hf hne
  obtain ⟨u, hu, hwalk⟩ := walk_faulty hf (inCueArea_link ha) 4 d .lookahead
  refine ⟨u, hu, ?_⟩
  rw [makeLookahead_due hc hdue, ← hl, hwalk, if_neg (by omega), if_neg hne, hu.link ha]

theorem lookahead_faulty_then_none (h : s.runsOwing) (hd : s.decks.get d = r) (hc : r.current = some c)
    (hl : link = (s.xm.read c.address).toNat) (hdue : r.lookaheadDue = true) (f : CueFault) (link' : Nat)
    (hf : s.faultyRecord link f) (hne : f ≠ .badAddress) (h3 : r.faultStreak < 3) (hl' : link' = (s.xm.read link).toNat)
    (hn : link' = 0xFFFF) :
    ∃ t, Sys2Proof.Machine.exec (.lookahead d) s = .next t ∧ s.marksFault t link f ∧ t.clips = s.clips ∧
      t.decks = s.decks.set d
        { r with lookahead := .none, faultStreak := r.faultStreak + 1, lastFault := some (link, f) } ∧
      s.within t [.decks, .counters] (fun b => eventWord b ∨ completionWord link b ∨ s.lockedWord link f b) := by
  subst hd
  obtain ⟨u, hu, hwalk⟩ := makeLookahead_passes hc hl hdue f hf hne h3
  have hmake : s.makeLookahead d = u.onDeck d fun r => { r with lookahead := .none } := by
    rw [hwalk, ← hl', hn, walk_none]
    rfl
  obtain ⟨t, hexec, ht, hdecks, hclips, _, hwithin⟩ := lookahead_ends h hmake hu.messages
    (hu.reaches.mono (w' := fun b => eventWord b ∨ completionWord link b ∨ s.lockedWord link f b) (fun _ h => h)
      fun b hb => hb.imp id (Or.imp And.right id))
  refine ⟨t, hexec, hu.marksFault (faultyRecord_placed hf) ht, hclips.trans hu.clips, ?_, hwithin⟩
  rw [hdecks, hu.decks, perDeck_set_set, PerDeck.get_set_same]

theorem lookahead_faulty_then_found (h : s.runsOwing) (hd : s.decks.get d = r) (hc : r.current = some c)
    (hl : link = (s.xm.read c.address).toNat) (hdue : r.lookaheadDue = true) (f : CueFault) (link' : Nat)
    (hf : s.faultyRecord link f) (hne : f ≠ .badAddress) (h3 : r.faultStreak < 3) (hl' : link' = (s.xm.read link).toNat)
    (hread : readApart link link') (i : Fin 128) (hi : s.goodRecord link' i) (hapart : apart link link') :
    ∃ t, Sys2Proof.Machine.exec (.lookahead d) s = .next t ∧ s.marksFault t link f ∧
      t.decks = s.decks.set d
        { r with
          faultStreak := 0, lookahead := .found, lastFault := some (link, f)
          next := some
            (cueOf link' (s.xm.readBlock link' 16) i (s.clip i).first (s.clip i).pages (s.clip i).sealed) } ∧
      t.clips = s.lockTaken i ∧ t.completion link' .queued 0 none ∧
      s.within t [.decks, .clips, .counters]
        (fun b => eventWord b ∨ completionWord link b ∨ completionWord link' b) := by
  subst hd
  have ha := faultyRecord_placed hf hne
  obtain ⟨u, hu, hwalk⟩ := makeLookahead_passes hc hl hdue f hf hne h3
  have hsame := hu.sameRecord hi.1 hread i
  have hmake : s.makeLookahead d =
      (goodRead u d link' i).onDeck d fun r => { r with next := some (foundCue s link' i), lookahead := .found } := by
    rw [hwalk, ← hl', walk_good (hsame.goodRecord hi), hsame.foundCue]
    rfl
  refine ⟨_, rfl, ?_⟩
  rw [lookahead_publish h hmake (hu.messages.trans h.2.1.1)]
  have hstay : ∀ b, ¬ completionWord link' b → (goodRead u d link' i).xm.read b = u.xm.read b :=
    (goodRead_reaches u d link' i).xm
  refine ⟨⟨fun _ => completion_publish ha ?_, fun p => hasEvent_publish ?_, ?_⟩, ?_, ?_, ?_, ?_⟩
  · exact completion_of_same (hu.completion hne) fun b hb => hstay b (apart_words hapart hb)
  · exact hasEvent_of_same (hu.event p) (hstay _ fun hb => completionWord_not_event hi.1 hb ⟨p, rfl⟩)
  · rw [State.publish_counters]
    exact hu.counters
  · rw [State.publish_decks, onDeck_decks_of _ _ _ _ rfl, goodRead_decks, hu.decks]
    simp only [perDeck_set_set, PerDeck.get_set_same]
    rfl
  · rw [State.publish_clips]
    show u.lockTaken i = s.lockTaken i
    rw [State.lockTaken, State.lockTaken, State.clip, State.clip, hu.clips]
  · exact completion_publish hi.1 (completion_of_same (goodRead_completion u d link' i) fun _ _ => rfl)
  · have hfault : Reaches [.decks, .clips, .counters]
        (fun b => eventWord b ∨ completionWord link b ∨ completionWord link' b ∨ s.lockedWord link f b) s u :=
      hu.reaches.mono (by simp) fun b hb => by
        rcases hb with hb | ⟨_, hb⟩ | hb
        · exact .inl hb
        · exact .inr (.inl hb)
        · exact .inr (.inr (.inr hb))
    have hall : Reaches [.decks, .clips, .counters]
        (fun b => eventWord b ∨ completionWord link b ∨ completionWord link' b ∨ s.lockedWord link f b) s
        ((goodRead u d link' i).onDeck d fun r => { r with next := some (foundCue s link' i), lookahead := .found }) :=
      (hfault.trans ((goodRead_reaches u d link' i).mono (by simp) fun b hb => .inr (.inr (.inl hb)))).deck (by simp) d _
    refine ⟨hall.samePorts_publish, fun x hx => (hall.frame h.2.1.2).1 x hx, fun b hb => ?_⟩
    refine (hall.frame h.2.1.2).2 b fun hc => hb ?_
    rcases hc with (hc | hc | hc | ⟨j, _, _, hj⟩) | hc
    · exact .inl (.inl hc)
    · exact .inl (.inr (.inl hc))
    · exact .inl (.inr (.inr hc))
    · exact .inr ⟨.clip j, hj, .clips, by simp [RecordId.parts], by simp⟩
    · exact .inr hc

end

end Sys2Proof.DecksAndCueChains

/-!
A deck's command in port A's mailbox: its issue, and the ends of the steps that answer it or leave it BUSY (R64, R84, R181 to
R184).
-/
namespace Sys2Proof.DecksAndCueChains

open Sys2Proof.Machine

/-! ## The issue -/

/-- The running part takes a command from a port: its WAIT is released and its mailbox holds no command (R178, R181). -/
structure Ready (s : State) (p : Port) : Prop where
  power : s.clock.power = .running
  wait : (s.ports.get p).wait = none
  running : (s.ports.get p).running = none

theorem ready_of_accepts {s : State} {p : Port} (h : s.accepts p) : Ready s p := by
  obtain ⟨⟨hpower, _⟩, hwait, hrun⟩ := h
  exact ⟨hpower, hwait, hrun⟩

/-- A permitted command is run on the state with the take made, and answered (R181 to R183). -/
theorem issue_ready {s : State} {p : Port} (h : Ready s p) (c : Command) (params : List Word)
    (hp : c.permits p = true) :
    s.issue p c params =
      (((s.issuedTo p c params).runCommand p c (s.copyOf p params)).1).answer p
        ((s.issuedTo p c params).runCommand p c (s.copyOf p params)).2 := by
  simp [State.issue, State.access, h.wait, State.commandWordWrite, h.power, h.running, State.takeCommand,
    State.judgeCommand, commandOf_code, hp, State.issuedTo, State.copyOf]

/-- A command that goes to a deck (R84). -/
structure ToDeck (c : Command) : Prop where
  permits : c.permits .a = true
  run : ∀ (u : State) (ws : List Word), u.runCommand .a c ws = u.deckMailbox c ws

theorem toDeck_stop : ToDeck .deckStop := ⟨rfl, fun _ _ => rfl⟩
theorem toDeck_skip : ToDeck .deckSkip := ⟨rfl, fun _ _ => rfl⟩
theorem toDeck_resume : ToDeck .deckResume := ⟨rfl, fun _ _ => rfl⟩

theorem deckOf_number (d : DeckId) : deckOf d.number = some d := by cases d <;> rfl

theorem deckOf_outside {n : Nat} (h : n < 1 ∨ 2 < n) : deckOf n = none := by
  unfold deckOf
  rw [if_neg (by omega), if_neg (by omega)]

section

variable {s : State} {c : Command} {deck : Word} {rest : List Word} {d : DeckId}

theorem par_deck (s : State) (deck : Word) (hl : rest.length ≤ 23) : par (s.copyOf .a (deck :: rest)) 1 = deck.toNat := by
  rw [State.par_copyOf _ _ _ _ (by simp; omega) (by omega) (by simp)]
  rfl

/-- The second parameter of a command. -/
theorem par_second (s : State) (deck fade : Word) : par (s.copyOf .a [deck, fade]) 2 = fade.toNat := by
  rw [State.par_copyOf _ _ _ _ (by simp) (by omega) (by simp)]
  rfl

/-- A command for a deck no read holds is the deck's own act (R84). -/
theorem issue_deck (h : Ready s .a) (hc : ToDeck c) (hl : rest.length ≤ 23) (hd : deck.toNat = d.number)
    (hr : (s.decks.get d).reading = none) :
    s.issue .a c (deck :: rest) =
      (((s.issuedTo .a c (deck :: rest)).deckCommand c d (s.copyOf .a (deck :: rest))).1).answer .a
        ((s.issuedTo .a c (deck :: rest)).deckCommand c d (s.copyOf .a (deck :: rest))).2 := by
  have hu : ((s.issuedTo .a c (deck :: rest)).decks.get d).reading.isSome = false := by
    show ((s.decks.get d).reading).isSome = false
    rw [hr]
    rfl
  rw [issue_ready h c _ hc.permits, hc.run]
  simp only [State.deckMailbox, par_deck s deck hl, hd, deckOf_number, hu, Bool.false_eq_true, if_false]

/-- A command for a deck that a read holds waits in its inbox (R64, R84). -/
theorem issue_held (h : Ready s .a) (hc : ToDeck c) (hl : rest.length ≤ 23) (hd : deck.toNat = d.number)
    (hr : (s.decks.get d).reading.isSome = true) :
    s.issue .a c (deck :: rest) =
      (s.issuedTo .a c (deck :: rest)).onDeck d fun r => { r with inbox := r.inbox ++ [⟨r.played, .command⟩] } := by
  have hu : ((s.issuedTo .a c (deck :: rest)).decks.get d).reading.isSome = true := hr
  rw [issue_ready h c _ hc.permits, hc.run]
  simp only [State.deckMailbox, par_deck s deck hl, hd, deckOf_number, hu, if_true, State.deckTake]
  rfl

/-- A command for no deck is refused (R84). -/
theorem issue_noDeck (h : Ready s .a) (hc : ToDeck c) (hl : rest.length ≤ 23) (hd : deck.toNat < 1 ∨ 2 < deck.toNat) :
    s.issue .a c (deck :: rest) = (s.issuedTo .a c (deck :: rest)).answer .a (.refused .badParam) := by
  rw [issue_ready h c _ hc.permits, hc.run]
  simp only [State.deckMailbox, par_deck s deck hl, deckOf_outside hd]

/-- No deck is BAD_PARAM. -/
theorem noDeck_refused (h : s.accepts .a) (hc : ToDeck c) (hl : rest.length ≤ 23)
    (hd : deck.toNat < 1 ∨ 2 < deck.toNat) :
    ∃ t, s.act (fun s => s.issue .a c (deck :: rest)) = t ∧ s.refusedOnly t .a c.code .badParam :=
  s.plainRefusal .a c _ .badParam h (issue_noDeck (ready_of_accepts h) hc hl hd)

/-- A command that a deck no read holds refuses without an act. -/
theorem deck_refused (h : s.accepts .a) (hc : ToDeck c) (hl : rest.length ≤ 23) (hd : deck.toNat = d.number)
    (hr : (s.decks.get d).reading = none) (e : Reason)
    (hcmd : (s.issuedTo .a c (deck :: rest)).deckCommand c d (s.copyOf .a (deck :: rest)) =
      (s.issuedTo .a c (deck :: rest), .refused e)) :
    ∃ t, s.act (fun s => s.issue .a c (deck :: rest)) = t ∧ s.refusedOnly t .a c.code e :=
  s.plainRefusal .a c _ e h (by rw [issue_deck (ready_of_accepts h) hc hl hd hr, hcmd])

end

/-! ## The end of a command's step -/

section

variable {ps : List Part} {w : Nat → Prop} {s s₁ x v : State} {p : Port} {c : Command} {params : List Word}

/-- The mailbox words that a deck's act leaves: all of the page but the event word (R186). -/
def leavesPage (w : Nat → Prop) (p : Port) : Prop := ∀ n < 64, n ≠ 51 → ¬ w (base p + n)

theorem leavesPage_event (p : Port) : leavesPage eventWord p := fun n hn h51 => not_eventWord p n hn h51

theorem leavesPage_completion {a : Nat} (ha : inCueArea a) (p : Port) : leavesPage (completionWord a) p :=
  fun _ hn _ => not_completionWord_page ha p hn

theorem leavesPage_or {w' : Nat → Prop} (h : leavesPage w p) (h' : leavesPage w' p) :
    leavesPage (fun a => w a ∨ w' a) p := fun n hn h51 => not_or.mpr ⟨h n hn h51, h' n hn h51⟩

theorem leavesPage_none (p : Port) : leavesPage (fun _ => False) p := fun _ _ _ => id

theorem leavesPage_locked (s : State) (a : Nat) (f : CueFault) (p : Port) : leavesPage (s.lockedWord a f) p :=
  fun n hn _ h => by
    have hlow := lockedWord_bounds h
    have := base_lt p
    omega

theorem issuedTo_keeps (s : State) (p : Port) (c : Command) (params : List Word) (y : Part) :
    s.keeps (s.issuedTo p c params) y := by
  cases y <;> rfl

@[simp] theorem answer_decks (s : State) (p : Port) (r : Reply) : (s.answer p r).decks = s.decks := by cases r <;> rfl
@[simp] theorem answer_clips (s : State) (p : Port) (r : Reply) : (s.answer p r).clips = s.clips := by cases r <;> rfl
@[simp] theorem answer_air (s : State) (p : Port) (r : Reply) : (s.answer p r).air = s.air := by cases r <;> rfl
@[simp] theorem answer_counters (s : State) (p : Port) (r : Reply) : (s.answer p r).counters = s.counters := by
  cases r <;> rfl

theorem answer_keeps (s : State) (p : Port) (r : Reply) (y : Part) : s.keeps (s.answer p r) y := by
  cases r <;> cases y <;> rfl

/-- The frame of a command's step: what came before it, its act and what follows its answer (R182, R183). -/
theorem command_frame (hs : s.forced = []) (h0 : Reaches ps w s s₁) (h1 : Reaches ps w (s₁.issuedTo p c params) x)
    (r : Reply) (h2 : Reaches ps w (x.answer p r) v) :
    s.frame v.publish ps (fun a => ownPage p a ∨ w a) := by
  have hall : ∀ y, y ∉ ps → s.keeps v y := fun y hy =>
    State.keeps_trans (h0.keeps y hy) (State.keeps_trans (issuedTo_keeps s₁ p c params y)
      (State.keeps_trans (h1.keeps y hy) (State.keeps_trans (answer_keeps x p r y) (h2.keeps y hy))))
  refine ⟨fun y hy => State.keeps_trans (hall y hy) (by cases y <;> simp [State.keeps]), fun a ha => ?_⟩
  simp only [not_or] at ha
  obtain ⟨⟨hpage, hw⟩, hshow⟩ := ha
  rw [State.publish_read_other, h2.xm a hw, State.answer_read _ _ _ _ hpage, h1.xm a hw,
    State.issuedTo_read _ _ _ _ _ hpage, h0.xm a hw]
  intro q hq hin
  have hfree : ¬ ((∃ y ∈ q.parts, y ∈ ps) ∨ ∀ a, inRecord q a → w a) := by
    rintro (⟨y, hy, hp⟩ | hc)
    · exact hshow ⟨q, hin, y, hy, hp⟩
    · exact hw (hc a hin)
  have hx := (h2.forced q hq).resolve_right hfree
  rw [State.forced_answer] at hx
  have hi := (h1.forced q hx).resolve_right hfree
  rw [State.forced_issuedTo] at hi
  simpa [hs] using (h0.forced q hi).resolve_right hfree

/-- A command that has been answered leaves the ports as they were but for their read-aheads (R183). -/
theorem command_ports (hrun : (s.ports.get p).running = none) (h0 : Reaches ps w s s₁)
    (h1 : Reaches ps w (s₁.issuedTo p c params) x) {r : Reply} (hr : r ≠ .later) (h2 : Reaches ps w (x.answer p r) v) :
    s.samePorts v.publish := by
  intro q
  rw [State.publish_bare, h2.ports, State.answer_bare _ _ _ _ hr, h1.ports, h1.ports, State.issuedTo_bare,
    State.issuedTo_bare, h0.ports, h0.ports]
  by_cases hq : q = p
  · subst hq
    simp [PortState.bare, hrun]
  · simp [hq]

theorem pageWord_of_reaches {s v : State} (h : Reaches ps w s v) (hw : leavesPage w p) {n : Nat} (hn : n < 64)
    (h51 : n ≠ 51) : v.pageWord p n = s.pageWord p n := h.xm _ (hw n hn h51)

theorem running_of_reaches {s v : State} (h : Reaches ps w s v) (p : Port) :
    (v.ports.get p).running = (s.ports.get p).running := PortState.running_of_bare (h.ports p)

/-- A DONE answer stands at the end of the step (R183). -/
theorem command_done (h1 : Reaches ps w (s₁.issuedTo p c params) x) (hw : leavesPage w p) {rs : List Nat}
    (h2 : Reaches ps w (x.answer p (.done rs)) v) : v.publish.doneWith p c.code rs := by
  have h53 : x.pageWord p 53 = c.code := by
    rw [pageWord_of_reaches h1 hw (by omega) (by omega), State.issuedTo_page53]
  obtain ⟨g0, g49, g50, g53, gres, grun⟩ := x.answer_done p rs c.code h53
  refine State.publish_doneWith ⟨?_, ?_, ?_, ?_, fun i hi => ?_, ?_⟩
  · rw [pageWord_of_reaches h2 hw (by omega) (by omega), g0]
  · rw [pageWord_of_reaches h2 hw (by omega) (by omega), g49]
  · rw [pageWord_of_reaches h2 hw (by omega) (by omega), g50]
  · rw [pageWord_of_reaches h2 hw (by omega) (by omega), g53]
  · rw [pageWord_of_reaches h2 hw (by omega) (by omega), gres i hi]
  · rw [running_of_reaches h2 p, grun]

/-- A refusal stands at the end of the step (R183). -/
theorem command_refused (h1 : Reaches ps w (s₁.issuedTo p c params) x) (hw : leavesPage w p) {e : Reason}
    (h2 : Reaches ps w (x.answer p (.refused e)) v) : v.publish.refusedWith p c.code e := by
  have h53 : x.pageWord p 53 = c.code := by
    rw [pageWord_of_reaches h1 hw (by omega) (by omega), State.issuedTo_page53]
  have hrun : (x.ports.get p).running = some ⟨c.code, s₁.copyOf p params, (s₁.ports.get p).writeBuffer.length⟩ := by
    rw [running_of_reaches h1 p, State.issuedTo_running]
  obtain ⟨g0, g49, g50, g53, gres, grun⟩ := x.answer_refused p e _ hrun h53
  refine State.publish_refusedWith ⟨?_, ?_, ?_, ?_, fun i hi => ?_, ?_⟩
  · rw [pageWord_of_reaches h2 hw (by omega) (by omega), g0]
  · rw [pageWord_of_reaches h2 hw (by omega) (by omega), g49]
  · rw [pageWord_of_reaches h2 hw (by omega) (by omega), g50]
  · rw [pageWord_of_reaches h2 hw (by omega) (by omega), g53]
  · rw [pageWord_of_reaches h2 hw (by omega) (by omega), gres i hi]
  · rw [running_of_reaches h2 p, grun]

/-- A command that waits leaves its mailbox BUSY (R181, R184). -/
theorem command_busy (hl : params.length ≤ 24) (h1 : Reaches ps w (s₁.issuedTo p c params) v) (hw : leavesPage w p) :
    v.publish.busyWith p c.code params := by
  refine ⟨?_, ?_, ⟨c.code, s₁.copyOf p params, (s₁.ports.get p).writeBuffer.length⟩, ?_, rfl, fun i hi => ?_⟩
  · rw [State.publish_page _ _ _ (by omega), pageWord_of_reaches h1 hw (by omega) (by omega), State.issuedTo_page0]
  · rw [State.publish_page _ _ _ (by omega), pageWord_of_reaches h1 hw (by omega) (by omega), State.issuedTo_page53]
  · rw [State.publish_port_running, running_of_reaches h1 p, State.issuedTo_running]
  · exact s₁.copyOf_getD p params i hl hi

/-- The step of an accepted command answered DONE at its end, within a frame. -/
theorem command_doneWithin (h : s.accepts p) (h1 : Reaches ps w (s.issuedTo p c params) x) (hw : leavesPage w p)
    {rs : List Nat} (h2 : Reaches ps w (x.answer p (.done rs)) v) : s.doneWithin v.publish p c.code rs ps w := by
  obtain ⟨⟨_, ⟨_, hforced⟩, _⟩, _, hrun⟩ := h
  exact ⟨command_done h1 hw h2, command_ports hrun (Reaches.refl _ _ s) h1 (by simp) h2,
    command_frame hforced (Reaches.refl _ _ s) h1 _ h2⟩

/-- The step of an accepted command that changes only the blocks named and asks for no rewrite. -/
theorem command_doneOnly (h : s.accepts p) (h1 : Reaches ps w (s.issuedTo p c params) x) (hw : leavesPage w p)
    {rs : List Nat} (h2 : Reaches ps w (x.answer p (.done rs)) v) (b : State) (hb : v.blocks = b.blocks)
    (hf : v.forced = []) : s.doneOnly v.publish p c.code rs b w := by
  obtain ⟨⟨_, ⟨_, hforced⟩, _⟩, _, hrun⟩ := h
  refine ⟨by rw [State.publish_blocks, hb], command_done h1 hw h2,
    command_ports hrun (Reaches.refl _ _ s) h1 (by simp) h2, fun a ha => ?_⟩
  simp only [not_or] at ha
  obtain ⟨hpage, hwa⟩ := ha
  rw [State.publish_read_other _ _ (by simp [hf]), h2.xm a hwa, State.answer_read _ _ _ _ hpage, h1.xm a hwa,
    State.issuedTo_read _ _ _ _ _ hpage]

/-- The step of an accepted command that waits, changing only the blocks named and asking for no rewrite. -/
theorem command_busyOnly (hl : params.length ≤ 24) (h1 : Reaches ps (fun _ => False) (s.issuedTo p c params) v)
    (b : State) (hb : v.blocks = b.blocks) (hf : v.forced = []) : s.busyOnly v.publish p c.code params b := by
  refine ⟨by rw [State.publish_blocks, hb], command_busy hl h1 (leavesPage_none p), fun q hq => ?_, ?_, fun a ha => ?_⟩
  · rw [State.publish_bare, h1.ports, State.issuedTo_bare, if_neg hq]
  · rw [State.publish_port_running, running_of_reaches h1 p, State.publish_bare, h1.ports, State.issuedTo_bare,
      if_pos rfl, State.issuedTo_running]
  · rw [State.publish_read_other _ _ (by simp [hf]), h1.xm a id, State.issuedTo_read _ _ _ _ _ ha]

/-- The step of an accepted command whose act sends no message. -/
theorem act_publish {f : State → State} (h : s.runs) (hf : f s = v) (hm : v.messages = []) : s.act f = v.publish := by
  rw [s.act_runs f h, hf, State.settle_plain v hm]

/-- A command for a deck that a read holds waits, BUSY (R64, R84). -/
theorem held_busy {s : State} {c : Command} {deck : Word} {rest : List Word} {d : DeckId} (h : s.accepts .a)
    (hc : ToDeck c) (hl : rest.length ≤ 23) (hd : deck.toNat = d.number) (hr : (s.decks.get d).reading.isSome = true) :
    ∃ t, s.act (fun s => s.issue .a c (deck :: rest)) = t ∧
      s.busyOnly t .a c.code (deck :: rest) (s.commandWaits d) := by
  refine ⟨_, rfl, ?_⟩
  have hq := h.1.2.1
  have hforced : ((s.issuedTo .a c (deck :: rest)).onDeck d fun r =>
      { r with inbox := r.inbox ++ [⟨r.played, .command⟩] }).forced = [] :=
    (onDeck_forced_same _ d _ rfl).trans hq.2
  rw [act_publish (f := fun s => s.issue .a c (deck :: rest)) h.1 (issue_held (ready_of_accepts h) hc hl hd hr) hq.1]
  exact command_busyOnly (by simp; omega) ((Reaches.refl [.decks] _ _).deck (by simp) d _) _ rfl hforced

end

end Sys2Proof.DecksAndCueChains

/-!
DECK_RESUME (R79): its walk from the resume address, and runs of faulty records (R65).
-/
namespace Sys2Proof.DecksAndCueChains

open Sys2Proof.Machine

/-! ## Faulty records in a row -/

/-- A deck has read faulty records one after another. -/
inductive FaultRun (d : DeckId) : List (Nat × CueFault) → State → State → Prop
  | nil (s : State) : FaultRun d [] s s
  | cons {a : Nat} {f : CueFault} {l : List (Nat × CueFault)} {s t u : State} :
      Faulted d a f s t → FaultRun d l t u → FaultRun d ((a, f) :: l) s u

/-- Faulty records with an address in the cue area, their completion fields apart from each other and from what is read of
those behind them. -/
structure FaultyList (s : State) (l : List (Nat × CueFault)) : Prop where
  faulty : ∀ x ∈ l, s.faultyRecord x.1 x.2 ∧ x.2 ≠ .badAddress
  apart : l.Pairwise fun x y => apart x.1 y.1 ∧ readApart x.1 y.1

/-- The words that the faults of a list of records write. -/
def runWord (s : State) (l : List (Nat × CueFault)) (b : Nat) : Prop :=
  eventWord b ∨ ∃ x ∈ l, completionWord x.1 b ∨ s.lockedWord x.1 x.2 b

theorem FaultyList.placed {s : State} {l : List (Nat × CueFault)} (h : FaultyList s l) : ∀ x ∈ l, inCueArea x.1 :=
  fun x hx => faultyRecord_placed (h.faulty x hx).1 (h.faulty x hx).2

/-- After the fault of the first record the others read as before. -/
theorem FaultyList.words {d : DeckId} {a : Nat} {f : CueFault} {s t : State} {l : List (Nat × CueFault)}
    (h : FaultyList s ((a, f) :: l)) (ht : Faulted d a f s t) :
    ∀ y ∈ l, ∀ k ≤ 10, t.xm.read (y.1 + k) = s.xm.read (y.1 + k) := fun y hy =>
  ht.words (h.placed y (List.mem_cons_of_mem _ hy)) ((List.pairwise_cons.mp h.apart).1 y hy).2

theorem FaultyList.tail {d : DeckId} {a : Nat} {f : CueFault} {s t : State} {l : List (Nat × CueFault)}
    (h : FaultyList s ((a, f) :: l)) (ht : Faulted d a f s t) : FaultyList t l where
  faulty y hy :=
    ⟨faultyRecord_same (h.words ht y hy) ht.clips (h.faulty y (List.mem_cons_of_mem _ hy)).1,
      (h.faulty y (List.mem_cons_of_mem _ hy)).2⟩
  apart := (List.pairwise_cons.mp h.apart).2

/-- The faults of the other records write the same words as before the first. -/
theorem runWord_tail {d : DeckId} {a : Nat} {f : CueFault} {s t : State} {l : List (Nat × CueFault)}
    (h : FaultyList s ((a, f) :: l)) (ht : Faulted d a f s t) {b : Nat} (hb : runWord t l b) :
    runWord s ((a, f) :: l) b := by
  rcases hb with hb | ⟨y, hy, hb | ⟨i, hf, hi, hr⟩⟩
  · exact .inl hb
  · exact .inr ⟨y, List.mem_cons_of_mem _ hy, .inl hb⟩
  · exact .inr ⟨y, List.mem_cons_of_mem _ hy, .inr ⟨i, hf, by rw [← h.words ht y hy 2 (by omega), hi], hr⟩⟩

theorem FaultRun.reaches {d : DeckId} {l : List (Nat × CueFault)} {s u : State} (h : FaultRun d l s u)
    (hl : FaultyList s l) : Reaches [.decks, .counters] (runWord s l) s u := by
  induction h with
  | nil s => exact Reaches.refl _ _ s
  | cons ht _ ih =>
    refine (ht.reaches.mono (fun _ h => h) fun b hb => ?_).trans
      ((ih (hl.tail ht)).mono (fun _ h => h) fun b => runWord_tail hl ht)
    rcases hb with hb | ⟨_, hb⟩ | hb
    · exact .inl hb
    · exact .inr ⟨_, List.mem_cons_self .., .inl hb⟩
    · exact .inr ⟨_, List.mem_cons_self .., .inr hb⟩

theorem FaultRun.clips {d : DeckId} {l : List (Nat × CueFault)} {s u : State} (h : FaultRun d l s u) :
    u.clips = s.clips := by
  induction h with
  | nil => rfl
  | cons ht _ ih => exact ih.trans ht.clips

theorem FaultRun.messages {d : DeckId} {l : List (Nat × CueFault)} {s u : State} (h : FaultRun d l s u) :
    u.messages = s.messages := by
  induction h with
  | nil => rfl
  | cons ht _ ih => exact ih.trans ht.messages

theorem iterate_count_congr (c : Counter) (n : Nat) {s t : State} (h : t.counters = s.counters) :
    ((fun s => s.count c)^[n] t).counters = ((fun s => s.count c)^[n] s).counters := by
  induction n generalizing s t with
  | zero => exact h
  | succ n ih => exact ih (by rw [State.count_counters, State.count_counters, h])

theorem FaultRun.counters {d : DeckId} {l : List (Nat × CueFault)} {s u : State} (h : FaultRun d l s u) :
    u.counters = ((fun s => s.count .cueFault)^[l.length] s).counters := by
  induction h with
  | nil => rfl
  | cons ht _ ih => exact ih.trans (iterate_count_congr _ _ ht.counters)

theorem FaultRun.decks {d : DeckId} {l : List (Nat × CueFault)} {s u : State} (h : FaultRun d l s u) :
    u.decks = s.decks.set d
      { s.decks.get d with
        faultStreak := (s.decks.get d).faultStreak + l.length
        lastFault := l.getLast?.or (s.decks.get d).lastFault } := by
  induction h with
  | nil s => exact (perDeck_set_self _ _ _ rfl).symm
  | @cons a f l s t u ht _ ih =>
    rw [ih, ht.decks, PerDeck.get_set_same, perDeck_set_set]
    congr 1
    simp only [List.length_cons, DeckRec.mk.injEq, true_and, and_true]
    refine ⟨by omega, ?_⟩
    cases l with
    | nil => rfl
    | cons x l => simp [List.getLast?_cons]

theorem FaultRun.event {d : DeckId} {l : List (Nat × CueFault)} {s u : State} (h : FaultRun d l s u) (p : Port)
    (hs : l ≠ [] ∨ s.hasEvent p .cueFault) : u.hasEvent p .cueFault := by
  induction h with
  | nil => exact hs.resolve_left (absurd rfl)
  | cons ht _ ih => exact ih (.inr (ht.event p))

theorem FaultRun.completion {d : DeckId} {l : List (Nat × CueFault)} {s u : State} (h : FaultRun d l s u)
    (hl : FaultyList s l) : ∀ x ∈ l, u.completion x.1 .fault 0 (some x.2) := by
  induction h with
  | nil => simp
  | @cons a f l s t u ht hrun ih =>
    intro x hx
    rcases List.mem_cons.mp hx with rfl | hx
    · have ha := hl.placed _ (List.mem_cons_self ..)
      refine completion_of_same (ht.completion (hl.faulty _ (List.mem_cons_self ..)).2) fun b hb => ?_
      refine (hrun.reaches (hl.tail ht)).xm b ?_
      rintro (he | ⟨y, hy, hc | hc⟩)
      · exact completionWord_not_event ha hb he
      · exact apart_words ((List.pairwise_cons.mp hl.apart).1 y hy).1 hb hc
      · have hlow := lockedWord_bounds hc
        have := completionWord_bounds ha hb
        omega
    · exact ih (hl.tail ht) x hx

/-- A walk that meets as many faulty records as bring the fault streak to four is exhausted (R65). -/
theorem walk_exhausted {d : DeckId} (ctx : ReadContext) (l : List (Nat × CueFault)) (n : Nat) (s : State) (x : Nat × CueFault)
    (hl : FaultyList s (x :: l)) (hlink : (x :: l).IsChain fun x y => y.1 = (s.xm.read x.1).toNat)
    (hstreak : (s.decks.get d).faultStreak + l.length = 3) (hn : l.length < n) :
    ∃ u, FaultRun d (x :: l) s u ∧ State.walk n s d x.1 ctx = (u, .exhausted) := by
  obtain ⟨n, rfl⟩ : ∃ m, n = m + 1 := ⟨n - 1, by omega⟩
  have hx := hl.faulty x (List.mem_cons_self ..)
  have hplaced := hl.placed x (List.mem_cons_self ..)
  obtain ⟨t, ht, hwalk⟩ := walk_faulty hx.1 (inCueArea_link hplaced) n d ctx
  induction l generalizing n s x t with
  | nil =>
    refine ⟨t, .cons ht (.nil t), ?_⟩
    rw [hwalk, if_pos (by simp at hstreak; omega)]
  | cons y l ih =>
    simp only [List.length_cons] at hstreak hn
    have htail := hl.tail ht
    obtain ⟨hy, hrest⟩ := List.isChain_cons_cons.mp hlink
    have hword := hl.words ht
    have hchain : (y :: l).IsChain fun x y => y.1 = (t.xm.read x.1).toNat :=
      hrest.imp_of_mem_imp fun a b ha _ hab => by
        have := hword a ha 0 (by omega)
        rw [Nat.add_zero] at this
        rw [this]
        exact hab
    have hst : (t.decks.get d).faultStreak + l.length = 3 := by
      rw [ht.decks, PerDeck.get_set_same]
      show (s.decks.get d).faultStreak + 1 + l.length = 3
      omega
    obtain ⟨m, rfl⟩ : ∃ m, n = m + 1 := ⟨n - 1, by omega⟩
    have hyf := htail.faulty y (List.mem_cons_self ..)
    have hyp := htail.placed y (List.mem_cons_self ..)
    obtain ⟨t', ht', hwalk'⟩ := walk_faulty hyf.1 (inCueArea_link hyp) m d ctx
    obtain ⟨u, hu, hend⟩ := ih t y htail hchain hst m (by omega) hyf hyp t' ht' hwalk'
    refine ⟨u, .cons ht hu, ?_⟩
    rw [hwalk, if_neg (by omega), if_neg hx.2, ht.link hplaced, ← hy, hend]

end Sys2Proof.DecksAndCueChains

/-!
O37: what DECK_RESUME leaves by what its walk meets (R79, R84), and the statement.
-/
namespace Sys2Proof.DecksAndCueChains

open Sys2Proof.Machine

/-! ## The resume -/

/-- A record of the cue area reads the same once a command has been issued (R64, R181). -/
theorem issuedTo_record {a : Nat} (ha : inCueArea a) (s : State) (c : Command) (params : List Word) {k : Nat}
    (hk : k ≤ 15) : (s.issuedTo .a c params).xm.read (a + k) = s.xm.read (a + k) := by
  refine s.issuedTo_read _ _ _ _ ?_
  unfold inCueArea at ha
  unfold ownPage
  simp only [base]
  omega

section

variable {s : State} {deck : Word} {d : DeckId} {a : Nat}

/-- The state in which an issued DECK_RESUME walks: the fault streak at 0. -/
def resumeFrom (s : State) (deck : Word) (d : DeckId) : State :=
  (s.issuedTo .a .deckResume [deck]).onDeck d fun r => { r with faultStreak := 0 }

theorem resumeFrom_decks (s : State) (deck : Word) (d : DeckId) :
    (resumeFrom s deck d).decks = s.decks.set d { s.decks.get d with faultStreak := 0 } := rfl
@[simp] theorem resumeFrom_clips (s : State) (deck : Word) (d : DeckId) : (resumeFrom s deck d).clips = s.clips := rfl
@[simp] theorem resumeFrom_counters (s : State) (deck : Word) (d : DeckId) :
    (resumeFrom s deck d).counters = s.counters := rfl
@[simp] theorem resumeFrom_messages (s : State) (deck : Word) (d : DeckId) :
    (resumeFrom s deck d).messages = s.messages := rfl
theorem resumeFrom_forced (s : State) (deck : Word) (d : DeckId) : (resumeFrom s deck d).forced = s.forced :=
  (onDeck_forced_same _ d _ rfl).trans (State.forced_issuedTo s .a .deckResume [deck])
theorem resumeFrom_blocks (s : State) (deck : Word) (d : DeckId) :
    (resumeFrom s deck d).blocks =
      ({ s with decks := s.decks.set d { s.decks.get d with faultStreak := 0 } } : State).blocks := by
  rw [resumeFrom, onDeck_blocks, State.blocks_issuedTo]
  rfl

theorem resumeFrom_reaches (s : State) (deck : Word) (d : DeckId) {ps : List Part} (hp : Part.decks ∈ ps)
    {w : Nat → Prop} : Reaches ps w (s.issuedTo .a .deckResume [deck]) (resumeFrom s deck d) :=
  (Reaches.refl ps w (s.issuedTo .a .deckResume [deck])).deck hp d fun r => { r with faultStreak := 0 }

theorem resumeFrom_record (s : State) (deck : Word) (d : DeckId) {b k : Nat} (hb : inCueArea b) (hk : k ≤ 15) :
    (resumeFrom s deck d).xm.read (b + k) = s.xm.read (b + k) :=
  issuedTo_record hb s .deckResume [deck] hk

theorem resumeFrom_readBlock (s : State) (deck : Word) (d : DeckId) {b : Nat} (hb : inCueArea b) :
    (resumeFrom s deck d).xm.readBlock b 16 = s.xm.readBlock b 16 := by
  unfold Mem.readBlock
  refine List.map_congr_left fun k hk => resumeFrom_record s deck d hb ?_
  rw [List.mem_range] at hk
  omega

theorem resumeFrom_sameRecord (s : State) (deck : Word) (d : DeckId) {b : Nat} (hb : inCueArea b) (i : Fin 128) :
    SameRecord s (resumeFrom s deck d) b i :=
  ⟨fun _ hk => resumeFrom_record s deck d hb (by omega), ⟨(s.clip i).locks, by rw [State.clip, resumeFrom_clips]; rfl⟩,
    by rw [State.mustWait, State.mustWait, resumeFrom_clips]⟩

/-- DECK_RESUME of a SUSPENDED deck (R79). -/
theorem issue_resume (h : s.accepts .a) (hd : deck.toNat = d.number) (hr : (s.decks.get d).reading = none)
    (hs : (s.decks.get d).state = .suspended) (hres : (s.decks.get d).resumeAddress = some a) (ha : inCueArea a) :
    s.issue .a .deckResume [deck] =
      (State.walk 5 (resumeFrom s deck d) d (s.xm.read a).toNat .resume).1.finishResume d
        (State.walk 5 (resumeFrom s deck d) d (s.xm.read a).toNat .resume).2 := by
  have hlink : (resumeFrom s deck d).xm.read a = s.xm.read a :=
    resumeFrom_record s deck d ha (Nat.zero_le 15)
  have hstate : ((s.issuedTo .a .deckResume [deck]).decks.get d).state = .suspended := hs
  have hresume : ((s.issuedTo .a .deckResume [deck]).decks.get d).resumeAddress = some a := hres
  rw [issue_deck (ready_of_accepts h) toDeck_resume (by simp) hd hr]
  simp only [State.deckCommand, State.resumeDeck, hstate, hresume, State.walkFrom]
  show ((State.walk 5 (resumeFrom s deck d) d ((resumeFrom s deck d).xm.read a).toNat .resume).1.finishResume d
    (State.walk 5 (resumeFrom s deck d) d ((resumeFrom s deck d).xm.read a).toNat .resume).2).answer .a .later = _
  rw [hlink]
  rfl

theorem resumeFrom_streak : ((resumeFrom s deck d).decks.get d).faultStreak = 0 := by
  rw [resumeFrom_decks, PerDeck.get_set_same]

/-- A resume whose walk finds no record is answered with the fault of the last record met, 0 if none was (log 23). -/
theorem finishResume_ends (u : State) (d : DeckId) {o : WalkResult} (ho : o = .none ∨ o = .exhausted) :
    u.finishResume d o = u.answer .a (.done [d.number, 5, 0xFFFF,
      if (u.decks.get d).faultStreak = 0 then 0
      else ((u.decks.get d).lastFault.map fun x => cueFaultCode x.2).getD 0]) := by
  rcases ho with rfl | rfl <;> rfl

/-- A resume whose walk finds no record ends with DONE within the frame of what the walk left. -/
theorem resume_ends {u : State} {w : Nat → Prop} {ps : List Part} {n : Nat} (h : s.accepts .a)
    (hissue : s.issue .a .deckResume [deck] = u.answer .a (.done [d.number, 5, 0xFFFF, n]))
    (hm : u.messages = s.messages) (hu : Reaches ps w (s.issuedTo .a .deckResume [deck]) u)
    (hw : leavesPage w .a) :
    s.act (fun s => s.issue .a .deckResume [deck]) = (u.answer .a (.done [d.number, 5, 0xFFFF, n])).publish ∧
      s.doneWithin (s.act fun s => s.issue .a .deckResume [deck]) .a 0x0014 [d.number, 5, 0xFFFF, n] ps w := by
  have hpub := act_publish (f := fun s => s.issue .a .deckResume [deck]) h.1 hissue
    ((State.messages_answer _ _ _).trans (hm.trans h.1.2.1.1))
  refine ⟨hpub, ?_⟩
  rw [hpub]
  exact command_doneWithin (c := .deckResume) h hu hw (Reaches.refl _ _ _)

variable {r : DeckRec} {link : Nat}

theorem resume_none (h : s.accepts .a) (hd : deck.toNat = d.number) (hg : s.decks.get d = r) (hr : r.reading = none)
    (hs : r.state = .suspended) (hres : r.resumeAddress = some a) (ha : inCueArea a) (hl : link = (s.xm.read a).toNat)
    (hn : link = 0xFFFF) :
    ∃ t, Sys2Proof.Machine.exec (.deckResume .a deck) s = .next t ∧
      s.doneOnly t .a 0x0014 [d.number, 5, 0xFFFF, 0]
        { s with decks := s.decks.set d { r with faultStreak := 0 } } (fun _ => False) := by
  subst hg
  refine ⟨_, rfl, ?_⟩
  have hissue : s.issue .a .deckResume [deck] =
      (resumeFrom s deck d).answer .a (.done [d.number, 5, 0xFFFF, 0]) := by
    rw [issue_resume h hd hr hs hres ha, ← hl, hn, walk_none, finishResume_ends _ _ (.inl rfl), resumeFrom_streak]
    rfl
  rw [act_publish (f := fun s => s.issue .a .deckResume [deck]) h.1 hissue
    (by rw [State.messages_answer, resumeFrom_messages, h.1.2.1.1])]
  refine command_doneOnly (c := .deckResume) h (resumeFrom_reaches s deck d (List.mem_singleton_self _))
    (leavesPage_none _) (Reaches.refl _ _ _) _ ?_ ?_
  · rw [State.blocks_answer, resumeFrom_blocks]
  · rw [State.forced_answer, resumeFrom_forced, h.1.2.1.2]

theorem resume_found (h : s.accepts .a) (hd : deck.toNat = d.number) (hg : s.decks.get d = r) (hr : r.reading = none)
    (hs : r.state = .suspended) (hres : r.resumeAddress = some a) (ha : inCueArea a) (hl : link = (s.xm.read a).toNat)
    (i : Fin 128) (hi : s.goodRecord link i) :
    ∃ t, Sys2Proof.Machine.exec (.deckResume .a deck) s = .next t ∧
      t.decks = s.decks.set d
        { r with
          state := .loading, playPending := true, next := none, lookahead := .notMade, resumeAddress := none
          faultStreak := 0
          current := some
            (cueOf link (s.xm.readBlock link 16) i (s.clip i).first (s.clip i).pages (s.clip i).sealed) } ∧
      t.clips = s.lockTaken i ∧ t.completion link .queued 0 none ∧
      s.doneWithin t .a 0x0014 [d.number, 1, link, 0] [.decks, .clips] (completionWord link) := by
  subst hg
  refine ⟨_, rfl, ?_⟩
  have hsame : SameRecord s (resumeFrom s deck d) link i := resumeFrom_sameRecord s deck d hi.1 i
  have hissue : s.issue .a .deckResume [deck] =
      ((goodRead (resumeFrom s deck d) d link i).loadPending d (foundCue s link i)).answer .a
        (.done [d.number, 1, link, 0]) := by
    rw [issue_resume h hd hr hs hres ha, ← hl, walk_good (hsame.goodRecord hi), hsame.foundCue]
    rfl
  have hx : Reaches [.decks, .clips] (completionWord link) (s.issuedTo .a .deckResume [deck])
      ((goodRead (resumeFrom s deck d) d link i).loadPending d (foundCue s link i)) :=
    ((resumeFrom_reaches s deck d (by simp)).trans (goodRead_reaches _ d link i)).deck (by simp) d _
  rw [act_publish (f := fun s => s.issue .a .deckResume [deck]) h.1 hissue (by simp [h.1.2.1.1])]
  refine ⟨?_, ?_, completion_publish hi.1 ?_, command_doneWithin (c := .deckResume) h hx
    (leavesPage_completion hi.1 _) (Reaches.refl _ _ _)⟩
  · rw [State.publish_decks, answer_decks, loadPending_decks, goodRead_decks, resumeFrom_decks]
    simp only [perDeck_set_set, PerDeck.get_set_same]
    rfl
  · rw [State.publish_clips, answer_clips, loadPending_clips, goodRead_clips, State.lockTaken, State.lockTaken, State.clip,
      State.clip, resumeFrom_clips]
  · refine completion_of_same (goodRead_completion (resumeFrom s deck d) d link i) fun b hb => ?_
    exact State.answer_read _ _ _ _ (completionWord_not_ownPage hi.1 hb _)

theorem resume_waits (h : s.accepts .a) (hd : deck.toNat = d.number) (hg : s.decks.get d = r) (hr : r.reading = none)
    (hs : r.state = .suspended) (hres : r.resumeAddress = some a) (ha : inCueArea a) (hl : link = (s.xm.read a).toNat)
    (hlink : inCueArea link) (hclip : (s.xm.read (link + 2)).toNat < 128) (hw : ¬ s.storeFree) :
    ∃ t, Sys2Proof.Machine.exec (.deckResume .a deck) s = .next t ∧
      s.busyOnly t .a 0x0014 [deck]
        { s with
          decks := s.decks.set d
            { r with faultStreak := 0, reading := some ⟨link, s.xm.readBlock link 16, .resume⟩ }
          clips := { s.clips with waiting := s.clips.waiting ++ [.deckRead d] } } := by
  subst hg
  refine ⟨_, rfl, ?_⟩
  have hword : (resumeFrom s deck d).xm.read (link + 2) = s.xm.read (link + 2) :=
    resumeFrom_record s deck d hlink (by omega)
  have hissue : s.issue .a .deckResume [deck] =
      ((resumeFrom s deck d).onDeck d fun r =>
        { r with reading := some ⟨link, s.xm.readBlock link 16, .resume⟩ }).enqueue (.deckRead d) := by
    have hwalk := walk_waits (s := resumeFrom s deck d) hlink (by rw [hword]; exact hclip) hw 4 d .resume
    rw [resumeFrom_readBlock s deck d hlink] at hwalk
    rw [issue_resume h hd hr hs hres ha, ← hl, hwalk]
    rfl
  rw [act_publish (f := fun s => s.issue .a .deckResume [deck]) h.1 hissue (by simp [h.1.2.1.1])]
  have hx : Reaches [.decks, .clips] (fun _ => False) (s.issuedTo .a .deckResume [deck])
      (((resumeFrom s deck d).onDeck d fun r =>
        { r with reading := some ⟨link, s.xm.readBlock link 16, .resume⟩ }).enqueue (.deckRead d)) :=
    ((resumeFrom_reaches s deck d (by simp)).deck (by simp) d _).enqueue (by simp) _
  refine command_busyOnly (c := .deckResume) (by simp) hx _ ?_ ?_
  · rw [enqueue_blocks, onDeck_blocks, resumeFrom_decks, resumeFrom_blocks, PerDeck.get_set_same, perDeck_set_set,
      State.onDeck_clips, resumeFrom_clips]
    rfl
  · rw [State.enqueue_forced, onDeck_forced_same _ d _ rfl, resumeFrom_forced, h.1.2.1.2]

/-- A fault met by a resume stays marked through its answer and publication. -/
theorem resume_marked {f : CueFault} {u : State} {rs : List Nat} {b : Nat} (hm : u.completion b .fault 0 (some f))
    (hb : inCueArea b) : (u.answer .a (.done rs)).publish.completion b .fault 0 (some f) :=
  completion_publish hb (completion_of_same hm fun _ hx =>
    State.answer_read _ _ _ _ (completionWord_not_ownPage hb hx _))

theorem resume_event {u : State} {rs : List Nat} {p : Port} (hm : u.hasEvent p .cueFault) :
    (u.answer .a (.done rs)).publish.hasEvent p .cueFault := by
  refine hasEvent_publish (hasEvent_of_same hm (State.answer_read _ _ _ _ ?_))
  unfold ownPage
  cases p <;> simp [base]

theorem resume_badAddress (h : s.accepts .a) (hd : deck.toNat = d.number) (hg : s.decks.get d = r)
    (hr : r.reading = none) (hs : r.state = .suspended) (hres : r.resumeAddress = some a) (ha : inCueArea a)
    (hl : link = (s.xm.read a).toNat) (hne : link ≠ 0xFFFF) (hout : ¬ inCueArea link) :
    ∃ t, Sys2Proof.Machine.exec (.deckResume .a deck) s = .next t ∧ s.marksFault t link .badAddress ∧
      t.decks = s.decks.set d { r with faultStreak := 1, lastFault := some (link, .badAddress) } ∧
      s.doneWithin t .a 0x0014 [d.number, 5, 0xFFFF, cueFaultCode .badAddress] [.decks, .counters] eventWord := by
  subst hg
  obtain ⟨u, hu, hwalk⟩ := walk_faulty (s := resumeFrom s deck d) (a := link) (f := .badAddress)
    (.inl ⟨hout, rfl⟩) hne 4 d .resume
  have hdeck : u.decks.get d =
      { s.decks.get d with faultStreak := 1, lastFault := some (link, .badAddress) } := by
    rw [hu.decks, PerDeck.get_set_same, resumeFrom_decks, PerDeck.get_set_same]
  have hissue : s.issue .a .deckResume [deck] =
      u.answer .a (.done [d.number, 5, 0xFFFF, cueFaultCode .badAddress]) := by
    rw [issue_resume h hd hr hs hres ha, ← hl, hwalk, resumeFrom_streak, if_neg (by omega), if_pos rfl,
      finishResume_ends _ _ (.inl rfl), hdeck]
    rfl
  have hreach : Reaches [.decks, .counters] eventWord (s.issuedTo .a .deckResume [deck]) u :=
    (resumeFrom_reaches s deck d (by simp)).trans (hu.reaches.mono (fun _ h => h) fun b hb => by
      rcases hb with hb | ⟨hf, _⟩ | ⟨_, hf, _⟩
      · exact hb
      · exact absurd rfl hf
      · cases hf)
  obtain ⟨hpub, hdone⟩ := resume_ends h hissue hu.messages hreach (leavesPage_event _)
  refine ⟨_, rfl, ⟨fun hf => absurd rfl hf, fun p => ?_, ?_⟩, ?_, hdone⟩
  · rw [hpub]
    exact resume_event (hu.event p)
  · rw [hpub, State.publish_counters, answer_counters, hu.counters, State.count_counters, resumeFrom_counters]
    rfl
  · rw [hpub, State.publish_decks, answer_decks, hu.decks, resumeFrom_decks, perDeck_set_set, PerDeck.get_set_same]

/-- Four records and their faults, in the order of a walk. -/
def fourFaults (l : Fin 4 → Nat) (f : Fin 4 → CueFault) : List (Nat × CueFault) :=
  [(l 0, f 0), (l 1, f 1), (l 2, f 2), (l 3, f 3)]

theorem mem_fourFaults {l : Fin 4 → Nat} {f : Fin 4 → CueFault} {x : Nat × CueFault} :
    x ∈ fourFaults l f ↔ ∃ i, x = (l i, f i) := by
  simp [fourFaults, Fin.exists_fin_succ]

theorem fourFaults_faulty {u : State} {l : Fin 4 → Nat} {f : Fin 4 → CueFault}
    (hf : ∀ i, u.faultyRecord (l i) (f i) ∧ f i ≠ .badAddress)
    (hapart : ∀ i j, i ≠ j → apart (l i) (l j) ∧ readApart (l i) (l j)) : FaultyList u (fourFaults l f) := by
  refine ⟨fun x hx => ?_, ?_⟩
  · obtain ⟨i, rfl⟩ := mem_fourFaults.mp hx
    exact hf i
  · simp only [fourFaults, List.pairwise_cons, List.mem_cons, List.not_mem_nil, or_false, forall_eq_or_imp, forall_eq,
      false_implies, implies_true, List.Pairwise.nil, and_true]
    exact ⟨⟨hapart 0 1 (by decide), hapart 0 2 (by decide), hapart 0 3 (by decide)⟩,
      ⟨hapart 1 2 (by decide), hapart 1 3 (by decide)⟩, hapart 2 3 (by decide)⟩

theorem fourFaults_chain {u : State} {l : Fin 4 → Nat} {f : Fin 4 → CueFault}
    (h : ∀ i j : Fin 4, j.val = i.val + 1 → l j = (u.xm.read (l i)).toNat) :
    (fourFaults l f).IsChain fun x y => y.1 = (u.xm.read x.1).toNat := by
  simp only [fourFaults, List.isChain_cons_cons, List.isChain_singleton, and_true]
  exact ⟨h 0 1 rfl, h 1 2 rfl, h 2 3 rfl⟩

theorem resume_exhausted (h : s.accepts .a) (hd : deck.toNat = d.number) (hg : s.decks.get d = r)
    (hr : r.reading = none) (hs : r.state = .suspended) (hres : r.resumeAddress = some a) (ha : inCueArea a)
    (hl : link = (s.xm.read a).toNat) (l : Fin 4 → Nat) (f : Fin 4 → CueFault) (h0 : l 0 = link)
    (hf : ∀ i, s.faultyRecord (l i) (f i) ∧ f i ≠ .badAddress)
    (hchain : ∀ i j : Fin 4, j.val = i.val + 1 → l j = (s.xm.read (l i)).toNat)
    (hapart : ∀ i j, i ≠ j → apart (l i) (l j) ∧ readApart (l i) (l j)) :
    ∃ t, Sys2Proof.Machine.exec (.deckResume .a deck) s = .next t ∧
      (∀ i, t.completion (l i) .fault 0 (some (f i))) ∧ (∀ p, t.hasEvent p .cueFault) ∧ t.clips = s.clips ∧
      t.counters = (((s.count .cueFault).count .cueFault).count .cueFault |>.count .cueFault).counters ∧
      t.decks = s.decks.set d { r with faultStreak := 4, lastFault := some (l 3, f 3) } ∧
      s.doneWithin t .a 0x0014 [d.number, 5, 0xFFFF, cueFaultCode (f 3)] [.decks, .counters]
        (fun b => eventWord b ∨ ∃ i, completionWord (l i) b ∨ s.lockedWord (l i) (f i) b) := by
  subst hg
  have hplaced : ∀ i, inCueArea (l i) := fun i => faultyRecord_placed (hf i).1 (hf i).2
  have hwords : ∀ i, ∀ k ≤ 10, (resumeFrom s deck d).xm.read (l i + k) = s.xm.read (l i + k) :=
    fun i k hk => resumeFrom_record s deck d (hplaced i) (by omega)
  have hlist : FaultyList (resumeFrom s deck d) (fourFaults l f) := fourFaults_faulty
    (fun i => ⟨faultyRecord_same (hwords i) (resumeFrom_clips s deck d) (hf i).1, (hf i).2⟩) hapart
  have hlinks : (fourFaults l f).IsChain fun x y => y.1 = ((resumeFrom s deck d).xm.read x.1).toNat :=
    fourFaults_chain fun i j hij => (hchain i j hij).trans (congrArg _ (hwords i 0 (by omega)).symm)
  obtain ⟨u, hu, hwalk⟩ := walk_exhausted (d := d) .resume _ 5 _ _ hlist hlinks (by rw [resumeFrom_streak]; rfl) (by simp)
  have hwalk' : State.walk 5 (resumeFrom s deck d) d link .resume = (u, .exhausted) := by
    rw [← h0]
    exact hwalk
  have hdeck : u.decks.get d = { s.decks.get d with faultStreak := 4, lastFault := some (l 3, f 3) } := by
    rw [hu.decks, PerDeck.get_set_same, resumeFrom_decks, PerDeck.get_set_same]
    rfl
  have hissue : s.issue .a .deckResume [deck] =
      u.answer .a (.done [d.number, 5, 0xFFFF, cueFaultCode (f 3)]) := by
    rw [issue_resume h hd hr hs hres ha, ← hl, hwalk', finishResume_ends _ _ (.inr rfl), hdeck]
    rfl
  have hlocked : ∀ i b, (resumeFrom s deck d).lockedWord (l i) (f i) b → s.lockedWord (l i) (f i) b := by
    rintro i b ⟨j, hj, hclip, hin⟩
    exact ⟨j, hj, by rw [← hwords i 2 (by omega)]; exact hclip, hin⟩
  have hreach : Reaches [.decks, .counters]
      (fun b => eventWord b ∨ ∃ i, completionWord (l i) b ∨ s.lockedWord (l i) (f i) b)
      (s.issuedTo .a .deckResume [deck]) u :=
    (resumeFrom_reaches s deck d (by simp)).trans ((hu.reaches hlist).mono (fun _ h => h) fun b hb => by
      refine hb.imp id ?_
      rintro ⟨x, hx, hb⟩
      obtain ⟨i, rfl⟩ := mem_fourFaults.mp hx
      exact ⟨i, hb.imp id (hlocked i b)⟩)
  have hpage : leavesPage (fun b => eventWord b ∨ ∃ i, completionWord (l i) b ∨ s.lockedWord (l i) (f i) b) .a := by
    rintro n hn h51 (hb | ⟨i, hb | hb⟩)
    · exact leavesPage_event .a n hn h51 hb
    · exact leavesPage_completion (hplaced i) .a n hn h51 hb
    · exact leavesPage_locked s _ _ .a n hn h51 hb
  obtain ⟨hpub, hdone⟩ := resume_ends h hissue hu.messages hreach hpage
  refine ⟨_, rfl, fun i => ?_, fun p => ?_, ?_, ?_, ?_, hdone⟩
  · rw [hpub]
    exact resume_marked (hu.completion hlist _ (mem_fourFaults.mpr ⟨i, rfl⟩)) (hplaced i)
  · rw [hpub]
    exact resume_event (hu.event p (.inl (by simp)))
  · rw [hpub, State.publish_clips, answer_clips, hu.clips, resumeFrom_clips]
  · rw [hpub, State.publish_counters, answer_counters, hu.counters,
      iterate_count_congr .cueFault _ (resumeFrom_counters s deck d)]
    rfl
  · rw [hpub, State.publish_decks, answer_decks, hu.decks, resumeFrom_decks, perDeck_set_set, PerDeck.get_set_same]
    rfl

end

/-! ## The statement -/

/-- DECK_RESUME of any other deck is BAD_STATE (R79). -/
theorem resume_badState {s : State} {deck : Word} {d : DeckId} (h : s.accepts .a) (hd : deck.toNat = d.number)
    (hr : (s.decks.get d).reading = none) (hs : (s.decks.get d).state ≠ .suspended) :
    ∃ t, Sys2Proof.Machine.exec (.deckResume .a deck) s = .next t ∧ s.refusedOnly t .a 0x0014 .badState := by
  have hu : ((s.issuedTo .a .deckResume [deck]).decks.get d).state ≠ .suspended := hs
  obtain ⟨t, ht, href⟩ := deck_refused h toDeck_resume (rest := []) (by simp) hd hr .badState (by
    simp only [State.deckCommand, State.resumeDeck]
    split
    · rename_i hst _
      exact absurd hst hu
    · rfl)
  exact ⟨t, congrArg _ ht, href⟩

/-- Settles O37: LOOKAHEAD and DECK_RESUME by what their walks meet. -/
theorem lookaheadsAndResumes : Obligations.LookaheadsAndResumes := by
  refine ⟨fun s d r c link h hd hc hl => ⟨fun hout => ?_, fun hm hholds hfetched hr => ?_⟩,
    fun s deck h hd => ?_, fun s deck d h hd hr => ?_,
    fun s deck d r h hd hg hr => ⟨fun hs => resume_badState h hd (hg ▸ hr) (hg ▸ hs), fun a link hs hres ha hl => ?_⟩⟩
  · have hdue : r.lookaheadDue = false := by
      rw [Bool.eq_false_iff, ne_eq, lookaheadDue_iff hc]
      rintro ⟨h1, h2, h3, h4⟩
      rcases hout with hout | hout | hout | hout
      · exact hout h1
      · simp [h2] at hout
      · omega
      · exact hout h4
    rw [exec_lookahead, deckAct_same _ _ h (makeLookahead_notDue s d (hd ▸ hdue))]
  · have hdue : r.lookaheadDue = true := (lookaheadDue_iff hc).mpr ⟨hm, hholds, hfetched, hr⟩
    exact ⟨lookahead_none h hd hc hl hdue, lookahead_found h hd hc hl hdue,
      fun ha hclip hw => lookahead_waits h hd hc hl hdue ha hclip hw,
      fun f hf hne hend => lookahead_faulty_ends h hd hc hl hdue f hf hne hend,
      fun f link' hf hne h3 hl' hread =>
        ⟨lookahead_faulty_then_none h hd hc hl hdue f link' hf hne h3 hl',
          fun i hi hapart => lookahead_faulty_then_found h hd hc hl hdue f link' hf hne h3 hl' hread i hi hapart⟩⟩
  · obtain ⟨t, ht, href⟩ := noDeck_refused h toDeck_resume (rest := []) (by simp) hd
    exact ⟨t, congrArg _ ht, href⟩
  · obtain ⟨t, ht, hbusy⟩ := held_busy h toDeck_resume (rest := []) (by simp) hd hr
    exact ⟨t, congrArg _ ht, hbusy⟩
  · exact ⟨resume_none h hd hg hr hs hres ha hl, resume_found h hd hg hr hs hres ha hl,
      fun hlink hclip hw => resume_waits h hd hg hr hs hres ha hl hlink hclip hw,
      fun hne hout => resume_badAddress h hd hg hr hs hres ha hl hne hout,
      fun l f h0 hf hchain hapart => resume_exhausted h hd hg hr hs hres ha hl l f h0 hf hchain hapart⟩

end Sys2Proof.DecksAndCueChains

/-!
A deck's source: what a RAMP and a CUT of it leave, the notices they send the deck, and what the deck takes of them (R7 to R9,
R12, R82).
-/
namespace Sys2Proof.DecksAndCueChains

open Sys2Proof.Machine

/-! ## Messages delivered one after another -/

/-- The first n messages of a state, those they give rise to among them, delivered leave another. -/
def Drains (n : Nat) (s v : State) : Prop := ∀ k, s.drainMessages (n + k) = v.drainMessages k

theorem Drains.refl (s : State) : Drains 0 s s := fun k => by rw [Nat.zero_add]

theorem Drains.trans {m n : Nat} {s u v : State} (h : Drains m s u) (g : Drains n u v) : Drains (m + n) s v := fun k => by
  rw [Nat.add_assoc, h, g]

theorem Drains.one {s u : State} {m : Message} {t : List Message} (hm : s.messages = m :: t)
    (hu : ({ s with messages := t } : State).deliver m = u) : Drains 1 s u := fun k => by
  rw [Nat.add_comm, State.drainMessages_cons _ _ _ _ hm, hu]

/-- A state whose messages are all delivered so is drained. -/
theorem Drains.drain {n : Nat} {s v : State} (h : Drains n s v) (hn : n ≤ 1000) (hv : v.messages = []) : s.drain = v := by
  obtain ⟨k, hk⟩ := Nat.exists_eq_add_of_le hn
  unfold State.drain
  rw [hk, h k, State.drainMessages_nil _ _ hv, ← hv]

/-! ## The source -/

/-- A deck's source put into the air map changes nothing else of it (R15). -/
theorem withSource_deck (a : AirMap) (d : DeckId) (r : SourceRec) :
    a.withSource (.deck d) r = { a with sources := a.sources.set (.deck d) r } := by
  simp [AirMap.withSource]

theorem withSource_get (a : AirMap) (d : DeckId) (r : SourceRec) :
    (a.withSource (.deck d) r).sources.get (.deck d) = r := by
  rw [withSource_deck, PerSource.get_set_same]

theorem withSource_self (a : AirMap) (d : DeckId) : a.withSource (.deck d) (a.sources.get (.deck d)) = a := by
  rw [withSource_deck]
  cases d <;> rfl

/-- The record a RAMP of a deck's source leaves (R7, R8). -/
def rampedRec (a : AirMap) (d : DeckId) (T S : Nat) : SourceRec :=
  (a.sources.get (.deck d)).ramped a.hold (.deck d) (min T 32768) (min S 480000)

/-- The notices a RAMP of a deck's source sends: a change of state, and silent where it becomes HELD (R8, R12). -/
def rampNotices (d : DeckId) (old new : SourceRec) : List Message :=
  stateNotice (.deck d) old new ++ if old.state ≠ .held ∧ new.state = .held then [.silent (.deck d)] else []

theorem rampTo_not_held (r : SourceRec) (T S : Nat) : (r.rampTo T S).state ≠ .held := by
  unfold SourceRec.rampTo
  split
  · simp
  · split
    · simp
    · simp only
      split <;> simp

/-- A RAMP leaves a deck's source HELD where it was, or where it was OFF under hold and the target is not 0 (R8). -/
theorem rampedRec_held_iff (a : AirMap) (d : DeckId) (T S : Nat) :
    (rampedRec a d T S).state = .held ↔ (a.sources.get (.deck d)).state = .held ∨
      (a.hold = true ∧ (a.sources.get (.deck d)).state = .off ∧ min T 32768 ≠ 0) := by
  unfold rampedRec SourceRec.ramped
  by_cases hheld : (a.sources.get (.deck d)).state = .held
  · simp [hheld]
  · by_cases hoff : a.hold = true ∧ (a.sources.get (.deck d)).state = .off
    · by_cases hT : min T 32768 = 0
      · simp [hoff, hT]
      · simp [hoff, hT]
    · simp only [reduceCtorEq, if_false, hheld, hoff, rampTo_not_held, false_or, false_iff]
      exact fun ⟨h1, h2, _⟩ => hoff ⟨h1, h2⟩

/-- What a RAMP of a deck's source leaves (R7, R8, R12). -/
theorem airRamp_deck (s : State) (d : DeckId) (T S : Nat) :
    (s.airRamp (.deck d) T S).1 = ({ s with air := s.air.ramped (.deck d) T S } : State).tell
      (rampNotices d (s.air.sources.get (.deck d)) (rampedRec s.air d T S)) := by
  have hput : ∀ r, s.air.put (.deck d) r = s.air.withSource (.deck d) r := fun r => AirMap.put_eq_withSource _ _ _
  unfold State.airRamp AirMap.ramped rampedRec SourceRec.ramped
  by_cases hheld : (s.air.sources.get (.deck d)).state = .held
  · simp [hheld, hput, rampNotices, stateNotice, State.tell, Config.unity]
  · by_cases hoff : s.air.hold = true ∧ (s.air.sources.get (.deck d)).state = .off
    · by_cases hT : min T 32768 = 0
      · simp [hoff, hT, rampNotices, stateNotice, State.tell, Config.unity, withSource_self]
      · simp [hoff, hT, hput, rampNotices, stateNotice, Config.unity]
    · have hnot := rampTo_not_held (s.air.sources.get (.deck d)) (min T 32768) (min S 480000)
      simp [hheld, hoff, hput, rampNotices, Config.unity, Config.maxRamp, hnot]

/-- A RAMP of a deck's source is deferred where it leaves it HELD (R8). -/
theorem airRamp_deferred_iff (s : State) (d : DeckId) (T S : Nat) :
    (s.airRamp (.deck d) T S).2 = .deferred ↔ (rampedRec s.air d T S).state = .held := by
  rw [rampedRec_held_iff]
  unfold State.airRamp
  by_cases hheld : (s.air.sources.get (.deck d)).state = .held
  · simp [hheld]
  · by_cases hoff : s.air.hold = true ∧ (s.air.sources.get (.deck d)).state = .off
    · by_cases hT : min T 32768 = 0
      · simp [hoff, hT, Config.unity]
      · simp [hoff, hT, Config.unity]
    · have hanswer : (s.air.sources.get (.deck d)).rampAnswer (min T 32768) ≠ .deferred := by
        unfold SourceRec.rampAnswer
        split <;> simp
      simp only [reduceCtorEq, if_false, hheld, hoff, Config.unity, hanswer, false_or, false_iff]
      exact fun ⟨h1, h2, _⟩ => hoff ⟨h1, h2⟩

/-- The record a CUT leaves of a source (R9). -/
def cutRec (r : SourceRec) : SourceRec := ⟨.off, 0, { r.ramp with target := 0, running := false }, none⟩

/-- A deck's source cut unless it is OFF: the air map, and the notice sent (R9, R12). -/
theorem airCut_deck (s : State) (d : DeckId) :
    (if (s.air.sources.get (.deck d)).state = .off then s else (s.airCut (.deck d)).1) =
      ({ s with air := s.air.cutOff (.deck d) } : State).tell
        (stateNotice (.deck d) (s.air.sources.get (.deck d)) (cutRec (s.air.sources.get (.deck d)))) := by
  have hput : ∀ r, s.air.put (.deck d) r = s.air.withSource (.deck d) r := fun r => AirMap.put_eq_withSource _ _ _
  unfold AirMap.cutOff
  by_cases hoff : (s.air.sources.get (.deck d)).state = .off
  · simp [hoff, stateNotice, cutRec, State.tell]
  · simp [hoff, State.airCut, hput, cutRec]

theorem cutOff_withSource (a : AirMap) (d : DeckId) :
    ((a.cutOff (.deck d)).sources.get (.deck d)).state = .off ∧
      a.cutOff (.deck d) = a.withSource (.deck d) ((a.cutOff (.deck d)).sources.get (.deck d)) := by
  unfold AirMap.cutOff
  by_cases hoff : (a.sources.get (.deck d)).state = .off
  · simp [hoff, withSource_self]
  · simp [hoff, withSource_get]

/-! ## A deck that a notice leaves as it is -/

/-- A notice of its source's state leaves a deck as it is (R76, R82, R83). -/
structure Unmoved (r : DeckRec) (st : SourceState) : Prop where
  free : r.reading = none
  held : st = .held → r.state ≠ .playing
  released : st ≠ .held → r.state ≠ .held ∧ r.state ≠ .loading
  ended : st = .off → r.live = true → r.pendingEnd = .none

theorem deliver_unmoved {s : State} {d : DeckId} {n : StateNotice} (h : Unmoved (s.decks.get d) n.state) :
    s.deliver (.state (.deck d) n) = s := by
  show s.deckTake d (.state n) = s
  simp only [State.deckTake, h.free, Option.isSome_none, Bool.false_eq_true, if_false, State.deckHandle, State.deckState]
  by_cases hn : n.state = .held
  · rw [if_pos hn, if_neg (h.held hn)]
  · obtain ⟨h1, h2⟩ := h.released hn
    rw [if_neg hn]
    split
    · rename_i hst
      exact absurd hst h1
    · rename_i hst
      exact absurd hst h2
    · split
      · rename_i hend
        exact s.endPending_none d (h.ended hend.1 hend.2)
      · rfl

/-- A silent notice taken by a deck on the air with no end pending (R82). -/
theorem deliver_silent_deck {s : State} {d : DeckId} (hr : (s.decks.get d).reading = none)
    (hp : (s.decks.get d).pendingEnd = .none) :
    s.deliver (.silent (.deck d)) = s.onDeck d fun r => { r with heldSilent := true } := by
  show s.deckTake d .silent = _
  simp only [State.deckTake, hr, Option.isSome_none, Bool.false_eq_true, if_false, State.deckHandle, State.deckSilent]
  rw [State.endPending_none _ _ (by simpa using hp), ite_self]

/-- A change of state of a deck's source whose notice leaves the deck as it is. -/
theorem drains_stateNotice {s : State} {d : DeckId} {old new : SourceRec} {t : List Message}
    (hm : s.messages = stateNotice (.deck d) old new ++ t)
    (h : old.state ≠ new.state → Unmoved (s.decks.get d) new.state) :
    ∃ n ≤ 1, Drains n s { s with messages := t } := by
  by_cases heq : old.state = new.state
  · refine ⟨0, by omega, ?_⟩
    have hs : ({ s with messages := t } : State) = s := by
      rw [show t = s.messages by simpa [stateNotice, heq] using hm.symm]
    rw [hs]
    exact Drains.refl s
  · exact ⟨1, le_refl _, Drains.one (t := t) (by simpa [stateNotice, heq] using hm) (deliver_unmoved (h heq))⟩

/-- A step that ends with such a notice drains to the same state without it. -/
theorem drain_stateNotice {s : State} {d : DeckId} {old new : SourceRec}
    (hm : s.messages = stateNotice (.deck d) old new)
    (h : old.state ≠ new.state → Unmoved (s.decks.get d) new.state) :
    s.drain = { s with messages := [] } := by
  obtain ⟨n, hn, hd⟩ := drains_stateNotice (t := []) (by rw [hm, List.append_nil]) h
  exact hd.drain (by omega) rfl

end Sys2Proof.DecksAndCueChains

/-!
The locks of a deck's cues given back, and a deck entering IDLE or SUSPENDED (R53, R63, R74).
-/
namespace Sys2Proof.DecksAndCueChains

open Sys2Proof.Machine

/-! ## Locks given back -/

/-- A lock given back that frees no clip (R53). -/
theorem unlockClip_keeps {s : State} {i : Fin 128} (h : s.keepsClip i) :
    s.unlockClip i = s.onClip i fun e => { e with locks := e.locks - 1 } := by
  obtain ⟨hfree, hlocks, hstays⟩ := h
  have hmust : s.mustWait = false := hfree
  have hret : ¬ ((s.clip i).locks = 1 ∧ (s.clip i).state = .retiring) := fun ⟨h1, h2⟩ =>
    hstays.elim (fun h => h h1) fun h => h h2
  simp only [State.unlockClip, hmust, Bool.false_eq_true, if_false, State.unlockNow, hlocks, hret]

/-- One lock of each clip of a list given back. -/
def unlockAll (s : State) (l : List (Fin 128)) : State := l.foldl State.unlockClip s

theorem keepsClips_head {s : State} {i : Fin 128} {l : List (Fin 128)} (h : s.keepsClips (i :: l)) : s.keepsClip i := by
  obtain ⟨hfree, hall⟩ := h
  obtain ⟨hcount, hstays⟩ := hall i (by simp)
  rw [List.count_cons_self] at hcount hstays
  exact ⟨hfree, by omega, hstays.imp (by omega) id⟩

theorem keepsClips_single {s : State} {i : Fin 128} (h : s.keepsClip i) : s.keepsClips [i] := by
  obtain ⟨hfree, hlocks, hstays⟩ := h
  refine ⟨hfree, fun j hj => ?_⟩
  rw [List.mem_singleton] at hj
  subst hj
  rw [List.count_singleton_self]
  exact ⟨by omega, hstays.imp (by omega) id⟩

theorem onClip_clip (s : State) (i j : Fin 128) (f : ClipEntry → ClipEntry) :
    (s.onClip i f).clip j = if j = i then f (s.clip i) else s.clip j := by
  show (s.clips.table.set i (f (s.clip i)))[j] = _
  by_cases hj : j = i
  · subst hj
    simp
  · rw [if_neg hj, Fin.getElem_fin, Vector.getElem_set_ne _ _ fun e => hj (Fin.ext e.symm)]
    rfl

theorem keepsClips_tail {s : State} {i : Fin 128} {l : List (Fin 128)} (h : s.keepsClips (i :: l)) :
    (s.onClip i fun e => { e with locks := e.locks - 1 }).keepsClips l := by
  obtain ⟨hfree, hall⟩ := h
  refine ⟨hfree, fun j hj => ?_⟩
  obtain ⟨hcount, hstays⟩ := hall j (by simp [hj])
  rw [onClip_clip]
  by_cases hij : j = i
  · subst hij
    rw [List.count_cons_self] at hcount hstays
    rw [if_pos rfl]
    exact ⟨by simp only; omega, hstays.imp (fun h => by simp only; omega) id⟩
  · rw [List.count_cons_of_ne fun e => hij e.symm] at hcount hstays
    rw [if_neg hij]
    exact ⟨hcount, hstays⟩

/-- What locks given back that free no clip leave (R53). -/
structure Unlocked (l : List (Fin 128)) (s u : State) : Prop where
  clips : u.clips = s.clips.released l
  messages : u.messages = s.messages
  xm : u.xm = s.xm
  reaches : Reaches [.clips] (fun _ => False) s u

theorem unlockAll_keeps (l : List (Fin 128)) : ∀ s : State, s.keepsClips l → Unlocked l s (unlockAll s l) := by
  induction l with
  | nil => exact fun s _ => ⟨rfl, rfl, rfl, Reaches.refl _ _ s⟩
  | cons i l ih =>
    intro s h
    have htail := ih _ (keepsClips_tail h)
    rw [unlockAll, List.foldl_cons, unlockClip_keeps (keepsClips_head h)]
    exact ⟨htail.clips, htail.messages, htail.xm, ((Reaches.refl _ _ s).clip (by simp) i _).trans htail.reaches⟩

/-- Locks given back that free no clip, if there is any (R53). -/
theorem unlockAll_unlocked {l : List (Fin 128)} {s : State} (h : l ≠ [] → s.keepsClips l) :
    Unlocked l s (unlockAll s l) := by
  cases l with
  | nil => exact ⟨rfl, rfl, rfl, Reaches.refl _ _ s⟩
  | cons i l => exact unlockAll_keeps _ s (h (by simp))

theorem unlocked_one {s : State} {i : Fin 128} (h : s.keepsClip i) :
    Unlocked [i] s (s.unlockClip i) := unlockAll_keeps [i] s (keepsClips_single h)

theorem released_one (s : State) (i : Fin 128) : s.clips.released [i] = s.lockReleased i := rfl

/-- The locks of a deck's cues given back, current first (R74). -/
theorem releaseCues (s : State) (r : DeckRec) :
    (s.releaseCue r.current).releaseCue r.next = unlockAll s r.clips := by
  unfold DeckRec.clips unlockAll
  cases r.current <;> cases r.next <;> rfl

/-! ## Entering IDLE or SUSPENDED (R74) -/

/-- The next cue given up is written PENDING (R63, R74). -/
def abandonNext (s : State) (n : Option Cue) : State :=
  match n with
  | some n => s.writeCompletion n.address .pending 0 none
  | none => s

/-- A deck's record at rest, and the words and events of its parting, as `State.rest` makes them one after another. -/
theorem rest_steps (s : State) (d : DeckId) (resume : Option Nat) :
    s.rest d resume =
      let r := s.decks.get d
      let u := (abandonNext (unlockAll ((({ s with air := s.air.cutOff (.deck d) } : State).tell
        (stateNotice (.deck d) (s.air.sources.get (.deck d)) (cutRec (s.air.sources.get (.deck d))))).endGrantOf
          (.deck d) false) r.clips) r.next).onDeck d fun r => r.atRest resume
      if raisesStopped r.notify r.state resume.isNone then u.raiseAll .deckStopped else u := by
  dsimp only
  rw [← releaseCues, ← airCut_deck]
  rfl

theorem abandonNext_messages (s : State) (n : Option Cue) : (abandonNext s n).messages = s.messages := by
  cases n <;> rfl
theorem abandonNext_decks (s : State) (n : Option Cue) : (abandonNext s n).decks = s.decks := by cases n <;> rfl
theorem abandonNext_air (s : State) (n : Option Cue) : (abandonNext s n).air = s.air := by cases n <;> rfl
theorem abandonNext_clips (s : State) (n : Option Cue) : (abandonNext s n).clips = s.clips := by cases n <;> rfl

theorem abandonNext_reaches (s : State) (n : Option Cue) {ps : List Part} {w : Nat → Prop}
    (h : ∀ x ∈ n, ∀ b, completionWord x.address b → w b) : Reaches ps w s (abandonNext s n) := by
  cases n with
  | none => exact Reaches.refl _ _ s
  | some x => exact (Reaches.refl _ _ s).completion (h x rfl) _ _ _

/-- Either of a state and that state with an event raised: what an event does not reach. -/
theorem raiseIf_keeps {α : Type} (g : State → α) (s : State) (b : Bool) (e : Event) (h : g (s.raiseAll e) = g s) :
    g (if b then s.raiseAll e else s) = g s := by
  split
  · exact h
  · rfl

theorem raiseIf_has {s : State} {b : Bool} {e : Event} (hb : b = true) (p : Port) :
    (if b then s.raiseAll e else s).hasEvent p e := by
  rw [if_pos hb]
  exact s.raiseAll_has e p

theorem raiseIf_hasEvent {s : State} {b : Bool} {e x : Event} {p : Port} (h : s.hasEvent p x) :
    (if b then s.raiseAll e else s).hasEvent p x := by
  split
  · exact hasEvent_raiseAll h e
  · exact h

/-- What a deck at rest leaves of a state (R74). -/
structure Rested (d : DeckId) (resume : Option Nat) (s u : State) : Prop where
  decks : u.decks = s.decks.set d ((s.decks.get d).atRest resume)
  air : u.air = s.air.cutOff (.deck d)
  clips : u.clips = s.clips.released (s.decks.get d).clips
  messages : u.messages = s.messages ++
    stateNotice (.deck d) (s.air.sources.get (.deck d)) (cutRec (s.air.sources.get (.deck d)))
  abandons : (∀ n ∈ (s.decks.get d).next, inCueArea n.address) → u.abandons (s.decks.get d)
  stopped : raisesStopped (s.decks.get d).notify (s.decks.get d).state resume.isNone = true →
    ∀ p, u.hasEvent p .deckStopped
  events : (∀ n ∈ (s.decks.get d).next, inCueArea n.address) → ∀ p e, s.hasEvent p e → u.hasEvent p e
  reaches : ∀ (ps : List Part) (w : Nat → Prop), .decks ∈ ps → .arbiter ∈ ps →
    (s.air.cutOff (.deck d) ≠ s.air → .air ∈ ps) → ((s.decks.get d).clips ≠ [] → .clips ∈ ps) →
    (∀ b, eventWord b ∨ (s.decks.get d).nextWord b → w b) → Reaches ps w s u

theorem cutOff_reaches (s : State) (d : DeckId) {ps : List Part} {w : Nat → Prop}
    (h : s.air.cutOff (.deck d) ≠ s.air → .air ∈ ps) :
    Reaches ps w s { s with air := s.air.cutOff (.deck d) } := by
  by_cases heq : s.air.cutOff (.deck d) = s.air
  · rw [heq]
    exact Reaches.refl _ _ s
  · exact (Reaches.refl _ _ s).withAir (h heq) _

theorem Unlocked.reachesIn {l : List (Fin 128)} {s u : State} (h : Unlocked l s u) (hu : u = unlockAll s l)
    {ps : List Part} {w : Nat → Prop} (hp : l ≠ [] → .clips ∈ ps) : Reaches ps w s u := by
  cases l with
  | nil =>
    rw [hu]
    exact Reaches.refl _ _ s
  | cons i l => exact h.reaches.mono (by simpa using hp (by simp)) fun _ hf => hf.elim

/-- A deck enters IDLE or SUSPENDED, its locks given back without freeing a clip (R74). -/
theorem rest_rested (s : State) (d : DeckId) (resume : Option Nat)
    (h : (s.decks.get d).clips ≠ [] → s.keepsClips (s.decks.get d).clips) : Rested d resume s (s.rest d resume) := by
  set r := s.decks.get d with hr
  set v := (({ s with air := s.air.cutOff (.deck d) } : State).tell
    (stateNotice (.deck d) (s.air.sources.get (.deck d)) (cutRec (s.air.sources.get (.deck d))))).endGrantOf
      (.deck d) false with hv
  have hun : Unlocked r.clips v (unlockAll v r.clips) := unlockAll_unlocked h
  have hdecks : (unlockAll v r.clips).decks = s.decks := hun.reaches.keeps .decks (by simp)
  have hair : (unlockAll v r.clips).air = s.air.cutOff (.deck d) := hun.reaches.keeps .air (by simp)
  set u := (abandonNext (unlockAll v r.clips) r.next).onDeck d fun r => r.atRest resume with hu
  have hrest : s.rest d resume =
      if raisesStopped r.notify r.state resume.isNone then u.raiseAll .deckStopped else u := rest_steps s d resume
  have hxm : ∀ b, ¬ r.nextWord b → u.xm.read b = s.xm.read b := fun b hb =>
    ((abandonNext_reaches (unlockAll v r.clips) r.next (ps := []) (w := r.nextWord)
      fun n hn b hb => ⟨n, hn, hb⟩).xm b hb).trans (by rw [hun.xm]; rfl)
  rw [hrest]
  refine ⟨?_, ?_, ?_, ?_, fun hnext n hn => ?_, fun hraise p => raiseIf_has hraise p, fun hnext p e he => ?_,
    fun ps w hpd hpa hair hclips hw => ?_⟩
  · rw [raiseIf_keeps State.decks _ _ _ rfl, hu, State.onDeck_decks, abandonNext_decks, hdecks]
    rfl
  · rw [raiseIf_keeps State.air _ _ _ rfl, hu, State.onDeck_air, abandonNext_air, hair]
  · rw [raiseIf_keeps State.clips _ _ _ rfl, hu, State.onDeck_clips, abandonNext_clips, hun.clips]
    rfl
  · rw [raiseIf_keeps State.messages _ _ _ rfl, hu, State.onDeck_messages, abandonNext_messages, hun.messages]
    rfl
  · have hcomp : u.completion n.address .pending 0 none := by
      have hsome : r.next = some n := hn
      rw [hu, hsome]
      exact completion_of_same (writeCompletion_completion (unlockAll v r.clips) _ _ _ _) fun _ _ => rfl
    refine completion_of_same hcomp fun b hb => ?_
    split
    · exact u.raiseAll_read _ _ fun p hp => completionWord_not_event (hnext n hn) hb ⟨p, hp⟩
    · rfl
  · refine raiseIf_hasEvent (hasEvent_of_same he (hxm _ ?_))
    rintro ⟨n, hn, hb⟩
    exact completionWord_not_event (hnext n hn) hb ⟨p, rfl⟩
  · have hcut : Reaches ps w s v := ((cutOff_reaches s d hair).tell _).endGrant hpa _ _
    have hlocks : Reaches ps w s (unlockAll v r.clips) := hcut.trans (hun.reachesIn rfl hclips)
    have hend : Reaches ps w s u :=
      (hlocks.trans (abandonNext_reaches _ _ fun n hn b hb => hw b (.inr ⟨n, hn, hb⟩))).deck hpd d _
    exact (hend.raiseAll (fun b hb => hw b (.inl hb)) _).ite hend

/-- A deck at rest leaves its source's notice and takes it without an act. -/
theorem atRest_unmoved {r : DeckRec} (h : r.reading = none) (resume : Option Nat) : Unmoved (r.atRest resume) .off := by
  refine ⟨h, fun h => by simp at h, fun _ => ?_, fun _ hl => ?_⟩
  · cases resume <;> simp [DeckRec.atRest]
  · cases resume <;> simp [DeckRec.atRest, DeckRec.live] at hl

end Sys2Proof.DecksAndCueChains

/-!
The end of a cue: CUT or PLAYED written with its event and its lock given back, and a deck that goes on to rest (R73, R74,
R76).
-/
namespace Sys2Proof.DecksAndCueChains

open Sys2Proof.Machine

/-! ## The end written -/

/-- A cue written CUT or PLAYED, with its event where it has NOTIFY set (R73, R75, R76). -/
def wroteEnd (s : State) (c : Cue) (st : CueStatus) (n : Nat) : State :=
  if c.notifies then (s.writeCompletion c.address st n none).raiseAll .cueDone else s.writeCompletion c.address st n none

theorem writeCut_current {s : State} {d : DeckId} {c : Cue} (h : (s.decks.get d).current = some c) :
    s.writeCut d = wroteEnd s c .cut c.played := by
  simp [State.writeCut, h, wroteEnd]

section

variable (s : State) (c : Cue) (st : CueStatus) (n : Nat)

@[simp] theorem wroteEnd_decks : (wroteEnd s c st n).decks = s.decks := raiseIf_keeps State.decks _ _ _ rfl
@[simp] theorem wroteEnd_clips : (wroteEnd s c st n).clips = s.clips := raiseIf_keeps State.clips _ _ _ rfl
@[simp] theorem wroteEnd_air : (wroteEnd s c st n).air = s.air := raiseIf_keeps State.air _ _ _ rfl
@[simp] theorem wroteEnd_messages : (wroteEnd s c st n).messages = s.messages := raiseIf_keeps State.messages _ _ _ rfl

theorem wroteEnd_reaches {ps : List Part} {w : Nat → Prop} (hw : ∀ b, eventWord b ∨ completionWord c.address b → w b) :
    Reaches ps w s (wroteEnd s c st n) := by
  have h := (Reaches.refl ps w s).completion (fun b hb => hw b (.inr hb)) st n none
  exact (h.raiseAll (fun b hb => hw b (.inl hb)) _).ite h

theorem wroteEnd_completion (h : inCueArea c.address) : (wroteEnd s c st n).completion c.address st n none := by
  refine completion_of_same (writeCompletion_completion s c.address st n none) fun b hb => ?_
  unfold wroteEnd
  split
  · exact State.raiseAll_read _ _ _ fun p hp => completionWord_not_event h hb ⟨p, hp⟩
  · rfl

theorem wroteEnd_done (h : c.notifies = true) (p : Port) : (wroteEnd s c st n).hasEvent p .cueDone := raiseIf_has h p

theorem wroteEnd_events (h : inCueArea c.address) {p : Port} {e : Event} (he : s.hasEvent p e) :
    (wroteEnd s c st n).hasEvent p e :=
  raiseIf_hasEvent (hasEvent_of_same he (writeCompletion_read s _ _ _ _ _ fun hb =>
    completionWord_not_event h hb ⟨p, rfl⟩))

end

theorem cueArea_not_event {a b : Nat} (ha : inCueArea a) (hb : a ≤ b ∧ b ≤ a + 10) : ¬ eventWord b := by
  unfold inCueArea at ha
  exact not_eventWord_of_bounds (by omega)

theorem cueArea_not_completion {a b : Nat} (hb : b ≤ a + 10) : ¬ completionWord a b := by
  unfold completionWord
  omega

theorem link_not_written {a : Nat} (ha : inCueArea a) : ¬ (eventWord a ∨ completionWord a a) :=
  not_or.mpr ⟨cueArea_not_event ha (by omega), cueArea_not_completion (by omega)⟩

/-! ## A cue that has left its deck -/

/-- A cue is no longer its deck's: its end written and its lock given back (R53, R73). -/
structure CueOut (d : DeckId) (c : Cue) (st : CueStatus) (n : Nat) (s u : State) : Prop where
  decks : u.decks = s.decks.set d { s.decks.get d with current := none }
  clips : u.clips = s.lockReleased c.clip
  air : u.air = s.air
  messages : u.messages = s.messages
  completion : u.completion c.address st n none
  done : c.notifies = true → ∀ p, u.hasEvent p .cueDone
  events : ∀ p e, s.hasEvent p e → u.hasEvent p e
  reaches : Reaches [.decks, .clips] (fun b => eventWord b ∨ completionWord c.address b) s u

/-- The state in which a deck goes on from a cue that has been played out. -/
def playedFrom (s : State) (d : DeckId) (c : Cue) : State :=
  ((wroteEnd s c .played c.length).unlockClip c.clip).onDeck d fun r => { r with current := none }

theorem playedOut_current {s : State} {d : DeckId} {c : Cue} (h : (s.decks.get d).current = some c) :
    s.playedOut d = (playedFrom s d c).goOn d c.address c.holds c.ends := by
  simp only [State.playedOut, h]
  rfl

theorem playedFrom_out {s : State} {d : DeckId} {c : Cue} (ha : inCueArea c.address) (h : s.keepsClip c.clip) :
    CueOut d c .played c.length s (playedFrom s d c) := by
  have hk : (wroteEnd s c .played c.length).keepsClip c.clip := by
    unfold State.keepsClip State.storeFree State.mustWait State.clip
    rw [wroteEnd_clips]
    exact h
  have hun := unlocked_one hk
  have hx : (playedFrom s d c).xm = (wroteEnd s c .played c.length).xm := hun.xm
  refine ⟨?_, ?_, ?_, ?_, ?_, fun hn p => ?_, fun p e he => ?_, ?_⟩
  · rw [playedFrom, State.onDeck_decks, PerDeck.modify]
    have hdecks : ((wroteEnd s c .played c.length).unlockClip c.clip).decks = s.decks :=
      (hun.reaches.keeps .decks (by simp)).trans (wroteEnd_decks _ _ _ _)
    rw [hdecks]
  · rw [playedFrom, State.onDeck_clips, hun.clips, wroteEnd_clips, released_one]
  · exact (hun.reaches.keeps .air (by simp)).trans (wroteEnd_air _ _ _ _)
  · exact hun.messages.trans (wroteEnd_messages _ _ _ _)
  · exact completion_of_same (wroteEnd_completion s c _ _ ha) fun b _ => by rw [hx]
  · exact hasEvent_of_same (wroteEnd_done s c _ _ hn p) (by rw [hx])
  · exact hasEvent_of_same (wroteEnd_events s c _ _ ha he) (by rw [hx])
  · exact ((wroteEnd_reaches s c _ _ fun _ h => h).trans
      (hun.reaches.mono (by simp) fun _ hf => hf.elim)).deck (by simp) d _

/-! ## A deck that goes on to rest (R73, R74) -/

/-- What a deck without a next cue does after a cue: with HOLD, or an exhausted walk, it is SUSPENDED at the cue; at the end
of a chain with END it is IDLE; with END clear a link of none leaves it SUSPENDED (R73). -/
def GoesToRest (r : DeckRec) (c : Cue) (link : Nat) (resume : Option Nat) : Prop :=
  (resume = some c.address ∧ (c.holds = true ∨ r.lookahead = .exhausted)) ∨
    (resume = none ∧ c.holds = false ∧ r.lookahead = .none ∧ c.ends = true) ∨
    (resume = some c.address ∧ c.holds = false ∧ r.lookahead = .none ∧ c.ends = false ∧ link = 0xFFFF)

theorem goOn_rests {u : State} {d : DeckId} {c : Cue} {resume : Option Nat} (hn : (u.decks.get d).next = none)
    (h : GoesToRest (u.decks.get d) c (u.xm.read c.address).toNat resume) :
    u.goOn d c.address c.holds c.ends = u.rest d resume := by
  simp only [State.goOn, hn]
  rcases h with ⟨rfl, hh⟩ | ⟨rfl, hh, hl, he⟩ | ⟨rfl, hh, hl, he, hlink⟩
  · rw [if_pos hh]
  · rw [if_neg (by simp [hh, hl]), if_pos he]
  · rw [if_neg (by simp [hh, hl]), if_neg (by simp [he]), State.walkFrom, hlink, walk_none]
    rfl

/-- What a cue played out leaves of a deck that goes on to rest (R73, R74). -/
structure PlayedToRest (d : DeckId) (c : Cue) (resume : Option Nat) (s v : State) : Prop where
  decks : v.decks = s.decks.set d ((s.decks.get d).atRest resume)
  clips : v.clips = s.lockReleased c.clip
  air : v.air = s.air.cutOff (.deck d)
  messages : v.messages = s.messages ++
    stateNotice (.deck d) (s.air.sources.get (.deck d)) (cutRec (s.air.sources.get (.deck d)))
  completion : v.completion c.address .played c.length none
  done : c.notifies = true → ∀ p, v.hasEvent p .cueDone
  stopped : raisesStopped (s.decks.get d).notify (s.decks.get d).state resume.isNone = true →
    ∀ p, v.hasEvent p .deckStopped
  events : ∀ p e, s.hasEvent p e → v.hasEvent p e
  reaches : Reaches [.air, .decks, .clips, .arbiter] (fun b => eventWord b ∨ completionWord c.address b) s v

theorem playedOut_rests {s : State} {d : DeckId} {c : Cue} {resume : Option Nat} (hc : (s.decks.get d).current = some c)
    (hn : (s.decks.get d).next = none) (ha : inCueArea c.address) (hk : s.keepsClip c.clip)
    (h : GoesToRest (s.decks.get d) c (s.xm.read c.address).toNat resume) :
    PlayedToRest d c resume s (s.playedOut d) := by
  obtain ⟨hdecks, hclips, hair, hmessages, hcompletion, hdone, hevents, hreaches⟩ := playedFrom_out (d := d) ha hk
  set u := playedFrom s d c with hu
  have hget : u.decks.get d = { s.decks.get d with current := none } := by rw [hdecks, PerDeck.get_set_same]
  have hlink : u.xm.read c.address = s.xm.read c.address := hreaches.xm _ (link_not_written ha)
  have hgo : s.playedOut d = u.rest d resume := by
    rw [playedOut_current hc]
    refine goOn_rests (by rw [hget]; exact hn) ?_
    rw [hget, hlink]
    exact h
  have hnone : (u.decks.get d).next = none := by rw [hget]; exact hn
  have hempty : (u.decks.get d).clips = [] := by simp [DeckRec.clips, hget, hn]
  have hr := rest_rested u d resume fun hne => absurd hempty hne
  have hnot : ∀ n ∈ (u.decks.get d).next, inCueArea n.address := by simp [hnone]
  have hwords : ∀ b, completionWord c.address b → ¬ (eventWord b ∨ (u.decks.get d).nextWord b) := by
    rintro b hb (he | ⟨n, hn, _⟩)
    · exact completionWord_not_event ha hb he
    · simp [hnone] at hn
  have hreach := hr.reaches [.air, .decks, .clips, .arbiter] (fun b => eventWord b ∨ (u.decks.get d).nextWord b)
    (by simp) (by simp) (fun _ => by simp) (fun _ => by simp) fun _ h => h
  rw [hgo]
  refine ⟨?_, ?_, ?_, ?_, ?_, fun hn p => hr.events hnot p _ (hdone hn p), fun hraise p => ?_,
    fun p e he => hr.events hnot p e (hevents p e he), ?_⟩
  · rw [hr.decks, hdecks, perDeck_set_set, PerDeck.get_set_same]
    rfl
  · rw [hr.clips, hempty, hclips]
    rfl
  · rw [hr.air, hair]
  · rw [hr.messages, hmessages, hair]
  · exact completion_of_same hcompletion fun b hb => hreach.xm b (hwords b hb)
  · exact hr.stopped (by rw [hget]; exact hraise) p
  · refine (hreaches.mono (by simp) fun _ h => h).trans (hreach.mono (fun _ h => h) ?_)
    rintro b (he | ⟨n, hn, _⟩)
    · exact .inl he
    · simp [hnone] at hn

/-- The notice of a deck gone to rest is taken without an act. -/
theorem PlayedToRest.drain {d : DeckId} {c : Cue} {resume : Option Nat} {s v : State} (h : PlayedToRest d c resume s v)
    (hm : s.messages = []) (hr : (s.decks.get d).reading = none) : v.drain = { v with messages := [] } := by
  refine drain_stateNotice (by rw [h.messages, hm, List.nil_append]) fun _ => ?_
  rw [h.decks, PerDeck.get_set_same]
  exact atRest_unmoved hr resume

/-- CUE_END of a deck that its lookahead and its pending end do not detain (R73). -/
theorem endCue_plays {s : State} {d : DeckId} (hdue : (s.decks.get d).endDue = true)
    (hl : (s.decks.get d).lookaheadDue = false) (hr : (s.decks.get d).reading = none)
    (hp : (s.decks.get d).pendingEnd = .none) : s.endCue d = s.playedOut d := by
  simp [State.endCue, hdue, makeLookahead_notDue s d hl, hr, hp]

/-- When the current cue's end is due (R71, R73). -/
theorem endDue_iff {r : DeckRec} {c : Cue} (hc : r.current = some c) :
    r.endDue = true ↔ r.live = true ∧ c.length ≤ c.played ∧ r.reading = none := by
  simp [DeckRec.endDue, hc, and_assoc]

theorem live_iff {r : DeckRec} : r.live = true ↔ r.state = .playing ∨ r.state = .held := by
  simp [DeckRec.live]

end Sys2Proof.DecksAndCueChains

/-!
DECK_STOP and DECK_SKIP by the deck's state: a fade that leaves the end pending, an end at once, and a skip that waits for a
lock (R74 to R78, R84).
-/
namespace Sys2Proof.DecksAndCueChains

open Sys2Proof.Machine

/-! ## The commands -/

theorem exec_deckStop (s : State) (deck fade : Word) :
    Sys2Proof.Machine.exec (.deckStop .a deck fade) s = .next (s.act fun s => s.issue .a .deckStop [deck, fade]) := rfl

theorem exec_deckSkip (s : State) (deck fade : Word) :
    Sys2Proof.Machine.exec (.deckSkip .a deck fade) s = .next (s.act fun s => s.issue .a .deckSkip [deck, fade]) := rfl

theorem deckCommand_stop (s u : State) (d : DeckId) (deck fade : Word) :
    u.deckCommand .deckStop d (s.copyOf .a [deck, fade]) = u.stopDeck d fade.toNat := by
  show u.stopDeck d (par (s.copyOf .a [deck, fade]) 2) = _
  rw [par_second]

theorem deckCommand_skip (s u : State) (d : DeckId) (deck fade : Word) :
    u.deckCommand .deckSkip d (s.copyOf .a [deck, fade]) = u.skipDeck d fade.toNat := by
  show u.skipDeck d (par (s.copyOf .a [deck, fade]) 2) = _
  rw [par_second]

/-- A command on a state that stands between what a step found and what it is to leave: what the step leaves of it. -/
theorem command_doneWithinFrom {ps : List Part} {w : Nat → Prop} {s s₁ x v : State} {p : Port} {c : Command}
    {params : List Word} {rs : List Nat} (hforced : s.forced = []) (hrun : (s.ports.get p).running = none)
    (h0 : Reaches ps w s s₁) (h1 : Reaches ps w (s₁.issuedTo p c params) x) (hw : leavesPage w p)
    (h2 : Reaches ps w (x.answer p (.done rs)) v) : s.doneWithin v.publish p c.code rs ps w :=
  ⟨command_done h1 hw h2, command_ports hrun h0 h1 (by simp) h2, command_frame hforced h0 h1 _ h2⟩

/-! ## A fade that leaves the end pending (R8, R76, R78) -/

/-- A RAMP to 0 of the deck's source takes time, or makes 0 the saved target of one that is HELD and not yet silent. -/
structure FadesOut (r : DeckRec) (a : SourceRec) : Prop where
  free : r.reading = none
  sounding : r.heldSilent = false
  live : r.state = .playing ∨ r.state = .held
  source : (r.state = .playing ∧ 0 < a.level ∧ a.state ≠ .off) ∨ a.state = .held

/-- The deck's record and the air map as such a fade leaves them, its notice sent. -/
def fadeBegun (u : State) (d : DeckId) (e : PendingEnd) (F : Nat) : State :=
  ({ (u.onDeck d fun r => { r with pendingEnd := e, pendingFade := F }) with
    air := u.air.ramped (.deck d) 0 (F * 48) } : State).tell
    (stateNotice (.deck d) (u.air.sources.get (.deck d)) (rampedRec u.air d 0 (F * 48)))

theorem fade_rec {a : AirMap} {d : DeckId} {r : DeckRec} (h : FadesOut r (a.sources.get (.deck d))) (S : Nat) :
    ((a.sources.get (.deck d)).state = .held ∧ (rampedRec a d 0 S).state = .held) ∨
      (r.state = .playing ∧ (rampedRec a d 0 S).state = .falling) := by
  by_cases hheld : (a.sources.get (.deck d)).state = .held
  · exact .inl ⟨hheld, (rampedRec_held_iff a d 0 S).mpr (.inl hheld)⟩
  · obtain ⟨hplay, hlevel, hoff⟩ := h.source.resolve_right hheld
    refine .inr ⟨hplay, ?_⟩
    simp [rampedRec, SourceRec.ramped, hheld, hoff, SourceRec.rampTo, hlevel]

theorem fade_answer {s : State} {d : DeckId} {r : DeckRec} (h : FadesOut r (s.air.sources.get (.deck d))) (S : Nat) :
    (s.airRamp (.deck d) 0 S).2 ≠ .settled := by
  by_cases hheld : (s.air.sources.get (.deck d)).state = .held
  · simp [State.airRamp, hheld]
  · obtain ⟨_, hlevel, hoff⟩ := h.source.resolve_right hheld
    have hne : (s.air.sources.get (.deck d)).level ≠ 0 := by omega
    simp [State.airRamp, hheld, hoff, SourceRec.rampAnswer, hne]

theorem fadeToEnd_fades {u : State} {d : DeckId} {e : PendingEnd} {F : Nat}
    (h : FadesOut (u.decks.get d) (u.air.sources.get (.deck d))) :
    (u.onDeck d fun r => { r with pendingEnd := e, pendingFade := F }).fadeToEnd d F = fadeBegun u d e F := by
  set x := u.onDeck d fun r => { r with pendingEnd := e, pendingFade := F } with hx
  have hair : x.air = u.air := rfl
  have hramp := airRamp_deck x d 0 (F * 48)
  have hanswer : (x.airRamp (.deck d) 0 (F * 48)).2 ≠ .settled :=
    fade_answer (s := x) (r := u.decks.get d) h (F * 48)
  have hnotices : rampNotices d (x.air.sources.get (.deck d)) (rampedRec x.air d 0 (F * 48)) =
      stateNotice (.deck d) (u.air.sources.get (.deck d)) (rampedRec u.air d 0 (F * 48)) := by
    rw [hair, rampNotices]
    rcases fade_rec h (F * 48) with ⟨h1, _⟩ | ⟨_, h2⟩
    · simp [h1]
    · simp [h2]
  have hsilent : ((x.airRamp (.deck d) 0 (F * 48)).1.decks.get d).heldSilent ≠ true := by
    rw [hramp]
    show (x.decks.get d).heldSilent ≠ true
    rw [hx, State.onDeck_decks, PerDeck.get_modify_same]
    simp [h.sounding]
  have hnot : ¬ (((x.airRamp (.deck d) 0 (F * 48)).2 = .settled ∧
      ((x.airRamp (.deck d) 0 (F * 48)).1.air.sources.get (.deck d)).state = .off) ∨
      ((x.airRamp (.deck d) 0 (F * 48)).1.decks.get d).heldSilent = true) := by
    rintro (⟨h1, _⟩ | h2)
    exacts [hanswer h1, hsilent h2]
  refine (if_neg hnot).trans ?_
  show (x.airRamp (.deck d) 0 (F * 48)).1 = _
  rw [hramp, hnotices]
  rfl

theorem fadeBegun_deck (u : State) (d : DeckId) (e : PendingEnd) (F : Nat) :
    (fadeBegun u d e F).decks.get d = { u.decks.get d with pendingEnd := e, pendingFade := F } :=
  PerDeck.get_modify_same _ _ _

theorem fadeBegun_reaches (u : State) (d : DeckId) (e : PendingEnd) (F : Nat) {ps : List Part} {w : Nat → Prop}
    (hd : .decks ∈ ps) (ha : .air ∈ ps) : Reaches ps w u (fadeBegun u d e F) :=
  (((Reaches.refl _ _ u).deck hd d _).withAir ha _).tell _

theorem stopDeck_fades {u : State} {d : DeckId} {n : Nat} (h : FadesOut (u.decks.get d) (u.air.sources.get (.deck d))) :
    u.stopDeck d n = (fadeBegun u d .stop (min n 10000),
      .done [d.number, deckCode (u.decks.get d).state, min n 10000]) := by
  have hfade := fadeToEnd_fades (e := .stop) (F := min n 10000) h
  have hstate : ((fadeBegun u d .stop (min n 10000)).decks.get d).state = (u.decks.get d).state := by
    rw [fadeBegun_deck]
  unfold State.stopDeck
  rcases h.live with hs | hs
  · simp only [hs, hfade, hstate]
  · simp only [hs, hfade, hstate]

theorem skipDeck_fades {u : State} {d : DeckId} {n : Nat} (h : FadesOut (u.decks.get d) (u.air.sources.get (.deck d)))
    (hp : (u.decks.get d).pendingEnd ≠ .stop) :
    u.skipDeck d n = (fadeBegun u d .skip (min n 10000),
      .done [d.number, deckCode (u.decks.get d).state, min n 10000]) := by
  have hfade := fadeToEnd_fades (e := .skip) (F := min n 10000) h
  have hfree : ((fadeBegun u d .skip (min n 10000)).decks.get d).reading = none := by
    rw [fadeBegun_deck]
    exact h.free
  have hstate : ((fadeBegun u d .skip (min n 10000)).decks.get d).state = (u.decks.get d).state := by
    rw [fadeBegun_deck]
  simp [State.skipDeck, live_iff.mpr h.live, hp, hfade, hfree, hstate]

/-- The step of a DECK_STOP or DECK_SKIP that begins a fade, from the state that what the takes reached has left. -/
theorem fade_command {s s₁ : State} {d : DeckId} {c : Command} {deck fade : Word} {e : PendingEnd} {ps : List Part}
    {w : Nat → Prop} {F : Nat} (hforced : s.forced = []) (hrun : (s.ports.get .a).running = none) (h0 : Reaches ps w s s₁)
    (hready : Ready s₁ .a) (hm : s₁.messages = []) (hc : ToDeck c) (hd : deck.toNat = d.number)
    (hf : FadesOut (s₁.decks.get d) (s₁.air.sources.get (.deck d)))
    (hcmd : (s₁.issuedTo .a c [deck, fade]).deckCommand c d (s₁.copyOf .a [deck, fade]) =
      (fadeBegun (s₁.issuedTo .a c [deck, fade]) d e F, .done [d.number, deckCode (s₁.decks.get d).state, F]))
    (hpd : .decks ∈ ps) (hpa : .air ∈ ps) (hw : leavesPage w .a) :
    let t := (s₁.issue .a c [deck, fade]).settle
    t.air = s₁.air.ramped (.deck d) 0 (F * 48) ∧
      t.decks = s₁.decks.set d { s₁.decks.get d with pendingEnd := e, pendingFade := F } ∧ t.counters = s₁.counters ∧
      (∀ p x, s₁.hasEvent p x → t.hasEvent p x) ∧
      s.doneWithin t .a c.code [d.number, deckCode (s₁.decks.get d).state, F] ps w := by
  set x := fadeBegun (s₁.issuedTo .a c [deck, fade]) d e F with hx
  set v := x.answer .a (.done [d.number, deckCode (s₁.decks.get d).state, F]) with hv
  have hissue : s₁.issue .a c [deck, fade] = v := by rw [issue_deck hready hc (by simp) hd hf.free, hcmd]
  have hmessages : v.messages =
      stateNotice (.deck d) (s₁.air.sources.get (.deck d)) (rampedRec s₁.air d 0 (F * 48)) := by
    rw [hv, State.messages_answer]
    show s₁.messages ++ stateNotice _ _ _ = _
    rw [hm]
    rfl
  have hdeck : v.decks = s₁.decks.set d { s₁.decks.get d with pendingEnd := e, pendingFade := F } := by
    rw [hv, answer_decks]
    rfl
  have hdrain : v.drain = { v with messages := [] } := by
    refine drain_stateNotice hmessages fun hne => ?_
    rw [hdeck, PerDeck.get_set_same]
    rcases fade_rec hf (F * 48) with ⟨h1, h2⟩ | ⟨hplay, hfall⟩
    · exact absurd (h1.trans h2.symm) hne
    · rw [hfall]
      exact ⟨hf.free, by simp, fun _ => by simp [hplay], by simp⟩
  have h1 : Reaches ps w (s₁.issuedTo .a c [deck, fade]) x := fadeBegun_reaches _ d e F hpd hpa
  rw [hissue, State.settle, hdrain]
  refine ⟨?_, ?_, ?_, fun p y hy => ?_,
    command_doneWithinFrom hforced hrun h0 h1 hw ((Reaches.refl _ _ v).messages [])⟩
  · rw [State.publish_air]
    exact answer_air _ _ _
  · rw [State.publish_decks]
    exact hdeck
  · rw [State.publish_counters]
    exact answer_counters _ _ _
  · refine hasEvent_publish (hasEvent_of_same (s := s₁.issuedTo .a c [deck, fade]) ?_ ?_)
    · refine hasEvent_of_same hy (State.issuedTo_read _ _ _ _ _ ?_)
      cases p <;> simp [ownPage, base]
    · refine (State.answer_read x _ _ _ ?_).trans rfl
      cases p <;> simp [ownPage, base]

end Sys2Proof.DecksAndCueChains

/-!
DECK_STOP and DECK_SKIP that end a deck's cue in the command itself (R63, R74 to R78, R84).
-/
namespace Sys2Proof.DecksAndCueChains

open Sys2Proof.Machine

section

variable {s : State} {deck fade : Word} {d : DeckId} {r : DeckRec} {c : Cue}

theorem issue_stop (h : s.accepts .a) (hd : deck.toNat = d.number) (hg : s.decks.get d = r) (hr : r.reading = none) :
    s.issue .a .deckStop [deck, fade] =
      (((s.issuedTo .a .deckStop [deck, fade]).stopDeck d fade.toNat).1).answer .a
        ((s.issuedTo .a .deckStop [deck, fade]).stopDeck d fade.toNat).2 := by
  rw [issue_deck (ready_of_accepts h) toDeck_stop (by simp) hd (hg ▸ hr), deckCommand_stop]

theorem issuedTo_hasEvent {p q : Port} {x : Event} (s : State) (k : Command) (ws : List Word) (h : s.hasEvent p x) :
    (s.issuedTo q k ws).hasEvent p x :=
  hasEvent_of_same h (State.issuedTo_read _ _ _ _ _ (by cases p <;> cases q <;> simp [ownPage, base]))

theorem answer_hasEvent {p q : Port} {x : Event} {s : State} (y : Reply) (h : s.hasEvent p x) :
    (s.answer q y).hasEvent p x :=
  hasEvent_of_same h (State.answer_read s _ _ _ (by cases p <;> cases q <;> simp [ownPage, base]))

/-! ## A stop that leaves the deck at rest (R74 to R77) -/

theorem stopDeck_cuts {u : State} {n : Nat} (hs : (u.decks.get d).state = .loading ∨ (u.decks.get d).state = .cued)
    (hc : (u.decks.get d).current = some c) :
    u.stopDeck d n = ((wroteEnd u c .cut c.played).rest d none,
      .done [d.number, deckCode (((wroteEnd u c .cut c.played).rest d none).decks.get d).state, min n 10000]) := by
  have hdone : u.stopDone d = (wroteEnd u c .cut c.played).rest d none := by rw [State.stopDone, writeCut_current hc]
  unfold State.stopDeck
  rcases hs with hs | hs
  · simp only [hs, hdone]
  · simp only [hs, hdone]

theorem stopDeck_suspended {u : State} {n : Nat} (hs : (u.decks.get d).state = .suspended) :
    u.stopDeck d n =
      (u.rest d none, .done [d.number, deckCode ((u.rest d none).decks.get d).state, min n 10000]) := by
  simp only [State.stopDeck, hs]

/-- A step of an accepted DECK_STOP that leaves its deck at rest, IDLE (R74, R84). -/
theorem stop_rests {ps : List Part} {w : Nat → Prop} {y v : State} (h : s.accepts .a) (hg : s.decks.get d = r)
    (hr : r.reading = none) (hw : leavesPage w .a)
    (hissue : s.issue .a .deckStop [deck, fade] =
      v.answer .a (.done [d.number, deckCode (v.decks.get d).state, min fade.toNat 10000]))
    (hy : y.decks = s.decks) (hym : y.messages = s.messages) (hv : Rested d none y v)
    (hreach : Reaches ps w (s.issuedTo .a .deckStop [deck, fade]) v) :
    let t := s.act fun s => s.issue .a .deckStop [deck, fade]
    t.decks = s.decks.set d (r.atRest none) ∧ t.air = y.air.cutOff (.deck d) ∧
      t.clips = y.clips.released r.clips ∧ (∀ p x, v.hasEvent p x → t.hasEvent p x) ∧
      (∀ a st n f, inCueArea a → v.completion a st n f → t.completion a st n f) ∧
      s.doneWithin t .a 0x0012 [d.number, 0, min fade.toNat 10000] ps w := by
  subst hg
  obtain ⟨_, ⟨hmessages, hforced⟩, _⟩ := h.1
  have hdecks : v.decks = s.decks.set d ((s.decks.get d).atRest none) := by rw [hv.decks, hy]
  have hcode : deckCode (v.decks.get d).state = 0 := by
    rw [hdecks, PerDeck.get_set_same]
    rfl
  rw [hcode] at hissue
  set x := v.answer .a (.done [d.number, 0, min fade.toNat 10000]) with hx
  have hdrain : x.drain = { x with messages := [] } := by
    refine drain_stateNotice (d := d) (old := y.air.sources.get (.deck d)) (new := cutRec (y.air.sources.get (.deck d))) ?_
      fun _ => ?_
    · rw [hx, State.messages_answer, hv.messages, hym, hmessages, List.nil_append]
    · rw [hx, answer_decks, hdecks, PerDeck.get_set_same]
      exact atRest_unmoved hr none
  have hstep : (s.act fun s => s.issue .a .deckStop [deck, fade]) = ({ x with messages := [] } : State).publish := by
    rw [s.act_runs _ h.1, hissue, State.settle, hdrain]
  rw [hstep]
  refine ⟨?_, ?_, ?_, fun p e he => hasEvent_publish (answer_hasEvent (q := .a) _ he), fun a st n f ha hc => ?_,
    command_doneWithin (c := .deckStop) h hreach hw ((Reaches.refl _ _ x).messages [])⟩
  · rw [State.publish_decks]
    exact (answer_decks _ _ _).trans hdecks
  · rw [State.publish_air]
    exact (answer_air _ _ _).trans hv.air
  · rw [State.publish_clips]
    refine (answer_clips _ _ _).trans ?_
    rw [hv.clips, hy]
  · exact completion_publish ha (completion_of_same hc fun b hb =>
      State.answer_read v _ _ _ (completionWord_not_ownPage ha hb _))

/-- DECK_STOP of a LOADING or CUED deck ends it at once (R63, R74 to R77). -/
theorem stop_cuts (h : s.accepts .a) (hd : deck.toNat = d.number) (hg : s.decks.get d = r) (hr : r.reading = none)
    (hs : r.state = .loading ∨ r.state = .cued) (hc : r.current = some c) (ha : inCueArea c.address)
    (hn : r.nextApart c.address) (hk : s.keepsClips r.clips) :
    ∃ t, Sys2Proof.Machine.exec (.deckStop .a deck fade) s = .next t ∧ t.completion c.address .cut c.played none ∧
      t.abandons r ∧ t.decks = s.decks.set d (r.atRest none) ∧ t.clips = s.clips.released r.clips ∧
      (t.air.sources.get (.deck d)).state = .off ∧
      t.air = s.air.withSource (.deck d) (t.air.sources.get (.deck d)) ∧
      (c.notifies = true → ∀ p, t.hasEvent p .cueDone) ∧
      (r.notify = .onIdle → ∀ p, t.hasEvent p .deckStopped) ∧
      s.doneWithin t .a 0x0012 [d.number, 0, min fade.toNat 10000] [.air, .decks, .clips, .arbiter]
        (fun b => eventWord b ∨ completionWord c.address b ∨ r.nextWord b) := by
  set u := s.issuedTo .a .deckStop [deck, fade] with hu
  set y := wroteEnd u c .cut c.played with hy
  set v := y.rest d none with hv
  have hydecks : y.decks = s.decks := wroteEnd_decks u c _ _
  have hyget : y.decks.get d = r := by rw [hydecks, hg]
  have hyclips : y.clips = s.clips := wroteEnd_clips u c _ _
  have hyair : y.air = s.air := wroteEnd_air u c _ _
  have hkeep : y.keepsClips (y.decks.get d).clips := by
    unfold State.keepsClips State.storeFree State.mustWait State.clip
    rw [hyget, hyclips]
    exact hk
  have hrest := rest_rested y d none fun _ => hkeep
  have hplaced : ∀ n ∈ (y.decks.get d).next, inCueArea n.address := by
    rw [hyget]
    exact fun n hn' => (hn n hn').1
  have hreach : Reaches [.air, .decks, .clips, .arbiter]
      (fun b => eventWord b ∨ completionWord c.address b ∨ r.nextWord b) u v := by
    refine (wroteEnd_reaches u c _ _ fun b hb => hb.imp id .inl).trans
      (hrest.reaches _ _ (by simp) (by simp) (fun _ => by simp) (fun _ => by simp) ?_)
    rw [hyget]
    exact fun b hb => hb.imp id .inr
  have hown : Reaches [.air, .decks, .clips, .arbiter] (fun b => eventWord b ∨ r.nextWord b) y v := by
    refine hrest.reaches _ _ (by simp) (by simp) (fun _ => by simp) (fun _ => by simp) ?_
    rw [hyget]
    exact fun _ h => h
  have hpage : leavesPage (fun b => eventWord b ∨ completionWord c.address b ∨ r.nextWord b) .a :=
    leavesPage_or (leavesPage_event _) (leavesPage_or (leavesPage_completion ha _) fun n hn' _ ⟨m, hm, hb⟩ =>
      not_completionWord_page (hn m hm).1 _ hn' hb)
  have hcut : v.completion c.address .cut c.played none := by
    refine completion_of_same (wroteEnd_completion u c _ _ ha) fun b hb => hown.xm b ?_
    rintro (he | ⟨m, hm, hb'⟩)
    · exact completionWord_not_event ha hb he
    · exact apart_words (hn m hm).2 hb hb'
  obtain ⟨hdecks, hair, hclips, hevents, hcompletions, hdone⟩ := stop_rests (deck := deck) (fade := fade) (v := v) h hg hr
    hpage (by rw [issue_stop h hd hg hr, stopDeck_cuts (hg ▸ hs) (hg ▸ hc)]) hydecks
    ((wroteEnd_messages u c _ _).trans rfl) hrest hreach
  rw [hyair] at hair
  obtain ⟨hoff, hsource⟩ := cutOff_withSource s.air d
  rw [exec_deckStop]
  refine ⟨_, rfl, hcompletions _ _ _ _ ha hcut, fun n hn' => ?_, hdecks, hclips.trans (by rw [hyclips]), ?_, ?_,
    fun hno p => ?_, fun hno p => ?_, hdone⟩
  · exact hcompletions _ _ _ _ (hn n hn').1 (hrest.abandons hplaced n (by rw [hyget]; exact hn'))
  · rw [hair]
    exact hoff
  · rw [hair]
    exact hsource
  · exact hevents p _ (hrest.events hplaced p _ (wroteEnd_done u c _ _ hno p))
  · exact hevents p _ (hrest.stopped (by rw [hyget, hno]; rfl) p)

/-- DECK_STOP of a SUSPENDED deck clears its resume address (R77). -/
theorem stop_suspended (h : s.accepts .a) (hd : deck.toNat = d.number) (hg : s.decks.get d = r) (hr : r.reading = none)
    (hs : r.state = .suspended) (hc : r.current = none) (hn : r.next = none)
    (ha : (s.air.sources.get (.deck d)).state = .off) :
    ∃ t, Sys2Proof.Machine.exec (.deckStop .a deck fade) s = .next t ∧ t.decks = s.decks.set d (r.atRest none) ∧
      (r.notify = .onIdle → ∀ p, t.hasEvent p .deckStopped) ∧
      s.doneWithin t .a 0x0012 [d.number, 0, min fade.toNat 10000] [.decks, .arbiter] eventWord := by
  set u := s.issuedTo .a .deckStop [deck, fade] with hu
  have hget : u.decks.get d = r := hg
  have hempty : (u.decks.get d).clips = [] := by simp [DeckRec.clips, hget, hc, hn]
  have hcut : u.air.cutOff (.deck d) = u.air := if_pos ha
  have hrest := rest_rested u d none fun hne => absurd hempty hne
  have hreach := hrest.reaches [.decks, .arbiter] eventWord (by simp) (by simp) (fun hne => absurd hcut hne)
    (fun hne => absurd hempty hne) (by
      rintro b (he | ⟨n, hm, _⟩)
      · exact he
      · simp [hget, hn] at hm)
  obtain ⟨hdecks, _, _, hevents, _, hdone⟩ := stop_rests (deck := deck) (fade := fade) (y := u) h hg hr
    (leavesPage_event .a) (by rw [issue_stop h hd hg hr, stopDeck_suspended (hg ▸ hs)]) rfl rfl hrest hreach
  rw [exec_deckStop]
  exact ⟨_, rfl, hdecks, fun hno p => hevents p _ (hrest.stopped (by rw [hget, hno]; rfl) p), hdone⟩

end

end Sys2Proof.DecksAndCueChains

/-!
A DECK_SKIP that completes in the command and whose lookahead waits behind a page search (R64, R78, R84).
-/
namespace Sys2Proof.DecksAndCueChains

open Sys2Proof.Machine

/-! ## A skip of a silent deck -/

/-- A RAMP to 0 of a source that is OFF at L = 0 leaves it OFF and tells nobody (R7, R8). -/
theorem rampedRec_off {a : AirMap} {d : DeckId} (ho : (a.sources.get (.deck d)).state = .off)
    (hl : (a.sources.get (.deck d)).level = 0) (S : Nat) : (rampedRec a d 0 S).state = .off := by
  unfold rampedRec SourceRec.ramped
  by_cases hh : a.hold = true
  · simp [ho, hh]
  · simp [ho, hh, SourceRec.rampTo, hl]

theorem airRamp_off {s : State} {d : DeckId} (ho : (s.air.sources.get (.deck d)).state = .off)
    (hl : (s.air.sources.get (.deck d)).level = 0) (S : Nat) :
    (s.airRamp (.deck d) 0 S).1 = { s with air := s.air.ramped (.deck d) 0 S } ∧
      (s.airRamp (.deck d) 0 S).2 = .settled := by
  have hrec := rampedRec_off ho hl S
  refine ⟨?_, ?_⟩
  · rw [airRamp_deck]
    simp [rampNotices, stateNotice, State.tell, ho, hrec]
  · by_cases hh : s.air.hold = true
    · simp [State.airRamp, ho, hh]
    · simp [State.airRamp, ho, hh, SourceRec.rampAnswer, hl]

/-- The state in which a skip with its source OFF completes: the end pending, the RAMP to 0 taken (R76, R78). -/
def skipBegun (u : State) (d : DeckId) (F : Nat) : State :=
  { u.onDeck d fun r => { r with pendingEnd := .skip, pendingFade := F } with
    air := u.air.ramped (.deck d) 0 (F * 48) }

theorem skipBegun_deck (u : State) (d : DeckId) (F : Nat) :
    (skipBegun u d F).decks.get d = { u.decks.get d with pendingEnd := .skip, pendingFade := F } :=
  PerDeck.get_modify_same _ _ _

theorem skipBegun_reaches (u : State) (d : DeckId) (F : Nat) {ps : List Part} {w : Nat → Prop} (hd : .decks ∈ ps)
    (ha : .air ∈ ps) : Reaches ps w u (skipBegun u d F) :=
  ((Reaches.refl _ _ u).deck hd d _).withAir ha _

/-- A source OFF already completes a skip in its command (R76, R78). -/
theorem skip_completes {u : State} {d : DeckId} {F : Nat} (ho : (u.air.sources.get (.deck d)).state = .off)
    (hl : (u.air.sources.get (.deck d)).level = 0) :
    (u.onDeck d fun r => { r with pendingEnd := .skip, pendingFade := F }).fadeToEnd d F =
      (skipBegun u d F).skipDone d := by
  set x := u.onDeck d fun r => { r with pendingEnd := .skip, pendingFade := F } with hx
  obtain ⟨hstate, hanswer⟩ := airRamp_off (s := x) (d := d) ho hl (F * 48)
  have hoff : ((x.airRamp (.deck d) 0 (F * 48)).1.air.sources.get (.deck d)).state = .off := by
    rw [hstate]
    show ((x.air.withSource (.deck d) (rampedRec x.air d 0 (F * 48))).sources.get (.deck d)).state = .off
    rw [withSource_get]
    exact rampedRec_off ho hl _
  refine (if_pos (.inl ⟨hanswer, hoff⟩)).trans ?_
  show (x.airRamp (.deck d) 0 (F * 48)).1.endPending d = _
  rw [hstate]
  have hpending : (x.decks.get d).pendingEnd = .skip := by
    rw [hx, State.onDeck_decks, PerDeck.get_modify_same]
  simp only [State.endPending, hpending]
  rfl

/-! ## The skip done -/

/-- A deck's grant cut reaches its deck and the arbiter (R57). -/
theorem cutDeck_reaches (s : State) (d : DeckId) {ps : List Part} {w : Nat → Prop} (hd : .decks ∈ ps)
    (ha : .arbiter ∈ ps) : Reaches ps w s (s.cutDeck d) := by
  unfold State.cutDeck
  split
  · split
    · exact ((Reaches.refl ps w s).deck hd d _).touches (State.touches_arbiter _ _) (by simpa using ha)
    · exact Reaches.refl ps w s
  · exact Reaches.refl ps w s

@[simp] theorem cutDeck_messages (s : State) (d : DeckId) : (s.cutDeck d).messages = s.messages := by
  unfold State.cutDeck
  split
  · split <;> rfl
  · rfl

/-- The state in which a skip that cuts a cue goes on: CUT written, the lock's release sent off behind the search, the grant
cut, and the cue gone from the deck. -/
def skippedFrom (s : State) (d : DeckId) (c : Cue) : State :=
  let u := (wroteEnd s c .cut c.played).enqueue (.unlock c.clip)
  (if c.played < c.length then u.cutDeck d else u).onDeck d fun r =>
    { r with current := none, pendingEnd := .none, buffer := r.buffer.drop r.ownPairs }

theorem skipDone_walks {s : State} {d : DeckId} {c : Cue} (hc : (s.decks.get d).current = some c)
    (hl : (s.decks.get d).lookahead = .notMade) (hh : c.holds = false) (hw : ¬ s.storeFree) :
    s.skipDone d =
      ((skippedFrom s d c).walkFrom d c.address (.skip c.address c.ends)).1.finishSkip d c.address c.ends
        ((skippedFrom s d c).walkFrom d c.address (.skip c.address c.ends)).2 := by
  have hmust : (wroteEnd s c .cut c.played).mustWait = true := by
    unfold State.mustWait
    rw [wroteEnd_clips]
    exact Bool.eq_true_of_not_eq_false hw
  simp only [State.skipDone, hc, hl, hh, and_self, if_true, writeCut_current hc, State.unlockClip, hmust]
  rfl

section

variable {s : State} {d : DeckId} {c : Cue}

theorem skippedFrom_reaches (s : State) (d : DeckId) (c : Cue) :
    Reaches [.air, .decks, .clips, .arbiter] (fun b => eventWord b ∨ completionWord c.address b) s (skippedFrom s d c) := by
  have h := (wroteEnd_reaches s c .cut c.played (ps := [.air, .decks, .clips, .arbiter]) fun _ h => h).enqueue (by simp)
    (.unlock c.clip)
  exact ((h.trans (cutDeck_reaches _ d (by simp) (by simp))).ite h).deck (by simp) d _

theorem ite_keeps {α β : Type} (g : α → β) {p : Prop} [Decidable p] {x y : α} {z : β} (hx : g x = z) (hy : g y = z) :
    g (if p then x else y) = z := by
  split
  · exact hx
  · exact hy

theorem skippedFrom_messages (s : State) (d : DeckId) (c : Cue) : (skippedFrom s d c).messages = s.messages := by
  have h : ((wroteEnd s c .cut c.played).enqueue (.unlock c.clip)).messages = s.messages := wroteEnd_messages s c _ _
  exact ite_keeps State.messages ((cutDeck_messages _ _).trans h) h

theorem skippedFrom_clips (s : State) (d : DeckId) (c : Cue) :
    (skippedFrom s d c).clips = { s.clips with waiting := s.clips.waiting ++ [.unlock c.clip] } := by
  have h : ((wroteEnd s c .cut c.played).enqueue (.unlock c.clip)).clips =
      { s.clips with waiting := s.clips.waiting ++ [.unlock c.clip] } := by
    show ({ (wroteEnd s c .cut c.played).clips with
      waiting := (wroteEnd s c .cut c.played).clips.waiting ++ [.unlock c.clip] } : ClipStore) = _
    rw [wroteEnd_clips]
  exact ite_keeps State.clips
    (((cutDeck_reaches _ d (ps := [.decks, .arbiter]) (w := fun _ => False) (by simp) (by simp)).keeps .clips
      (by simp)).trans h) h

theorem skippedFrom_completion (ha : inCueArea c.address) :
    (skippedFrom s d c).completion c.address .cut c.played none := by
  refine completion_of_same (wroteEnd_completion s c _ _ ha) fun b _ => ?_
  exact ite_keeps (fun x : State => x.xm.read b) ((cutDeck_reaches ((wroteEnd s c .cut c.played).enqueue (.unlock c.clip)) d
    (ps := [.decks, .arbiter]) (w := fun _ => False) (by simp) (by simp)).xm b id) rfl

/-- A skip whose lookahead meets a page search holds the deck with the record it read (R64, R78). -/
theorem skipDone_waits {link : Nat} (hc : (s.decks.get d).current = some c) (hl : (s.decks.get d).lookahead = .notMade)
    (hh : c.holds = false) (hw : ¬ s.storeFree) (ha : inCueArea c.address) (hlink : link = (s.xm.read c.address).toNat)
    (hla : inCueArea link) (hclip : (s.xm.read (link + 2)).toNat < 128) (hapart : readApart c.address link) :
    s.skipDone d = ((skippedFrom s d c).onDeck d fun r =>
        { r with reading := some ⟨link, (skippedFrom s d c).xm.readBlock link 16, .skip c.address c.ends⟩ }).enqueue
          (.deckRead d) ∧
      ∀ n ≤ 10, ((skippedFrom s d c).xm.readBlock link 16).getD n 0 = s.xm.read (link + n) := by
  have hreach := skippedFrom_reaches s d c
  have hwords : ∀ n ≤ 10, (skippedFrom s d c).xm.read (link + n) = s.xm.read (link + n) := fun n hn =>
    hreach.xm _ (not_or.mpr ⟨cueArea_not_event hla (by omega), hapart n hn⟩)
  have haddr : (skippedFrom s d c).xm.read c.address = s.xm.read c.address := hreach.xm _ (link_not_written ha)
  have hmust : ¬ (skippedFrom s d c).storeFree := by
    simp [State.storeFree, State.mustWait, skippedFrom_clips]
  have hwalk := walk_waits (s := skippedFrom s d c) hla (by rw [hwords 2 (by omega)]; exact hclip) hmust 4 d
    (.skip c.address c.ends)
  refine ⟨?_, fun n hn => ?_⟩
  · rw [skipDone_walks hc hl hh hw, State.walkFrom, haddr, ← hlink, hwalk]
    rfl
  · rw [Mem.readBlock_getD _ _ _ _ (by omega), hwords n hn]

end

/-! ## The command -/

/-- A deck held by the read of its skip's lookahead, the answer kept back (R64, R84). -/
def skipHeld (z : State) (d : DeckId) (c : Cue) (link F : Nat) : State :=
  ((z.onDeck d fun r => { r with reading := some ⟨link, z.xm.readBlock link 16, .skip c.address c.ends⟩ }).enqueue
    (.deckRead d)).onDeck d fun r => { r with skipReply := some F }

theorem skipHeld_deck (z : State) (d : DeckId) (c : Cue) (link F : Nat) :
    (skipHeld z d c link F).decks.get d =
      { z.decks.get d with
        reading := some ⟨link, z.xm.readBlock link 16, .skip c.address c.ends⟩, skipReply := some F } := by
  show ((z.onDeck d fun r =>
    { r with reading := some ⟨link, z.xm.readBlock link 16, .skip c.address c.ends⟩ }).decks.modify d _).get d = _
  rw [PerDeck.get_modify_same, State.onDeck_decks, PerDeck.get_modify_same]

@[simp] theorem skipHeld_messages (z : State) (d : DeckId) (c : Cue) (link F : Nat) :
    (skipHeld z d c link F).messages = z.messages := rfl
@[simp] theorem skipHeld_xm (z : State) (d : DeckId) (c : Cue) (link F : Nat) : (skipHeld z d c link F).xm = z.xm := rfl
@[simp] theorem skipHeld_clips (z : State) (d : DeckId) (c : Cue) (link F : Nat) :
    (skipHeld z d c link F).clips = { z.clips with waiting := z.clips.waiting ++ [.deckRead d] } := rfl

theorem skipHeld_reaches (z : State) (d : DeckId) (c : Cue) (link F : Nat) {ps : List Part} {w : Nat → Prop}
    (hd : .decks ∈ ps) (hk : .clips ∈ ps) : Reaches ps w z (skipHeld z d c link F) :=
  (((Reaches.refl _ _ z).deck hd d _).enqueue hk _).deck hd d _

theorem skipDeck_waits {u : State} {d : DeckId} {c : Cue} {n link : Nat} (hlive : (u.decks.get d).live = true)
    (hp : (u.decks.get d).pendingEnd ≠ .stop) (ho : (u.air.sources.get (.deck d)).state = .off)
    (hz : (u.air.sources.get (.deck d)).level = 0)
    (hskip : (skipBegun u d (min n 10000)).skipDone d =
      ((skippedFrom (skipBegun u d (min n 10000)) d c).onDeck d fun r =>
        { r with reading := some ⟨link, (skippedFrom (skipBegun u d (min n 10000)) d c).xm.readBlock link 16,
          .skip c.address c.ends⟩ }).enqueue (.deckRead d)) :
    u.skipDeck d n =
      (skipHeld (skippedFrom (skipBegun u d (min n 10000)) d c) d c link (min n 10000), .later) := by
  have hheld : (((skippedFrom (skipBegun u d (min n 10000)) d c).onDeck d fun r =>
      { r with reading := some ⟨link, (skippedFrom (skipBegun u d (min n 10000)) d c).xm.readBlock link 16,
        .skip c.address c.ends⟩ }).decks.get d).reading.isSome = true := by
    rw [State.onDeck_decks, PerDeck.get_modify_same]
    rfl
  simp only [State.skipDeck, hlive, hp, ne_eq, not_false_eq_true, and_self, if_true]
  rw [skip_completes ho hz, hskip]
  exact if_pos hheld

/-- The state a DECK_SKIP leaves that completes at once and whose lookahead waits for a lock. -/
def skipWaiting (s : State) (deck fade : Word) (d : DeckId) (c : Cue) (link : Nat) : State :=
  skipHeld (skippedFrom (skipBegun (s.issuedTo .a .deckSkip [deck, fade]) d (min fade.toNat 10000)) d c) d c link
    (min fade.toNat 10000)

section

variable {s : State} {deck fade : Word} {d : DeckId} {c : Cue} {link : Nat}

theorem skipWaiting_reaches (s : State) (deck fade : Word) (d : DeckId) (c : Cue) (link : Nat) :
    Reaches [.air, .decks, .clips, .arbiter] (fun b => eventWord b ∨ completionWord c.address b)
      (s.issuedTo .a .deckSkip [deck, fade]) (skipWaiting s deck fade d c link) :=
  ((skipBegun_reaches _ d _ (by simp) (by simp)).trans (skippedFrom_reaches _ d c)).trans
    (skipHeld_reaches _ d c link _ (by simp) (by simp))

theorem skipWaiting_messages (s : State) (deck fade : Word) (d : DeckId) (c : Cue) (link : Nat) :
    (skipWaiting s deck fade d c link).messages = s.messages := by
  rw [skipWaiting, skipHeld_messages, skippedFrom_messages]
  rfl

theorem skipWaiting_clips (s : State) (deck fade : Word) (d : DeckId) (c : Cue) (link : Nat) :
    (skipWaiting s deck fade d c link).clips =
      { s.clips with waiting := s.clips.waiting ++ [.unlock c.clip, .deckRead d] } := by
  have hbegun : (skipBegun (s.issuedTo .a .deckSkip [deck, fade]) d (min fade.toNat 10000)).clips = s.clips := rfl
  rw [skipWaiting, skipHeld_clips, skippedFrom_clips, hbegun]
  simp

theorem skipWaiting_completion (ha : inCueArea c.address) :
    (skipWaiting s deck fade d c link).completion c.address .cut c.played none :=
  completion_of_same (skippedFrom_completion (d := d) ha) fun b _ => by rw [skipWaiting, skipHeld_xm]

theorem skipWaiting_deck (s : State) (deck fade : Word) (d : DeckId) (c : Cue) (link : Nat) :
    ∃ ws, ((skipWaiting s deck fade d c link).decks.get d).reading = some ⟨link, ws, .skip c.address c.ends⟩ ∧
      ws = (skippedFrom (skipBegun (s.issuedTo .a .deckSkip [deck, fade]) d (min fade.toNat 10000)) d c).xm.readBlock
        link 16 ∧
      ((skipWaiting s deck fade d c link).decks.get d).skipReply = some (min fade.toNat 10000) ∧
      ((skipWaiting s deck fade d c link).decks.get d).current = none := by
  rw [skipWaiting, skipHeld_deck]
  refine ⟨_, rfl, rfl, rfl, ?_⟩
  rw [skippedFrom, State.onDeck_decks, PerDeck.get_modify_same]

/-- The issue of such a DECK_SKIP, and the record it read (R64, R78). -/
theorem issue_skipWaits (h : s.accepts .a) (hd : deck.toNat = d.number) (hr : (s.decks.get d).reading = none)
    (hs : (s.decks.get d).state = .playing) (hp : (s.decks.get d).pendingEnd = .none)
    (ho : (s.air.sources.get (.deck d)).state = .off) (hz : (s.air.sources.get (.deck d)).level = 0)
    (hc : (s.decks.get d).current = some c) (hl : (s.decks.get d).lookahead = .notMade) (hh : c.holds = false)
    (ha : inCueArea c.address) (hw : ¬ s.storeFree) (hlink : link = (s.xm.read c.address).toNat) (hla : inCueArea link)
    (hclip : (s.xm.read (link + 2)).toNat < 128) (hapart : readApart c.address link) :
    s.issue .a .deckSkip [deck, fade] = skipWaiting s deck fade d c link ∧
      ∀ n ≤ 10, ((skippedFrom (skipBegun (s.issuedTo .a .deckSkip [deck, fade]) d (min fade.toNat 10000)) d c).xm.readBlock
        link 16).getD n 0 = s.xm.read (link + n) := by
  set u := s.issuedTo .a .deckSkip [deck, fade] with hu
  set y := skipBegun u d (min fade.toNat 10000) with hy
  have hyget := skipBegun_deck u d (min fade.toNat 10000)
  have hyclips : y.clips = s.clips := rfl
  have hywords : ∀ b, inCueArea b → ∀ k ≤ 15, y.xm.read (b + k) = s.xm.read (b + k) := fun b hb k hk =>
    issuedTo_record hb s .deckSkip [deck, fade] hk
  obtain ⟨hskip, hwords⟩ := skipDone_waits (s := y) (d := d) (c := c) (link := link) (by rw [hyget]; exact hc)
    (by rw [hyget]; exact hl) hh (by rwa [State.storeFree, State.mustWait, hyclips]) ha
    (by rw [hlink]; exact congrArg _ (hywords _ ha 0 (by omega)).symm) hla
    (by rw [hywords _ hla 2 (by omega)]; exact hclip) hapart
  have hpu : (u.decks.get d).pendingEnd = .none := hp
  have hcmd : u.skipDeck d fade.toNat = (skipWaiting s deck fade d c link, .later) :=
    skipDeck_waits (u := u) (live_iff.mpr (.inl hs)) (by simp [hpu]) ho hz hskip
  refine ⟨?_, fun n hn => by rw [hwords n hn, hywords _ hla n (by omega)]⟩
  rw [issue_deck (ready_of_accepts h) toDeck_skip (by simp) hd hr, deckCommand_skip, hcmd]
  rfl

/-- A DECK_SKIP that completes at once and whose lookahead waits for a lock is BUSY (R64, R78, R84). -/
theorem skip_waits {r : DeckRec} (h : s.accepts .a)
    (hd : deck.toNat = d.number) (hg : s.decks.get d = r) (hr : r.reading = none) (hs : r.state = .playing)
    (hp : r.pendingEnd = .none) (ho : (s.air.sources.get (.deck d)).state = .off)
    (hz : (s.air.sources.get (.deck d)).level = 0) (hc : r.current = some c) (hl : r.lookahead = .notMade)
    (hh : c.holds = false) (ha : inCueArea c.address) (hw : ¬ s.storeFree)
    (hlink : link = (s.xm.read c.address).toNat) (hla : inCueArea link) (hclip : (s.xm.read (link + 2)).toNat < 128)
    (hapart : readApart c.address link) :
    ∃ t, Sys2Proof.Machine.exec (.deckSkip .a deck fade) s = .next t ∧
      t.busyWith .a 0x0013 [deck, fade] ∧ t.completion c.address .cut c.played none ∧
      (∃ ws, (t.decks.get d).reading = some ⟨link, ws, .skip c.address c.ends⟩ ∧
        ∀ n ≤ 10, ws.getD n 0 = s.xm.read (link + n)) ∧
      (t.decks.get d).skipReply = some (min fade.toNat 10000) ∧ (t.decks.get d).current = none ∧
      t.clips = { s.clips with waiting := s.clips.waiting ++ [.unlock c.clip, .deckRead d] } ∧
      s.frame t [.air, .decks, .clips, .arbiter]
        (fun b => ownPage .a b ∨ eventWord b ∨ completionWord c.address b) := by
  subst hg
  obtain ⟨_, ⟨hmessages, hforced⟩, _⟩ := h.1
  obtain ⟨hissue, hwords⟩ := issue_skipWaits (fade := fade) h hd hr hs hp ho hz hc hl hh ha hw hlink hla hclip hapart
  have hreach := skipWaiting_reaches s deck fade d c link
  have hclips := skipWaiting_clips s deck fade d c link
  have hcompletion := skipWaiting_completion (s := s) (deck := deck) (fade := fade) (d := d) (link := link) ha
  have hvm := (skipWaiting_messages s deck fade d c link).trans hmessages
  obtain ⟨ws, hreading, hws, hreply, hcurrent⟩ := skipWaiting_deck s deck fade d c link
  rw [← hws] at hwords
  set v := skipWaiting s deck fade d c link with hv
  have hpage : leavesPage (fun b => eventWord b ∨ completionWord c.address b) .a :=
    leavesPage_or (leavesPage_event _) (leavesPage_completion ha _)
  have hstep : (s.act fun s => s.issue .a .deckSkip [deck, fade]) = v.publish :=
    act_publish (f := fun s => s.issue .a .deckSkip [deck, fade]) h.1 hissue hvm
  have hframe : s.frame v.publish [.air, .decks, .clips, .arbiter]
      (fun b => ownPage .a b ∨ eventWord b ∨ completionWord c.address b) :=
    command_frame (s₁ := s) (c := .deckSkip) (params := [deck, fade]) hforced (Reaches.refl _ _ s) hreach .later
      (Reaches.refl _ _ v)
  have hbusy : v.publish.busyWith .a 0x0013 [deck, fade] :=
    command_busy (s₁ := s) (c := .deckSkip) (params := [deck, fade]) (by simp) hreach hpage
  rw [exec_deckSkip, hstep]
  refine ⟨_, rfl, hbusy, completion_publish ha hcompletion, ?_⟩
  rw [State.publish_decks, State.publish_clips]
  exact ⟨⟨ws, hreading, hwords⟩, hreply, hcurrent, hclips, hframe⟩

end

end Sys2Proof.DecksAndCueChains

/-!
What an act finds where one deck owes what the latest takes brought (R71, R84; log 49): the end of a cue, and the segue
signal sent.
-/
namespace Sys2Proof.DecksAndCueChains

open Sys2Proof.Machine

/-! ## Acts one after another -/

theorem acts_append (s : State) (l m : List (State → State)) : s.acts (l ++ m) = (s.acts l).acts m :=
  List.foldl_append

theorem acts_cons (s : State) (f : State → State) (l : List (State → State)) : s.acts (f :: l) = (f s).drain.acts l := rfl

/-- Acts before a first one that changes something. -/
theorem acts_from {s v : State} {l m : List (State → State)} {f : State → State} (hm : s.messages = [])
    (h : ∀ g ∈ l, g s = s) (hf : (f s).drain = v) : s.acts (l ++ f :: m) = v.acts m := by
  rw [acts_append, s.acts_same l hm h, acts_cons, hf]

/-- What an act finds where only one deck owes anything (R84; log 49). -/
theorem found_oneDeck {s v : State} {d : DeckId} (hm : s.messages = []) (hr : s.rampsSettled)
    (ho : (s.decks.get d.other).owes = false) (hv : s.acts (deckActions d) = v) (hvm : v.messages = [])
    (hvo : (v.decks.get d.other).owes = false) (ha : v.alert.messageOwed = false) : s.found = v := by
  have hdecks : s.decksFound = v := by
    rw [State.decksFound, s.landed_settled hm hr, acts_append]
    cases d with
    | d1 => rw [hv, v.acts_same _ hvm (deckActions_owes v .d2 hvo)]
    | d2 => rw [s.acts_same _ hm (deckActions_owes s .d1 ho), hv]
  simp [State.found, hdecks, ha]

/-- The step of a released part that finds another state than it began in. -/
theorem act_found {s u : State} (f : State → State) (h : s.clock.power = .running) (hu : s.found = u) :
    s.act f = (f u).settle := by
  rw [State.act, s.released_running _ h, hu]

theorem ready_of_reaches {ps : List Part} {w : Nat → Prop} {s u : State} {p : Port} (h : Reaches ps w s u)
    (hc : .clock ∉ ps) (hs : s.clock.power = .running) (hwait : (s.ports.get p).wait = none)
    (hrun : (s.ports.get p).running = none) : Ready u p := by
  have hclock : u.clock = s.clock := h.keeps .clock hc
  have hbare := h.ports p
  refine ⟨by rw [hclock, hs], ?_, by rw [running_of_reaches h p, hrun]⟩
  have hw : (u.ports.get p).bare.wait = (s.ports.get p).bare.wait := by rw [hbare]
  exact hw.trans hwait

/-! ## Points not due -/

theorem deckPrimed_notDue (s : State) (d : DeckId) (h : (s.decks.get d).primed = false) : s.deckPrimed d = s := by
  simp [State.deckPrimed, h]

theorem fadeOutPoint_notDue (s : State) (d : DeckId) (h : (s.decks.get d).fadeDue = false) : s.fadeOutPoint d = s := by
  simp [State.fadeOutPoint, h]

theorem seguePoint_notDue (s : State) (d : DeckId) (h : (s.decks.get d).segueDue = false) : s.seguePoint d = s := by
  simp [State.seguePoint, h]

theorem endCue_notDue (s : State) (d : DeckId) (h : (s.decks.get d).endDue = false) : s.endCue d = s := by
  simp [State.endCue, h]

/-- A deck that plays or is held has no priming to end (R68). -/
theorem primed_live {r : DeckRec} (h : r.state = .playing ∨ r.state = .held) : r.primed = false := by
  unfold DeckRec.primed
  rcases h with h | h <;> cases r.current <;> simp [h]

/-- A deck without a current cue owes nothing. -/
theorem owes_empty {r : DeckRec} (h : r.current = none) : r.owes = false := by
  simp [DeckRec.owes, DeckRec.lookaheadDue, DeckRec.primed, DeckRec.fadeDue, DeckRec.segueDue, DeckRec.endDue, h]

/-- When the current cue's segue point is due (R71). -/
theorem segueDue_iff {r : DeckRec} {c : Cue} (hc : r.current = some c) :
    r.segueDue = true ↔ (r.state = .playing ∨ r.state = .held) ∧ r.reading = none ∧ r.pendingEnd = .none ∧
      c.segues = true ∧ c.segueDone = false ∧ 0 < c.segue ∧ c.length - c.segue ≤ c.played := by
  simp [DeckRec.segueDue, hc, Cue.seguePoint, ← live_iff, and_assoc]

/-- When the current cue's fade-out point is due (R71). -/
theorem fadeDue_iff {r : DeckRec} {c : Cue} (hc : r.current = some c) :
    r.fadeDue = true ↔ (r.state = .playing ∨ r.state = .held) ∧ r.reading = none ∧ r.pendingEnd = .none ∧
      c.fadeDone = false ∧ 0 < c.fadeOut ∧ c.length - c.fadeOut ≤ c.played := by
  simp [DeckRec.fadeDue, hc, Cue.fadePoint, ← live_iff, and_assoc]

/-! ## The end of a cue found -/

/-- A deck whose cue's end is due with everything before it done, and whose chain ends so that it rests (R73). -/
theorem found_played {s : State} {d : DeckId} {c : Cue} {resume : Option Nat} (hm : s.messages = [])
    (hr : s.rampsSettled) (ho : (s.decks.get d.other).owes = false) (ha : s.alert.messageOwed = false)
    (hc : (s.decks.get d).current = some c) (hfree : (s.decks.get d).reading = none)
    (hp : (s.decks.get d).pendingEnd = .none) (hlive : (s.decks.get d).state = .playing ∨ (s.decks.get d).state = .held)
    (hend : c.length ≤ c.played) (hl : (s.decks.get d).lookaheadDue = false) (hf : (s.decks.get d).fadeDue = false)
    (hs : (s.decks.get d).segueDue = false) (hplay : PlayedToRest d c resume s (s.playedOut d)) :
    s.found = { s.playedOut d with messages := [] } := by
  have hdue : (s.decks.get d).endDue = true := (endDue_iff hc).mpr ⟨live_iff.mpr hlive, hend, hfree⟩
  set v : State := { s.playedOut d with messages := [] } with hv
  have hdrain : (s.endCue d).drain = v := by rw [endCue_plays hdue hl hfree hp, hplay.drain hm hfree]
  have hdecks : v.decks = s.decks.set d ((s.decks.get d).atRest resume) := hplay.decks
  have hempty : (v.decks.get d).owes = false := by
    rw [hdecks, PerDeck.get_set_same]
    exact owes_empty rfl
  refine found_oneDeck (d := d) hm hr ho ?_ rfl ?_ ?_
  · refine (acts_from (l := [fun s => s.makeLookahead d, fun s => s.deckPrimed d, fun s => s.fadeOutPoint d,
      fun s => s.seguePoint d]) (f := fun s => s.endCue d) hm ?_ hdrain).trans ?_
    · simp [makeLookahead_notDue s d hl, deckPrimed_notDue s d (primed_live hlive), fadeOutPoint_notDue s d hf,
        seguePoint_notDue s d hs]
    · exact v.acts_same _ rfl (by simp [v.makeLookahead_owes d hempty])
  · rw [hdecks, get_set_other]
    exact ho
  · have halert : (s.playedOut d).alert = s.alert := hplay.reaches.keeps .alert (by simp)
    show (s.playedOut d).alert.messageOwed = false
    rw [halert]
    exact ha

/-! ## The segue signal -/

/-- A cue whose segue signal has been sent (R71). -/
def segueSent (s : State) (d : DeckId) (c : Cue) : State :=
  s.onDeck d fun r => { r with current := some { c with segueDone := true } }

theorem segueSent_decks (s : State) (d : DeckId) (c : Cue) :
    (segueSent s d c).decks = s.decks.set d { s.decks.get d with current := some { c with segueDone := true } } := rfl

theorem segueSent_forced {s : State} {d : DeckId} {c : Cue} (hc : (s.decks.get d).current = some c) :
    (segueSent s d c).forced = s.forced :=
  onDeck_forced_same s d _ (by simp [deckKey, hc])

theorem seguePoint_due {s : State} {d : DeckId} {c : Cue} (hc : (s.decks.get d).current = some c)
    (h : (s.decks.get d).segueDue = true) : s.seguePoint d = (segueSent s d c).tell [.segue d.other] := by
  simp only [State.seguePoint, h, if_true, hc]
  rfl

theorem withMessages_self {s : State} {ms : List Message} (h : s.messages = ms) : ({ s with messages := ms } : State) = s := by
  rw [← h]

/-- A signal sent from a state without messages, and what its delivery leaves (R80). -/
theorem drains_segue {s u : State} {o : DeckId} (hm : s.messages = []) (hu : s.deckTake o .segue = u) :
    Drains 1 (s.tell [.segue o]) u := by
  refine Drains.one (m := .segue o) (t := []) (by simp [State.tell, hm]) ?_
  show State.deckTake { s with messages := [] } o .segue = u
  rw [withMessages_self hm, hu]

/-- A segue signal that finds the deck neither CUED nor LOADING is missed (R80). -/
def segueMissed (s : State) : State := (s.raiseAll .segueMissed).count .segueMissed

theorem deckTake_missed {s : State} {o : DeckId} (hr : (s.decks.get o).reading = none)
    (h1 : (s.decks.get o).state ≠ .cued) (h2 : (s.decks.get o).state ≠ .loading) :
    s.deckTake o .segue = segueMissed s := by
  simp only [State.deckTake, hr, Option.isSome_none, Bool.false_eq_true, if_false, State.deckHandle, State.deckSegue]
  rfl

theorem segueMissed_reaches (s : State) {ps : List Part} {w : Nat → Prop} (hp : .counters ∈ ps)
    (hw : ∀ b, eventWord b → w b) : Reaches ps w s (segueMissed s) :=
  ((Reaches.refl ps w s).raiseAll hw _).count hp _

theorem segueMissed_has (s : State) (p : Port) : (segueMissed s).hasEvent p .segueMissed :=
  hasEvent_of_same (s.raiseAll_has _ p) rfl

theorem segueMissed_events {s : State} {p : Port} {e : Event} (h : s.hasEvent p e) : (segueMissed s).hasEvent p e :=
  hasEvent_of_same (hasEvent_raiseAll h .segueMissed) rfl

theorem segueMissed_counters (s : State) : (segueMissed s).counters = (s.count .segueMissed).counters := by
  rw [segueMissed, State.count_counters, State.count_counters]
  rfl

/-- A deck's segue signal sent and missed, in the parts that it leaves or changes (R71, R80). -/
theorem signalLost (s : State) (d : DeckId) (c : Cue) :
    ∃ u, segueMissed (segueSent s d c) = u ∧ u.messages = s.messages ∧ u.air = s.air ∧
      u.counters = (s.count .segueMissed).counters ∧ (∀ p, u.hasEvent p .segueMissed) ∧
      u.decks = s.decks.set d { s.decks.get d with current := some { c with segueDone := true } } ∧
      ∀ ps : List Part, .decks ∈ ps → .counters ∈ ps → Reaches ps eventWord s u :=
  ⟨_, rfl, rfl, rfl, segueMissed_counters _, segueMissed_has _, rfl, fun _ hd hc =>
    ((Reaches.refl _ _ s).deck hd d _).trans (segueMissed_reaches _ hc fun _ h => h)⟩

/-- A segue point acted on whose signal the other deck misses (R71, R80). -/
theorem seguePoint_missed {s : State} {d : DeckId} {c : Cue} (hm : s.messages = [])
    (hc : (s.decks.get d).current = some c) (h : (s.decks.get d).segueDue = true)
    (hr : (s.decks.get d.other).reading = none) (h1 : (s.decks.get d.other).state ≠ .cued)
    (h2 : (s.decks.get d.other).state ≠ .loading) : (s.seguePoint d).drain = segueMissed (segueSent s d c) := by
  have hother : (segueSent s d c).decks.get d.other = s.decks.get d.other := by rw [segueSent_decks, get_set_other]
  rw [seguePoint_due hc h]
  refine (drains_segue (s := segueSent s d c) hm (deckTake_missed ?_ ?_ ?_)).drain (by omega) hm
  · rw [hother, hr]
  · rw [hother]
    exact h1
  · rw [hother]
    exact h2

/-- What an act finds of a deck whose segue point alone is due, its signal missed (R71, R80; log 49). -/
theorem found_segueMissed {s : State} {d : DeckId} {c : Cue} (hm : s.messages = []) (hramps : s.rampsSettled)
    (ho : (s.decks.get d.other).owes = false) (ha : s.alert.messageOwed = false)
    (hc : (s.decks.get d).current = some c) (hplayed : c.played < c.length) (hl : (s.decks.get d).lookaheadDue = false)
    (hf : (s.decks.get d).fadeDue = false) (hs : (s.decks.get d).segueDue = true)
    (hr : (s.decks.get d.other).reading = none) (h1 : (s.decks.get d.other).state ≠ .cued)
    (h2 : (s.decks.get d.other).state ≠ .loading) : s.found = segueMissed (segueSent s d c) := by
  have hdrain := seguePoint_missed hm hc hs hr h1 h2
  obtain ⟨hlive, _⟩ := (segueDue_iff hc).mp hs
  set v := segueMissed (segueSent s d c) with hv
  have hvm : v.messages = [] := hm
  have hdecks : v.decks = s.decks.set d { s.decks.get d with current := some { c with segueDone := true } } := rfl
  have hend : (v.decks.get d).endDue = false := by
    rw [hdecks, PerDeck.get_set_same]
    simp [DeckRec.endDue, hplayed]
  have hlook : (v.decks.get d).lookaheadDue = false := by
    rw [hdecks, PerDeck.get_set_same]
    simpa [DeckRec.lookaheadDue, hc] using hl
  refine found_oneDeck (d := d) hm hramps ho ?_ hvm ?_ ha
  · refine (acts_from (l := [fun s => s.makeLookahead d, fun s => s.deckPrimed d, fun s => s.fadeOutPoint d])
      (f := fun s => s.seguePoint d) hm ?_ hdrain).trans ?_
    · simp [makeLookahead_notDue s d hl, deckPrimed_notDue s d (primed_live hlive), fadeOutPoint_notDue s d hf]
    · exact v.acts_same _ hvm (by simp [endCue_notDue v d hend, makeLookahead_notDue v d hlook])
  · rw [hdecks, get_set_other]
    exact ho

end Sys2Proof.DecksAndCueChains

/-!
O35: DECK_STOP and DECK_SKIP behind the takes that came before them, and the statement (R71, R76, R84; log 49).
-/
namespace Sys2Proof.DecksAndCueChains

open Sys2Proof.Machine

section

variable {s : State} {deck fade : Word} {d : DeckId} {r : DeckRec} {c : Cue}

/-- DECK_STOP and DECK_SKIP, each with the end it leaves pending. -/
def EndCommand (n : Instr) (code : Word) (deck fade : Word) (k : Command) (e : PendingEnd) : Prop :=
  (n = .deckStop .a deck fade ∧ code = 0x0012 ∧ k = .deckStop ∧ e = .stop) ∨
    (n = .deckSkip .a deck fade ∧ code = 0x0013 ∧ k = .deckSkip ∧ e = .skip)

variable {n : Instr} {code : Word} {k : Command} {e : PendingEnd}

theorem EndCommand.exec (h : EndCommand n code deck fade k e) (s : State) :
    Sys2Proof.Machine.exec n s = .next (s.act fun s => s.issue .a k [deck, fade]) := by
  rcases h with ⟨rfl, -, rfl, -⟩ | ⟨rfl, -, rfl, -⟩
  · exact exec_deckStop s deck fade
  · exact exec_deckSkip s deck fade

theorem EndCommand.toDeck (h : EndCommand n code deck fade k e) : ToDeck k := by
  rcases h with ⟨-, -, rfl, -⟩ | ⟨-, -, rfl, -⟩
  · exact toDeck_stop
  · exact toDeck_skip

theorem EndCommand.code_eq (h : EndCommand n code deck fade k e) : k.code = code := by
  rcases h with ⟨-, rfl, rfl, -⟩ | ⟨-, rfl, rfl, -⟩ <;> rfl

/-- Either command begins a fade of a deck on the air. -/
theorem EndCommand.fades (h : EndCommand n code deck fade k e) {u : State} (s : State)
    (hf : FadesOut (u.decks.get d) (u.air.sources.get (.deck d))) (hp : e = .skip → (u.decks.get d).pendingEnd ≠ .stop) :
    u.deckCommand k d (s.copyOf .a [deck, fade]) = (fadeBegun u d e (min fade.toNat 10000),
      .done [d.number, deckCode (u.decks.get d).state, min fade.toNat 10000]) := by
  rcases h with ⟨-, -, rfl, rfl⟩ | ⟨-, -, rfl, rfl⟩
  · rw [deckCommand_stop, stopDeck_fades hf]
  · rw [deckCommand_skip, skipDeck_fades hf (hp rfl)]

/-- Either command is refused by an IDLE deck (R77, R78). -/
theorem EndCommand.idle (h : EndCommand n code deck fade k e) {u : State} (s : State)
    (hs : (u.decks.get d).state = .idle) :
    u.deckCommand k d (s.copyOf .a [deck, fade]) = (u, .refused .badState) := by
  rcases h with ⟨-, -, rfl, -⟩ | ⟨-, -, rfl, -⟩
  · simp only [deckCommand_stop, State.stopDeck, hs]
  · simp [deckCommand_skip, State.skipDeck, DeckRec.live, hs]

/-! ## Behind the take of a cue's last pair (R71, R84; log 49) -/

theorem endCommand_afterEnd (h : EndCommand n code deck fade k e) (hacc : s.acceptsOwing .a)
    (hd : deck.toNat = d.number) (hg : s.decks.get d = r) (ho : (s.decks.get d.other).owes = false)
    (hr : r.reading = none) (hp : r.pendingEnd = .none) (hlive : r.state = .playing ∨ r.state = .held)
    (hc : r.current = some c) (hf : r.fadeDue = false) (hend : c.length ≤ c.played) (hs : r.segueDue = false)
    (hn : r.next = none) (hl : r.lookahead = .none) (hh : c.holds = false) (he : c.ends = true)
    (ha : inCueArea c.address) (hk : s.keepsClip c.clip) :
    ∃ t, Sys2Proof.Machine.exec n s = .next t ∧ t.completion c.address .played c.length none ∧
      (c.notifies = true → ∀ p, t.hasEvent p .cueDone) ∧ (∀ p, t.hasEvent p .deckStopped) ∧
      t.decks = s.decks.set d (r.atRest none) ∧ t.clips = s.lockReleased c.clip ∧
      (t.air.sources.get (.deck d)).state = .off ∧
      t.air = s.air.withSource (.deck d) (t.air.sources.get (.deck d)) ∧ t.refusedWith .a code .badState ∧
      s.samePorts t ∧ s.frame t [.air, .decks, .clips, .arbiter]
        (fun b => ownPage .a b ∨ eventWord b ∨ completionWord c.address b) := by
  subst hg
  obtain ⟨⟨hpower, ⟨hmessages, hforced⟩, hramps⟩, halert, hwait, hrun⟩ := hacc
  have hlook : (s.decks.get d).lookaheadDue = false := by simp [DeckRec.lookaheadDue, hc, hl]
  have hplay : PlayedToRest d c none s (s.playedOut d) :=
    playedOut_rests hc hn ha hk (.inr (.inl ⟨rfl, hh, hl, he⟩))
  have hfound := found_played hmessages hramps ho halert hc hr hp hlive hend hlook hf hs hplay
  set u : State := { s.playedOut d with messages := [] } with hu
  have hreach : Reaches [.air, .decks, .clips, .arbiter] (fun b => eventWord b ∨ completionWord c.address b) s u :=
    hplay.reaches.messages []
  have hready : Ready u .a := ready_of_reaches hreach (by simp) hpower hwait hrun
  have hdeck : u.decks.get d = (s.decks.get d).atRest none := by
    show (s.playedOut d).decks.get d = _
    rw [hplay.decks, PerDeck.get_set_same]
  have hfree : (u.decks.get d).reading = none := by rw [hdeck]; exact hr
  have hidle : ((u.issuedTo .a k [deck, fade]).decks.get d).state = .idle := by
    show (u.decks.get d).state = .idle
    rw [hdeck]
    rfl
  have hissue : u.issue .a k [deck, fade] = (u.issuedTo .a k [deck, fade]).answer .a (.refused .badState) := by
    rw [issue_deck hready h.toDeck (by simp) hd hfree, h.idle u hidle]
  have hstep : (s.act fun s => s.issue .a k [deck, fade]) =
      ((u.issuedTo .a k [deck, fade]).answer .a (.refused .badState)).publish := by
    rw [act_found _ hpower hfound, hissue, State.settle_plain _ (State.messages_answer _ _ _)]
  set v := (u.issuedTo .a k [deck, fade]).answer .a (.refused .badState) with hv
  have hevent : ∀ p x, (s.playedOut d).hasEvent p x → v.publish.hasEvent p x := fun p x hx =>
    hasEvent_publish (answer_hasEvent (q := .a) _ (issuedTo_hasEvent u k [deck, fade] hx))
  have hraises : raisesStopped (s.decks.get d).notify (s.decks.get d).state true = true := by
    rcases hlive with hlive | hlive <;> cases (s.decks.get d).notify <;> simp [raisesStopped, hlive]
  have hpage : leavesPage (fun b => eventWord b ∨ completionWord c.address b) .a :=
    leavesPage_or (leavesPage_event _) (leavesPage_completion ha _)
  have hissued : Reaches [.air, .decks, .clips, .arbiter] (fun b => eventWord b ∨ completionWord c.address b)
      (u.issuedTo .a k [deck, fade]) (u.issuedTo .a k [deck, fade]) := Reaches.refl _ _ _
  have hair : v.publish.air = s.air.cutOff (.deck d) := by
    rw [State.publish_air, hv, answer_air]
    exact hplay.air
  obtain ⟨hoff, hsource⟩ := cutOff_withSource s.air d
  rw [h.exec, hstep]
  refine ⟨_, rfl, completion_publish ha (completion_of_same hplay.completion fun b hb => ?_),
    fun hno p => hevent p _ (hplay.done hno p), fun p => hevent p _ (hplay.stopped hraises p), ?_, ?_, ?_, ?_,
    h.code_eq ▸ command_refused hissued hpage (Reaches.refl _ _ v),
    command_ports hrun hreach hissued (by simp) (Reaches.refl _ _ v),
    command_frame hforced hreach hissued _ (Reaches.refl _ _ v)⟩
  · have hpageb := completionWord_not_ownPage ha hb .a
    rw [hv, State.answer_read _ _ _ _ hpageb, State.issuedTo_read _ _ _ _ _ hpageb]
  · rw [State.publish_decks, hv, answer_decks]
    exact hplay.decks
  · rw [State.publish_clips, hv, answer_clips]
    exact hplay.clips
  · rw [hair]
    exact hoff
  · rw [hair]
    exact hsource

/-! ## Behind the take that reached the segue point (R71, R80, R84; log 49) -/

theorem endCommand_afterSegue (h : EndCommand n code deck fade k e) (hacc : s.acceptsOwing .a)
    (hd : deck.toNat = d.number) (hg : s.decks.get d = r) (ho : (s.decks.get d.other).owes = false)
    (hr : r.reading = none) (hp : r.pendingEnd = .none) (hc : r.current = some c) (hf : r.fadeDue = false)
    (hend : c.played < c.length) (hs : r.segueDue = true) (hl : r.lookaheadDue = false)
    (hfades : FadesOut r (s.air.sources.get (.deck d))) (hor : (s.decks.get d.other).reading = none)
    (h1 : (s.decks.get d.other).state ≠ .cued) (h2 : (s.decks.get d.other).state ≠ .loading) :
    ∃ t, Sys2Proof.Machine.exec n s = .next t ∧ (∀ p, t.hasEvent p .segueMissed) ∧
      t.counters = (s.count .segueMissed).counters ∧
      t.air = s.air.ramped (.deck d) 0 (min fade.toNat 10000 * 48) ∧
      t.decks = s.decks.set d
        { r with current := some { c with segueDone := true }, pendingEnd := e, pendingFade := min fade.toNat 10000 } ∧
      s.doneWithin t .a code [d.number, deckCode r.state, min fade.toNat 10000] [.air, .decks, .counters] eventWord := by
  subst hg
  obtain ⟨⟨hpower, ⟨hmessages, hforced⟩, hramps⟩, halert, hwait, hrun⟩ := hacc
  have hfound := found_segueMissed hmessages hramps ho halert hc hend hl hf hs hor h1 h2
  obtain ⟨u, hu, hum, huair, hucounters, huevent, hudecks, hureach⟩ := signalLost s d c
  rw [hu] at hfound
  have hreach := hureach [.air, .decks, .counters] (by simp) (by simp)
  have hready : Ready u .a := ready_of_reaches hreach (by simp) hpower hwait hrun
  have hdeck : u.decks.get d = { s.decks.get d with current := some { c with segueDone := true } } :=
    by rw [hudecks, PerDeck.get_set_same]
  have hstate : (u.decks.get d).state = (s.decks.get d).state := by rw [hdeck]
  have hfadesu : FadesOut (u.decks.get d) (u.air.sources.get (.deck d)) := by
    rw [hdeck, huair]
    exact ⟨hfades.free, hfades.sounding, hfades.live, hfades.source⟩
  have hcmd : (u.issuedTo .a k [deck, fade]).deckCommand k d (u.copyOf .a [deck, fade]) =
      (fadeBegun (u.issuedTo .a k [deck, fade]) d e (min fade.toNat 10000),
        .done [d.number, deckCode (u.decks.get d).state, min fade.toNat 10000]) :=
    h.fades u hfadesu fun _ => by
      show (u.decks.get d).pendingEnd ≠ .stop
      rw [hdeck]
      simp [hp]
  obtain ⟨hair, hdecks, hcounters, hevents, hdone⟩ := fade_command hforced hrun hreach hready
    (hum.trans hmessages) h.toDeck hd hfadesu hcmd (by simp) (by simp) (leavesPage_event _)
  rw [h.exec, act_found _ hpower hfound]
  rw [huair] at hair
  rw [hdeck, hudecks, perDeck_set_set] at hdecks
  rw [h.code_eq, hstate] at hdone
  exact ⟨_, rfl, fun p => hevents p _ (huevent p), hcounters.trans hucounters, hair, hdecks, hdone⟩

/-- DECK_STOP and DECK_SKIP of a deck on the air (R8, R76, R78). -/
theorem endCommand_fades (h : EndCommand n code deck fade k e) (hacc : s.accepts .a) (hd : deck.toNat = d.number)
    (hg : s.decks.get d = r) (hp : e = .skip → r.pendingEnd ≠ .stop)
    (hfades : FadesOut r (s.air.sources.get (.deck d))) :
    ∃ t, Sys2Proof.Machine.exec n s = .next t ∧ t.air = s.air.ramped (.deck d) 0 (min fade.toNat 10000 * 48) ∧
      t.decks = s.decks.set d { r with pendingEnd := e, pendingFade := min fade.toNat 10000 } ∧
      s.doneWithin t .a code [d.number, deckCode r.state, min fade.toNat 10000] [.air, .decks] (fun _ => False) := by
  subst hg
  obtain ⟨hair, hdecks, -, -, hdone⟩ := fade_command (d := d) (e := e) (F := min fade.toNat 10000) (c := k) (deck := deck)
    (fade := fade) hacc.1.2.1.2 hacc.2.2 (Reaches.refl [.air, .decks] (fun _ => False) s) (ready_of_accepts hacc)
    hacc.1.2.1.1 h.toDeck hd hfades (h.fades s hfades hp) (by simp) (by simp) (leavesPage_none _)
  rw [h.exec, s.act_runs _ hacc.1]
  rw [h.code_eq] at hdone
  exact ⟨_, rfl, hair, hdecks, hdone⟩

end

/-! ## The statement -/

/-- Settles O35: a stop and a skip by their deck's state, and behind the takes that came before them. -/
theorem deckStopsAndSkipsFade : Obligations.DeckStopsAndSkipsFade := by
  refine ⟨fun s deck fade d r c hacc hd hg ho hr hp hlive hc hf =>
      ⟨fun hend hs hn hl hh he ha hk n code hcode => ?_,
        fun o a F hog hag hF hend hs hl hsilent hsource hor h1 h2 n code e hcode => ?_⟩,
    fun s deck fade h hd => ?_, fun s deck fade d h hd hr => ?_,
    fun s deck fade d r a F h hd hg hr hF hag => ⟨fun hs => ?_, fun hs => ?_, fun hsource hsilent => ?_,
      fun c hs hc ha hn hk => ?_, fun hs hc hn ha => ?_,
      fun c link hs hp ho hz hc _ hl hh ha hw hlink hla hclip hapart => ?_⟩⟩
  · rcases hcode with ⟨hn', hcode⟩ | ⟨hn', hcode⟩
    · exact endCommand_afterEnd (.inl ⟨hn', hcode, rfl, rfl⟩) hacc hd hg ho hr hp hlive hc hf hend hs hn hl hh he ha hk
    · exact endCommand_afterEnd (.inr ⟨hn', hcode, rfl, rfl⟩) hacc hd hg ho hr hp hlive hc hf hend hs hn hl hh he ha hk
  · subst hog hag hF
    have hfades : FadesOut r (s.air.sources.get (.deck d)) := ⟨hr, hsilent, hlive, hsource⟩
    rcases hcode with ⟨hn', hcode, he⟩ | ⟨hn', hcode, he⟩
    · exact endCommand_afterSegue (.inl ⟨hn', hcode, rfl, he⟩) hacc hd hg ho hr hp hc hf hend hs hl hfades hor h1 h2
    · exact endCommand_afterSegue (.inr ⟨hn', hcode, rfl, he⟩) hacc hd hg ho hr hp hc hf hend hs hl hfades hor h1 h2
  · obtain ⟨t, ht, hstop⟩ := noDeck_refused h toDeck_stop (rest := [fade]) (by simp) hd
    obtain ⟨t', ht', hskip⟩ := noDeck_refused h toDeck_skip (rest := [fade]) (by simp) hd
    exact ⟨⟨t, congrArg _ ht, hstop⟩, t', congrArg _ ht', hskip⟩
  · obtain ⟨t, ht, hstop⟩ := held_busy h toDeck_stop (rest := [fade]) (by simp) hd hr
    obtain ⟨t', ht', hskip⟩ := held_busy h toDeck_skip (rest := [fade]) (by simp) hd hr
    exact ⟨⟨t, congrArg _ ht, hstop⟩, t', congrArg _ ht', hskip⟩
  · have hidle : ((s.issuedTo .a .deckStop [deck, fade]).decks.get d).state = .idle := by
      show (s.decks.get d).state = .idle
      rw [hg, hs]
    obtain ⟨t, ht, hrefused⟩ := deck_refused h toDeck_stop (rest := [fade]) (by simp) hd (hg ▸ hr) .badState
      (by simp only [deckCommand_stop, State.stopDeck, hidle])
    exact ⟨t, congrArg _ ht, hrefused⟩
  · have hnot : ¬ ((s.decks.get d).live = true ∧ (s.decks.get d).pendingEnd ≠ .stop) := by
      rw [hg, live_iff]
      rintro ⟨h1, h2⟩
      rcases hs with ⟨h3, h4⟩ | hs
      · exact h1.elim h3 h4
      · exact h2 hs
    obtain ⟨t, ht, hrefused⟩ := deck_refused h toDeck_skip (rest := [fade]) (by simp) hd (hg ▸ hr) .badState (by
      rw [deckCommand_skip]
      exact if_neg hnot)
    exact ⟨t, congrArg _ ht, hrefused⟩
  · subst hag hF
    have hfades : FadesOut r (s.air.sources.get (.deck d)) := by
      rcases hsource with ⟨h1, h2, h3, h4⟩ | ⟨h1, h2⟩
      · exact ⟨hr, hsilent, .inl h1, .inl ⟨h1, h2, h4⟩⟩
      · exact ⟨hr, hsilent, h1, .inr h2⟩
    exact ⟨endCommand_fades (.inl ⟨rfl, rfl, rfl, rfl⟩) h hd hg (fun he => by simp at he) hfades,
      fun hp => endCommand_fades (.inr ⟨rfl, rfl, rfl, rfl⟩) h hd hg (fun _ => hp) hfades⟩
  · subst hF
    exact stop_cuts h hd hg hr hs hc ha hn hk
  · subst hF
    exact stop_suspended h hd hg hr hs hc hn (hag ▸ ha)
  · subst hF hag
    exact skip_waits h hd hg hr hs hp ho hz hc hl hh ha hw hlink hla hclip hapart

end Sys2Proof.DecksAndCueChains

/-!
A cue's start (R67): the RAMP and what the deck takes of its notices, and the segue signal of a cue whose segue point is its
first pair, with the cue it starts in turn (R80, R82).
-/
namespace Sys2Proof.DecksAndCueChains

open Sys2Proof.Machine

/-! ## The act -/

/-- The target and length a cue's first RAMP asks for (R67). -/
def startTarget (c : Cue) : Nat := if 0 < c.fadeOut ∧ c.length ≤ c.fadeOut then 0 else c.gain
def startLength (c : Cue) : Nat := if 0 < c.fadeOut ∧ c.length ≤ c.fadeOut then c.fadeOut else c.fadeIn

theorem firstTarget_eq (c : Cue) : c.firstTarget = min (startTarget c) 32768 := by
  unfold Cue.firstTarget startTarget
  split
  · rfl
  · rfl

theorem firstLength_eq (c : Cue) : c.firstLength = min (startLength c) 480000 := rfl

theorem ramped_first (a : AirMap) (d : DeckId) (c : Cue) :
    a.ramped (.deck d) (startTarget c) (startLength c) = a.ramped (.deck d) c.firstTarget c.firstLength := by
  simp [AirMap.ramped, firstTarget_eq, firstLength_eq]

/-- The source's record after a cue's first RAMP. -/
def startedSource (a : AirMap) (d : DeckId) (c : Cue) : SourceRec := rampedRec a d (startTarget c) (startLength c)

/-- A cue's first RAMP leaves its source HELD where it was HELD, or OFF under hold (R8, R67). -/
theorem startedSource_held_iff (a : AirMap) (d : DeckId) (c : Cue) :
    (startedSource a d c).state = .held ↔ (a.sources.get (.deck d)).state = .held ∨
      (a.hold = true ∧ (a.sources.get (.deck d)).state = .off ∧ c.firstTarget ≠ 0) := by
  rw [startedSource, rampedRec_held_iff, firstTarget_eq]

/-- The deck's record as the start leaves it, before the RAMP's notices are taken. -/
def startRec (r : DeckRec) (c : Cue) (new : SourceRec) : DeckRec :=
  { r with
    state := if new.state = .held then .held else .playing
    current := some
      { c with played := 0, fadeDone := decide (0 < c.fadeOut ∧ c.length ≤ c.fadeOut), segueDone := c.signals } }

/-- The segue signal a start sends (R67). -/
def startSignal (d : DeckId) (c : Cue) : List Message := if c.signals then [.segue d.other] else []

theorem startCue_steps {s : State} {d : DeckId} {c : Cue} (hc : (s.decks.get d).current = some c) :
    s.startCue d =
      let w := (s.writeCompletion c.address .playing 0 none).airRamp (.deck d) (startTarget c) (startLength c)
      let v := w.1.onDeck d fun r =>
        { r with
          state := if w.2 = .deferred then .held else .playing
          current := some
            { c with played := 0, fadeDone := decide (0 < c.fadeOut ∧ c.length ≤ c.fadeOut), segueDone := c.signals } }
      if c.signals then v.tell [.segue d.other] else v := by
  have hfade : (0 < c.fadeOut ∧ c.fadePoint = 0) ↔ (0 < c.fadeOut ∧ c.length ≤ c.fadeOut) := by
    unfold Cue.fadePoint
    omega
  have hsegue : (0 < c.segue ∧ c.seguePoint = 0) ↔ (0 < c.segue ∧ c.length ≤ c.segue) := by
    unfold Cue.seguePoint
    omega
  unfold State.startCue Cue.signals startTarget startLength
  simp only [hc, hfade, hsegue]
  by_cases h : 0 < c.fadeOut ∧ c.length ≤ c.fadeOut
  · simp [h]
  · simp [h]

/-- What a start leaves before anything it sends is delivered (R67). -/
structure Begun (d : DeckId) (c : Cue) (s x : State) : Prop where
  messages : x.messages = s.messages ++
    rampNotices d (s.air.sources.get (.deck d)) (startedSource s.air d c) ++ startSignal d c
  decks : x.decks = s.decks.set d (startRec (s.decks.get d) c (startedSource s.air d c))
  air : x.air = s.air.ramped (.deck d) c.firstTarget c.firstLength
  completion : x.completion c.address .playing 0 none
  xm : ∀ b, ¬ completionWord c.address b → x.xm.read b = s.xm.read b
  reaches : ∀ (ps : List Part) (w : Nat → Prop), .decks ∈ ps → .air ∈ ps →
    (∀ b, completionWord c.address b → w b) → Reaches ps w s x

theorem startCue_begun {s : State} {d : DeckId} {c : Cue} (hc : (s.decks.get d).current = some c) :
    Begun d c s (s.startCue d) := by
  set u := s.writeCompletion c.address .playing 0 none with hu
  set w := u.airRamp (.deck d) (startTarget c) (startLength c) with hw
  have hramp : w.1 = ({ u with air := u.air.ramped (.deck d) (startTarget c) (startLength c) } : State).tell
      (rampNotices d (s.air.sources.get (.deck d)) (startedSource s.air d c)) := airRamp_deck u d _ _
  have hdefer : w.2 = .deferred ↔ (startedSource s.air d c).state = .held := airRamp_deferred_iff u d _ _
  set v := w.1.onDeck d fun r =>
    { r with
      state := if w.2 = .deferred then .held else .playing
      current := some
        { c with played := 0, fadeDone := decide (0 < c.fadeOut ∧ c.length ≤ c.fadeOut), segueDone := c.signals } } with hv
  have hstart : s.startCue d = if c.signals then v.tell [.segue d.other] else v := startCue_steps hc
  have hvm : v.messages = s.messages ++ rampNotices d (s.air.sources.get (.deck d)) (startedSource s.air d c) := by
    rw [hv, State.onDeck_messages, hramp]
    rfl
  have hdecks : v.decks = s.decks.set d (startRec (s.decks.get d) c (startedSource s.air d c)) := by
    rw [hv, State.onDeck_decks, PerDeck.modify, hramp]
    simp only [hdefer]
    rfl
  have hair : v.air = s.air.ramped (.deck d) c.firstTarget c.firstLength := by
    rw [hv, State.onDeck_air, hramp, ← ramped_first]
    rfl
  have hxm : v.xm = u.xm := by
    rw [hv, State.onDeck_xm, hramp]
    rfl
  have hsame : (if c.signals then v.tell [.segue d.other] else v).xm = u.xm := ite_keeps State.xm hxm hxm
  rw [hstart]
  refine ⟨?_, ite_keeps State.decks hdecks hdecks, ite_keeps State.air hair hair,
    completion_of_same (writeCompletion_completion s _ _ _ _) fun b _ => by rw [hsame],
    fun b hb => by rw [hsame, writeCompletion_read _ _ _ _ _ _ hb], fun ps w' hd ha hw' => ?_⟩
  · unfold startSignal
    split
    · rw [State.tell, hvm]
    · rw [hvm, List.append_nil]
  · have hreach : Reaches ps w' s v := by
      rw [hv, hramp]
      exact ((((Reaches.refl ps w' s).completion hw' _ _ _).withAir ha _).tell _).deck hd d _
    exact (hreach.tell _).ite hreach

/-! ## The notices of the RAMP taken -/

/-- The record of a started deck is the record of the start with the RAMP's notices taken (R8, R67, R82). -/
theorem startedBy_eq (r : DeckRec) (c : Cue) (a : AirMap) (d : DeckId) :
    r.startedBy c (a.sources.get (.deck d)) a.hold =
      if (a.sources.get (.deck d)).state ≠ .held ∧ (startedSource a d c).state = .held then
        { startRec r c (startedSource a d c) with heldSilent := true }
      else startRec r c (startedSource a d c) := by
  unfold DeckRec.startedBy startRec
  simp only [startedSource_held_iff]
  by_cases hheld : (a.sources.get (.deck d)).state = .held
  · simp [hheld]
  · simp only [hheld, false_or, ne_eq, not_false_eq_true, true_and]
    split
    · rfl
    · rfl

/-- A deck has started a cue, the RAMP's notices taken, the segue signal still to be delivered. -/
structure Rolling (d : DeckId) (c : Cue) (s z : State) : Prop where
  messages : z.messages = startSignal d c
  decks : z.decks = s.decks.set d ((s.decks.get d).startedBy c (s.air.sources.get (.deck d)) s.air.hold)
  air : z.air = s.air.ramped (.deck d) c.firstTarget c.firstLength
  completion : z.completion c.address .playing 0 none
  xm : ∀ b, ¬ completionWord c.address b → z.xm.read b = s.xm.read b
  reaches : ∀ (ps : List Part) (w : Nat → Prop), .decks ∈ ps → .air ∈ ps →
    (∀ b, completionWord c.address b → w b) → Reaches ps w s z

/-- A deck with no read and no end pending starts its current cue (R67). -/
theorem startCue_rolling {s : State} {d : DeckId} {c : Cue} (hm : s.messages = [])
    (hc : (s.decks.get d).current = some c) (hr : (s.decks.get d).reading = none)
    (hp : (s.decks.get d).pendingEnd = .none) : ∃ n ≤ 2, ∃ z, Drains n (s.startCue d) z ∧ Rolling d c s z := by
  obtain ⟨hmessages, hdecks, hair, hcompletion, hxm, hreach⟩ := startCue_begun hc
  set x := s.startCue d with hx
  set new := startedSource s.air d c with hnew
  have hdeck : x.decks.get d = startRec (s.decks.get d) c new := by rw [hdecks, PerDeck.get_set_same]
  have hrec := startedBy_eq (s.decks.get d) c s.air d
  rw [hm, List.nil_append] at hmessages
  have hmoved : (s.air.sources.get (.deck d)).state ≠ new.state → Unmoved (x.decks.get d) new.state := fun _ => by
    rw [hdeck]
    refine ⟨hr, fun h => ?_, fun h => ?_, fun _ _ => hp⟩
    · simp [startRec, h]
    · simp [startRec, h]
  by_cases hsilent : (s.air.sources.get (.deck d)).state ≠ .held ∧ new.state = .held
  · have hm' : x.messages = stateNotice (.deck d) (s.air.sources.get (.deck d)) new ++
        (.silent (.deck d) :: startSignal d c) := by
      rw [hmessages, rampNotices, if_pos hsilent, List.append_assoc, List.singleton_append]
    obtain ⟨n, hn, hdrain⟩ := drains_stateNotice hm' hmoved
    have hone := Drains.one (s := { x with messages := .silent (.deck d) :: startSignal d c }) rfl
      (deliver_silent_deck (s := { x with messages := startSignal d c }) (d := d)
        (by show (x.decks.get d).reading = none; rw [hdeck]; exact hr)
        (by show (x.decks.get d).pendingEnd = .none; rw [hdeck]; exact hp))
    refine ⟨n + 1, by omega, _, hdrain.trans hone, rfl, ?_, hair, completion_of_same hcompletion fun _ _ => rfl, hxm,
      fun ps w hpd hpa hw => ((hreach ps w hpd hpa hw).messages _).deck hpd d _⟩
    rw [hrec, if_pos hsilent, State.onDeck_decks, PerDeck.modify]
    show x.decks.set d { x.decks.get d with heldSilent := true } = _
    rw [hdeck, hdecks, perDeck_set_set]
  · have hm' : x.messages = stateNotice (.deck d) (s.air.sources.get (.deck d)) new ++ startSignal d c := by
      rw [hmessages, rampNotices, if_neg hsilent, List.append_nil]
    obtain ⟨n, hn, hdrain⟩ := drains_stateNotice hm' hmoved
    refine ⟨n, by omega, _, hdrain, rfl, ?_, hair, completion_of_same hcompletion fun _ _ => rfl, hxm,
      fun ps w hpd hpa hw => (hreach ps w hpd hpa hw).messages _⟩
    rw [hrec, if_neg hsilent]
    exact hdecks

end Sys2Proof.DecksAndCueChains

/-!
A cue's start to its end (R67, R80): the segue signal delivered, by what the other deck makes of it.
-/
namespace Sys2Proof.DecksAndCueChains

open Sys2Proof.Machine

/-! ## A segue signal taken (R64, R80) -/

theorem deckTake_reading {s : State} {o : DeckId} (h : (s.decks.get o).reading.isSome = true) :
    s.deckTake o .segue = s.onDeck o fun r => { r with inbox := r.inbox ++ [⟨r.played, .segue⟩] } := by
  simp only [State.deckTake, h, if_true]

theorem deckTake_loading {s : State} {o : DeckId} (hr : (s.decks.get o).reading = none)
    (h : (s.decks.get o).state = .loading) :
    s.deckTake o .segue = s.onDeck o fun r => { r with playPending := true } := by
  simp only [State.deckTake, hr, Option.isSome_none, Bool.false_eq_true, if_false, State.deckHandle, State.deckSegue, h]

theorem deckTake_cued {s : State} {o : DeckId} (hr : (s.decks.get o).reading = none)
    (h : (s.decks.get o).state = .cued) : s.deckTake o .segue = s.startCue o := by
  simp only [State.deckTake, hr, Option.isSome_none, Bool.false_eq_true, if_false, State.deckHandle, State.deckSegue, h]

/-! ## What a start has left once all it sent is delivered -/

/-- A cue's start and all that followed of it in the step. -/
structure Started (d : DeckId) (c : Cue) (s z : State) : Prop where
  messages : z.messages = []
  started : s.started z d c (s.decks.get d)
  events : ∀ p e, s.hasEvent p e → z.hasEvent p e
  xm : ∀ b, ¬ s.startWord d c b → ¬ eventWord b → z.xm.read b = s.xm.read b
  reaches : Reaches [.air, .decks, .counters] (s.startWord d c) s z

section

variable {s z y v : State} {d : DeckId} {c m : Cue}

theorem ramped_other (a : AirMap) (d : DeckId) (T S : Nat) :
    (a.ramped (.deck d) T S).sources.get (.deck d.other) = a.sources.get (.deck d.other) := by
  rw [AirMap.ramped, withSource_deck, PerSource.get_set_other]
  intro h
  exact other_ne d (Source.deck.inj h)

theorem ramped_hold (a : AirMap) (d : DeckId) (T S : Nat) : (a.ramped (.deck d) T S).hold = a.hold := by
  rw [AirMap.ramped, withSource_deck]

theorem followed_none (h : ¬ (c.signals = true ∧ (s.decks.get d.other).reading = none ∧
    (s.decks.get d.other).state = .cued)) : s.followed d c = none := if_neg h

theorem followed_cued (hs : c.signals = true) (hr : (s.decks.get d.other).reading = none)
    (hq : (s.decks.get d.other).state = .cued) : s.followed d c = (s.decks.get d.other).current := if_pos ⟨hs, hr, hq⟩

/-- A rolling start keeps the events that were set: its record lies in the cue area. -/
theorem Rolling.events (h : Rolling d c s z) (ha : inCueArea c.address) {p : Port} {e : Event} (he : s.hasEvent p e) :
    z.hasEvent p e :=
  hasEvent_of_same he (h.xm _ fun hb => completionWord_not_event ha hb ⟨p, rfl⟩)

/-- A start that starts no cue in turn, from what its signal has left. -/
theorem started_alone (hroll : Rolling d c s z) (hf : s.followed d c = none) (hvm : v.messages = [])
    (hair : v.air = z.air) (hdeck : v.decks.get d = z.decks.get d) (ho : v.decks.get d.other = s.signalled d c)
    (hcounters : v.counters = if s.signalMissed d c = true then (s.count .segueMissed).counters else s.counters)
    (hmissed : s.signalMissed d c = true → ∀ p, v.hasEvent p .segueMissed)
    (hevents : ∀ p e, z.hasEvent p e → v.hasEvent p e) (ha : inCueArea c.address)
    (hxm : ∀ b, ¬ eventWord b → v.xm.read b = z.xm.read b)
    (hreach : Reaches [.air, .decks, .counters] (s.startWord d c) z v) : Started d c s v := by
  have hget : z.decks.get d = (s.decks.get d).startedBy c (s.air.sources.get (.deck d)) s.air.hold := by
    rw [hroll.decks, PerDeck.get_set_same]
  refine ⟨hvm, ?_, fun p e he => hevents p e (hroll.events ha he),
    fun b hb he => (hxm b he).trans (hroll.xm b fun hc => hb (.inl hc)),
    (hroll.reaches _ _ (by simp) (by simp) fun _ hb => .inl hb).trans hreach⟩
  simp only [State.started, hf]
  refine ⟨?_, by simp, hair.trans hroll.air, hdeck.trans hget, ho, hmissed, hcounters⟩
  exact completion_of_same hroll.completion fun b hb => hxm b (completionWord_not_event ha hb)

/-- What a rolling start leaves of the other deck and its source. -/
theorem Rolling.other (h : Rolling d c s z) : z.decks.get d.other = s.decks.get d.other := by
  rw [h.decks, get_set_other]

theorem Rolling.counters (h : Rolling d c s z) : z.counters = s.counters :=
  (h.reaches [.decks, .air] (completionWord c.address) (by simp) (by simp) fun _ hb => hb).keeps .counters (by simp)

/-- A rolling start with the other deck's record changed by a signal it does not act on at once. -/
theorem started_noted (hroll : Rolling d c s z) (ha : inCueArea c.address) (hf : s.followed d c = none)
    (hm : s.signalMissed d c = false) (f : DeckRec → DeckRec)
    (ho : f (s.decks.get d.other) = s.signalled d c) :
    Started d c s (({ z with messages := [] } : State).onDeck d.other f) := by
  refine started_alone hroll hf rfl rfl ?_ ?_ ?_ (by simp [hm]) (fun p e he => hasEvent_of_same he rfl) ha
    (fun _ _ => rfl) (((Reaches.refl _ _ z).messages []).deck (by simp) _ _)
  · rw [State.onDeck_decks, PerDeck.modify, get_set_of_other]
  · rw [State.onDeck_decks, PerDeck.get_modify_same]
    show f (z.decks.get d.other) = _
    rw [hroll.other, ho]
  · rw [hm]
    exact hroll.counters

@[simp] theorem segueMissed_messages (s : State) : (segueMissed s).messages = s.messages := rfl
@[simp] theorem segueMissed_air (s : State) : (segueMissed s).air = s.air := rfl
@[simp] theorem segueMissed_decks (s : State) : (segueMissed s).decks = s.decks := rfl

theorem segueMissed_read (s : State) {b : Nat} (hb : ¬ eventWord b) : (segueMissed s).xm.read b = s.xm.read b :=
  (congrArg (fun m : Mem 16 => m.read b) (State.count_xm _ _)).trans (s.raiseAll_read _ b fun p hp => hb ⟨p, hp⟩)

theorem count_congr {s z : State} (h : z.counters = s.counters) (k : Counter) :
    (z.count k).counters = (s.count k).counters := by
  rw [State.count_counters, State.count_counters, h]

/-- A rolling start whose signal is missed (R80). -/
theorem started_missed (hroll : Rolling d c s z) (ha : inCueArea c.address) (hf : s.followed d c = none)
    (hm : s.signalMissed d c = true) (ho : s.decks.get d.other = s.signalled d c) :
    Started d c s (segueMissed { z with messages := [] }) := by
  set u : State := { z with messages := [] } with hu
  have hdecks : (segueMissed u).decks = z.decks := segueMissed_decks u
  have hcounters : u.counters = s.counters := hroll.counters
  have hreach : Reaches [.air, .decks, .counters] (s.startWord d c) z (segueMissed u) :=
    ((Reaches.refl _ _ z).messages []).trans (segueMissed_reaches u (by simp) fun b hb => .inr (.inr ⟨hm, hb⟩))
  refine started_alone hroll hf (segueMissed_messages u) (segueMissed_air u) (by rw [hdecks]) ?_ ?_
    (fun _ p => segueMissed_has u p) (fun p e he => segueMissed_events he) ha
    (fun b hb => segueMissed_read u hb) hreach
  · rw [hdecks, hroll.other, ho]
  · rw [if_pos hm, segueMissed_counters, count_congr hcounters]

/-! ## A start that starts the other deck's cue in turn -/

theorem other_other (d : DeckId) : d.other.other = d := by cases d <;> rfl

theorem signalMissed_cued (hs : c.signals = true) (hr : (s.decks.get d.other).reading = none)
    (hq : (s.decks.get d.other).state = .cued) (hm : (s.decks.get d.other).current = some m) :
    s.signalMissed d c = m.signals := by
  simp [State.signalMissed, hs, hr, hq, hm]

theorem signalled_followed (hf : s.followed d c = some m) :
    s.signalled d c =
      (s.decks.get d.other).startedBy m (s.air.sources.get (.deck d.other)) s.air.hold := by
  simp only [State.signalled, hf]

/-- A deck that has started plays or is held (R67). -/
theorem startedBy_state {r : DeckRec} {a : SourceRec} {hold : Bool} {st : DeckState} (h1 : st ≠ .playing)
    (h2 : st ≠ .held) : (r.startedBy c a hold).state ≠ st := by
  unfold DeckRec.startedBy
  dsimp only
  split
  · exact h2.symm
  · exact h1.symm

/-- A start whose signal starts a second cue, from what that cue's own signal has left. -/
theorem started_inTurn (hroll : Rolling d c s z) (hturn : Rolling d.other m { z with messages := [] } y)
    (hf : s.followed d c = some m) (hmissed : s.signalMissed d c = m.signals) (ha : inCueArea c.address)
    (hma : inCueArea m.address) (hapart : apart c.address m.address ∨ c.address = m.address) (hvm : v.messages = [])
    (hair : v.air = y.air) (hdecks : v.decks = y.decks)
    (hcounters : v.counters = if m.signals = true then (s.count .segueMissed).counters else s.counters)
    (hevent : m.signals = true → ∀ p, v.hasEvent p .segueMissed) (hevents : ∀ p e, y.hasEvent p e → v.hasEvent p e)
    (hxm : ∀ b, ¬ eventWord b → v.xm.read b = y.xm.read b)
    (hreach : Reaches [.air, .decks, .counters] (s.startWord d c) y v) : Started d c s v := by
  have hmem : m ∈ s.followed d c := hf
  have hword : ∀ b, completionWord m.address b → s.startWord d c b := fun b hb => .inr (.inl ⟨m, hmem, hb⟩)
  have hplaying : y.completion c.address .playing 0 none := by
    rcases hapart with hapart | heq
    · exact completion_of_same hroll.completion fun b hb => hturn.xm b (apart_words hapart hb)
    · rw [heq]
      exact hturn.completion
  refine ⟨hvm, ?_, fun p e he => hevents p e (hturn.events hma (hasEvent_of_same (hroll.events ha he) rfl)),
    fun b hb he => ?_, ?_⟩
  · simp only [State.started, hf]
    refine ⟨completion_of_same hplaying fun b hb => hxm b (completionWord_not_event ha hb), fun q hq => ?_, ?_, ?_, ?_,
      fun hms p => hevent (hmissed ▸ hms) p, by rw [hcounters, hmissed]⟩
    · rw [Option.mem_some_iff] at hq
      subst hq
      exact completion_of_same hturn.completion fun b hb => hxm b (completionWord_not_event hma hb)
    · rw [hair, hturn.air]
      show z.air.ramped _ _ _ = _
      rw [hroll.air]
    · rw [hdecks, hturn.decks, get_set_of_other]
      show z.decks.get d = _
      rw [hroll.decks, PerDeck.get_set_same]
    · rw [hdecks, hturn.decks, PerDeck.get_set_same, signalled_followed hf]
      show (z.decks.get d.other).startedBy m (z.air.sources.get _) z.air.hold = _
      rw [hroll.other, hroll.air, ramped_other, ramped_hold]
  · rw [hxm b he, hturn.xm b fun hc => hb (hword b hc)]
    exact hroll.xm b fun hc => hb (.inl hc)
  · exact (((hroll.reaches _ _ (by simp) (by simp) fun _ hb => .inl hb).messages []).trans
      (hturn.reaches _ _ (by simp) (by simp) hword)).trans hreach

/-- A signal that finds the other deck CUED starts its cue, whose own signal is missed by the deck that plays (R67, R80). -/
theorem started_cued (hroll : Rolling d c s z) (hr : (s.decks.get d).reading = none) (hfol : s.followable d c)
    (hs : c.signals = true) (hro : (s.decks.get d.other).reading = none) (hq : (s.decks.get d.other).state = .cued)
    (hcur : (s.decks.get d.other).current = some m) :
    ∃ n ≤ 3, ∃ v, Drains n (({ z with messages := [] } : State).startCue d.other) v ∧ Started d c s v := by
  set u : State := { z with messages := [] } with hu
  have hother : u.decks.get d.other = s.decks.get d.other := hroll.other
  have hf : s.followed d c = some m := (followed_cued hs hro hq).trans hcur
  have hmissed := signalMissed_cued hs hro hq hcur
  obtain ⟨ha, hturns⟩ := hfol
  obtain ⟨hma, hapart, hpo⟩ := hturns m hf
  obtain ⟨k, hk, y, hdrain, hturn⟩ := startCue_rolling (s := u) (d := d.other) (c := m) rfl
    (by rw [hother, hcur]) (by rw [hother, hro]) (by rw [hother, hpo])
  by_cases hms : m.signals = true
  · have hym : y.messages = .segue d :: [] := by rw [hturn.messages, startSignal, if_pos hms, other_other]
    set q : State := { y with messages := [] } with hqq
    have hback : q.decks.get d = (s.decks.get d).startedBy c (s.air.sources.get (.deck d)) s.air.hold := by
      show y.decks.get d = _
      rw [hturn.decks, get_set_of_other]
      show z.decks.get d = _
      rw [hroll.decks, PerDeck.get_set_same]
    have hmiss := Drains.one hym (deckTake_missed (s := q) (o := d) (by rw [hback]; exact hr)
      (by rw [hback]; exact startedBy_state (by simp) (by simp)) (by rw [hback]; exact startedBy_state (by simp) (by simp)))
    have hcount : q.counters = s.counters := hturn.counters.trans hroll.counters
    have hreach : Reaches [.air, .decks, .counters] (s.startWord d c) y (segueMissed q) :=
      ((Reaches.refl _ _ y).messages []).trans (segueMissed_reaches q (by simp) fun b hb =>
        .inr (.inr ⟨hmissed.trans hms, hb⟩))
    exact ⟨k + 1, by omega, _, hdrain.trans hmiss,
      started_inTurn hroll hturn hf hmissed ha hma hapart (segueMissed_messages q) (segueMissed_air q)
        (segueMissed_decks q) (by rw [if_pos hms, segueMissed_counters, count_congr hcount])
        (fun _ p => segueMissed_has q p) (fun p e he => segueMissed_events he)
        (fun b hb => segueMissed_read q hb) hreach⟩
  · have hym : y.messages = [] := by rw [hturn.messages, startSignal, if_neg hms]
    exact ⟨k, by omega, y, hdrain, started_inTurn hroll hturn hf hmissed ha hma hapart hym rfl rfl
      (by rw [if_neg hms, hturn.counters]; exact hroll.counters) (fun h => absurd h hms)
      (fun _ _ he => he) (fun _ _ => rfl) (Reaches.refl _ _ y)⟩

/-! ## A cue started -/

/-- The signal of a start delivered, by what the other deck is at (R64, R67, R80). -/
theorem started_signalled (hroll : Rolling d c s z) (hr : (s.decks.get d).reading = none) (hfol : s.followable d c)
    (hs : c.signals = true) :
    ∃ n ≤ 3, ∃ v, Drains n (({ z with messages := [] } : State).deckTake d.other .segue) v ∧ Started d c s v := by
  set u : State := { z with messages := [] } with hu
  have ha := hfol.1
  have hother : u.decks.get d.other = s.decks.get d.other := hroll.other
  by_cases hro : (s.decks.get d.other).reading = none
  · have hmiss : (s.decks.get d.other).state ≠ .cued → (s.decks.get d.other).state ≠ .loading →
        s.signalMissed d c = true → ∃ n ≤ 3, ∃ v, Drains n (u.deckTake d.other .segue) v ∧ Started d c s v :=
      fun h1 h2 hm => by
        have hf : s.followed d c = none := followed_none fun ⟨_, _, hq⟩ => h1 hq
        rw [deckTake_missed (by rw [hother, hro]) (by rw [hother]; exact h1) (by rw [hother]; exact h2)]
        exact ⟨0, by omega, _, Drains.refl _, started_missed hroll ha hf hm (by simp [State.signalled, hf, hs, hro, h2])⟩
    cases hq : (s.decks.get d.other).state
    case loading =>
      have hf : s.followed d c = none := followed_none (by simp [hq])
      rw [deckTake_loading (by rw [hother, hro]) (by rw [hother, hq])]
      exact ⟨0, by omega, _, Drains.refl _, started_noted hroll ha hf (by simp [State.signalMissed, hq]) _
        (by simp [State.signalled, hf, hs, hro, hq])⟩
    case cued =>
      rw [deckTake_cued (by rw [hother, hro]) (by rw [hother, hq])]
      cases hcur : (s.decks.get d.other).current with
      | some m => exact started_cued hroll hr hfol hs hro hq hcur
      | none =>
        have hf : s.followed d c = none := (followed_cued hs hro hq).trans hcur
        have hm : s.signalMissed d c = false := by simp [State.signalMissed, hq, hcur]
        have hstay : u.startCue d.other = u := by simp [State.startCue, hother, hcur]
        rw [hstay]
        exact ⟨0, by omega, u, Drains.refl u, started_alone hroll hf rfl rfl rfl
          (by rw [hother]; simp [State.signalled, hf, hs, hro, hq]) (by rw [hm]; exact hroll.counters)
          (fun h => by simp [hm] at h) (fun _ _ he => he) ha (fun _ _ => rfl) ((Reaches.refl _ _ z).messages [])⟩
    all_goals exact hmiss (by simp [hq]) (by simp [hq]) (by simp [State.signalMissed, hs, hro, hq])
  · have hsome : (s.decks.get d.other).reading.isSome = true := Option.isSome_iff_ne_none.mpr hro
    have hf : s.followed d c = none := followed_none fun ⟨_, h, _⟩ => hro h
    rw [deckTake_reading (by rw [hother]; exact hsome)]
    exact ⟨0, by omega, _, Drains.refl _, started_noted hroll ha hf (by simp [State.signalMissed, hro]) _
      (by simp [State.signalled, hf, hs, hsome])⟩

/-- A deck starts its current cue, and all that the step sends is delivered (R67, R80). -/
theorem startCue_started (hm : s.messages = []) (hc : (s.decks.get d).current = some c)
    (hr : (s.decks.get d).reading = none) (hp : (s.decks.get d).pendingEnd = .none) (hfol : s.followable d c) :
    ∃ n ≤ 6, ∃ v, Drains n (s.startCue d) v ∧ Started d c s v := by
  obtain ⟨n, hn, z, hdrain, hroll⟩ := startCue_rolling hm hc hr hp
  by_cases hs : c.signals = true
  · have hzm : z.messages = .segue d.other :: [] := by rw [hroll.messages, startSignal, if_pos hs]
    obtain ⟨k, hk, v, hsignal, hstarted⟩ := started_signalled hroll hr hfol hs
    exact ⟨n + (1 + k), by omega, v, hdrain.trans ((Drains.one hzm rfl).trans hsignal), hstarted⟩
  · have hzm : z.messages = [] := by rw [hroll.messages, startSignal, if_neg hs]
    have hf : s.followed d c = none := followed_none fun ⟨h, _⟩ => hs h
    have hmiss : s.signalMissed d c = false := by simp [State.signalMissed, hs]
    exact ⟨n, by omega, z, hdrain, started_alone hroll hf hzm rfl rfl
      (by rw [hroll.other]; simp [State.signalled, hf, hs]) (by rw [hmiss]; exact hroll.counters)
      (fun h => by simp [hmiss] at h) (fun _ _ he => he) hfol.1 (fun _ _ => rfl) (Reaches.refl _ _ z)⟩

end

end Sys2Proof.DecksAndCueChains

/-!
CUE_END (R71, R73): the end of a cue by what follows it.
-/
namespace Sys2Proof.DecksAndCueChains

open Sys2Proof.Machine

/-! ## The row -/

theorem exec_cueEnd (s : State) (d : DeckId) :
    Sys2Proof.Machine.exec (.cueEnd d) s = .next (s.deckAct fun s => s.lastTake d) := rfl

theorem lastTake_notDue {s : State} {d : DeckId} (h : (s.decks.get d).endDue = false) : s.lastTake d = s := by
  simp [State.lastTake, h]

/-- The last pair's take where no other point is due (R71). -/
theorem lastTake_ends {s : State} {d : DeckId} (hm : s.messages = []) (h : (s.decks.get d).endDue = true)
    (hf : (s.decks.get d).fadeDue = false) (hs : (s.decks.get d).segueDue = false) : s.lastTake d = s.endCue d := by
  rw [State.lastTake, if_pos h, s.acts_same _ hm (by simp [fadeOutPoint_notDue s d hf, seguePoint_notDue s d hs])]

section

variable {s : State} {d : DeckId} {r : DeckRec} {c : Cue}

/-- A cue's end is due and nothing detains it: no read, no lookahead, no other point, no end pending (R71 to R73). -/
structure EndsNow (r : DeckRec) (c : Cue) : Prop where
  current : r.current = some c
  free : r.reading = none
  live : r.state = .playing ∨ r.state = .held
  taken : c.length ≤ c.played
  looked : r.lookaheadDue = false
  noEnd : r.pendingEnd = .none

theorem EndsNow.due (h : EndsNow r c) : r.endDue = true :=
  (endDue_iff h.current).mpr ⟨live_iff.mpr h.live, h.taken, h.free⟩

theorem lookaheadDue_made (hc : r.current = some c) (h : r.lookahead ≠ .notMade ∨ c.holds = true) :
    r.lookaheadDue = false := by
  rw [Bool.eq_false_iff, ne_eq, lookaheadDue_iff hc]
  rintro ⟨h1, h2, -, -⟩
  rcases h with h | h
  · exact h h1
  · simp [h] at h2

theorem EndsNow.endCue (h : EndsNow (s.decks.get d) c) : s.endCue d = s.playedOut d :=
  endCue_plays h.due h.looked h.free h.noEnd

theorem EndsNow.lastTake (h : EndsNow (s.decks.get d) c) (hm : s.messages = []) (hf : (s.decks.get d).fadeDue = false)
    (hs : (s.decks.get d).segueDue = false) : s.lastTake d = s.playedOut d := by
  rw [lastTake_ends hm h.due hf hs, h.endCue]

/-! ## A deck that goes on to rest -/

theorem raises_live (hlive : r.state = .playing ∨ r.state = .held) {b : Bool} (h : b = true ∨ r.notify = .onStop) :
    raisesStopped r.notify r.state b = true := by
  rcases h with h | h
  · cases r.notify <;> rcases hlive with hlive | hlive <;> simp [raisesStopped, hlive, h]
  · rcases hlive with hlive | hlive <;> simp [raisesStopped, hlive, h]

theorem cueEnd_rests {resume : Option Nat} (h : s.runsOwing) (hd : s.decks.get d = r) (hnow : EndsNow r c)
    (hf : r.fadeDue = false) (hs : r.segueDue = false) (ha : inCueArea c.address) (hk : s.keepsClip c.clip)
    (hn : r.next = none) (hrest : GoesToRest r c (s.xm.read c.address).toNat resume) :
    ∃ t, Sys2Proof.Machine.exec (.cueEnd d) s = .next t ∧ t.completion c.address .played c.length none ∧
      t.decks = s.decks.set d (r.atRest resume) ∧ t.clips = s.lockReleased c.clip ∧
      (t.air.sources.get (.deck d)).state = .off ∧
      t.air = s.air.withSource (.deck d) (t.air.sources.get (.deck d)) ∧
      (c.notifies = true → ∀ p, t.hasEvent p .cueDone) ∧
      (resume = none ∨ r.notify = .onStop → ∀ p, t.hasEvent p .deckStopped) ∧
      s.within t [.air, .decks, .clips, .arbiter] (fun b => eventWord b ∨ completionWord c.address b) := by
  subst hd
  obtain ⟨_, ⟨hmessages, hforced⟩, _⟩ := id h
  have hplay := playedOut_rests hnow.current hn ha hk hrest
  have hstep : (s.deckAct fun s => s.lastTake d) = ({ s.playedOut d with messages := [] } : State).publish := by
    rw [s.deckAct_runs _ h, hnow.lastTake hmessages hf hs, State.settle, hplay.drain hmessages hnow.free]
  obtain ⟨hoff, hsource⟩ := cutOff_withSource s.air d
  have hair : ({ s.playedOut d with messages := [] } : State).publish.air = s.air.cutOff (.deck d) := by
    rw [State.publish_air]
    exact hplay.air
  rw [exec_cueEnd, hstep]
  refine ⟨_, rfl, completion_publish ha (completion_of_same hplay.completion fun _ _ => rfl), ?_, ?_, ?_, ?_,
    fun hno p => hasEvent_publish (hasEvent_of_same (hplay.done hno p) rfl),
    fun hno p => hasEvent_publish (hasEvent_of_same (hplay.stopped (raises_live hnow.live (hno.imp ?_ id)) p) rfl),
    (hplay.reaches.messages []).within hforced⟩
  · rw [State.publish_decks]
    exact hplay.decks
  · rw [State.publish_clips]
    exact hplay.clips
  · rw [hair]
    exact hoff
  · rw [hair]
    exact hsource
  · rintro rfl
    rfl

/-! ## A chain reread (R73) -/

theorem playedFrom_sameRecord {link : Nat} {i : Fin 128} (ha : inCueArea c.address) (hk : s.keepsClip c.clip)
    (hla : inCueArea link) (hapart : readApart c.address link) : SameRecord s (playedFrom s d c) link i := by
  obtain ⟨-, hclips, -, -, -, -, -, hreach⟩ := playedFrom_out (d := d) ha hk
  refine ⟨fun k hn => hreach.xm _ (not_or.mpr ⟨cueArea_not_event hla (by omega), hapart k (by omega)⟩), ?_, ?_⟩
  · show ∃ n, (playedFrom s d c).clips.table[i] = { s.clip i with locks := n }
    rw [hclips]
    by_cases hi : i = c.clip
    · exact ⟨(s.clip i).locks - 1, by subst hi; simp [State.lockReleased]⟩
    · refine ⟨(s.clip i).locks, ?_⟩
      rw [State.lockReleased, Fin.getElem_fin, Vector.getElem_set_ne _ _ fun e => hi (Fin.ext e.symm)]
      rfl
  · rw [State.mustWait, State.mustWait, hclips]
    rfl

theorem cueEnd_rereads {link : Nat} {i : Fin 128} (h : s.runsOwing) (hd : s.decks.get d = r) (hnow : EndsNow r c)
    (hf : r.fadeDue = false) (hs : r.segueDue = false) (ha : inCueArea c.address) (hk : s.keepsClip c.clip)
    (hn : r.next = none) (hh : c.holds = false) (hl : r.lookahead = .none) (he : c.ends = false)
    (hlink : link = (s.xm.read c.address).toNat) (hi : s.goodRecord link i) (hapart : readApart c.address link) :
    ∃ t, Sys2Proof.Machine.exec (.cueEnd d) s = .next t ∧
      (apart c.address link → t.completion c.address .played c.length none) ∧ t.completion link .queued 0 none ∧
      t.decks = s.decks.set d
        { r with
          state := .loading, playPending := true, lookahead := .notMade, resumeAddress := none, faultStreak := 0
          current :=
            some (cueOf link (s.xm.readBlock link 16) i (s.clip i).first (s.clip i).pages (s.clip i).sealed) } ∧
      t.clips = s.lockMoved c.clip i ∧ (c.notifies = true → ∀ p, t.hasEvent p .cueDone) ∧
      s.within t [.decks, .clips] (fun b => eventWord b ∨ completionWord c.address b ∨ completionWord link b) := by
  subst hd
  obtain ⟨_, ⟨hmessages, hforced⟩, _⟩ := id h
  obtain ⟨hdecks, hclips, hair, hum, hcompletion, hdone, -, hreach⟩ := playedFrom_out (d := d) ha hk
  have hsame : SameRecord s (playedFrom s d c) link i := playedFrom_sameRecord ha hk hi.1 hapart
  set u := playedFrom s d c with hu
  have hget : u.decks.get d = { s.decks.get d with current := none } := by rw [hdecks, PerDeck.get_set_same]
  have haddr : u.xm.read c.address = s.xm.read c.address := hreach.xm _ (link_not_written ha)
  set v := (goodRead u d link i).loadPending d (foundCue s link i) with hv
  have hgo : s.playedOut d = v := by
    have hnone : (u.decks.get d).next = none := by rw [hget]; exact hn
    have hlook : (u.decks.get d).lookahead = .none := by rw [hget]; exact hl
    rw [playedOut_current hnow.current]
    simp only [← hu, State.goOn, hnone, hh, hlook, he, Bool.false_eq_true, reduceCtorEq, or_self, if_false, State.walkFrom,
      haddr, ← hlink, walk_good (hsame.goodRecord hi), hsame.foundCue]
    rfl
  have hread := goodRead_reaches u d link i
  have hxm : v.xm = (goodRead u d link i).xm := loadPending_xm _ _ _
  have hplayed : apart c.address link → v.completion c.address .played c.length none := fun hab =>
    completion_of_same hcompletion fun b hb => by rw [hxm, hread.xm b (apart_words hab hb)]
  have hqueued : v.completion link .queued 0 none :=
    completion_of_same (goodRead_completion u d link i) fun b _ => by rw [hxm]
  have hevent : c.notifies = true → ∀ p, v.hasEvent p .cueDone := fun hno p =>
    hasEvent_of_same (hdone hno p) (by rw [hxm, hread.xm _ fun hb => completionWord_not_event hi.1 hb ⟨p, rfl⟩])
  have hreads : Reaches [.decks, .clips] (fun b => eventWord b ∨ completionWord c.address b ∨ completionWord link b) s v :=
    ((hreach.mono (fun _ h => h) fun b hb => hb.imp id .inl).trans
      (hread.mono (fun _ h => h) fun b hb => .inr (.inr hb))).deck (by simp) d _
  have hstep : (s.deckAct fun s => s.lastTake d) = v.publish :=
    deckAct_publish (f := fun s => s.lastTake d) h ((hnow.lastTake hmessages hf hs).trans hgo)
      (by rw [hv, loadPending_messages, goodRead_messages, hum, hmessages])
  rw [exec_cueEnd, hstep]
  refine ⟨_, rfl, fun hab => completion_publish ha (hplayed hab), completion_publish hi.1 hqueued, ?_, ?_,
    fun hno p => hasEvent_publish (hevent hno p), hreads.within hforced⟩
  · rw [State.publish_decks, hv, loadPending_decks, goodRead_decks, perDeck_set_set, PerDeck.get_set_same, hdecks,
      perDeck_set_set, PerDeck.get_set_same]
    simp only [hn]
    rfl
  · rw [State.publish_clips, hv, loadPending_clips, goodRead_clips, State.lockTaken, State.clip, hclips]
    rfl

/-! ## The next cue started (R67, R73) -/

/-- The state in which a deck starts the next cue. -/
def nextFrom (s : State) (d : DeckId) (c n : Cue) : State :=
  (playedFrom s d c).onDeck d fun r => { r with current := some n, next := none, lookahead := .notMade }

theorem started_congr {s u t : State} {d : DeckId} {n : Cue} {r x : DeckRec} (h : u.started t d n x)
    (hair : u.air = s.air) (ho : u.decks.get d.other = s.decks.get d.other) (hc : u.counters = s.counters)
    (hx : ∀ a hold, r.startedBy n a hold = x.startedBy n a hold) : s.started t d n r := by
  have hf : u.followed d n = s.followed d n := by rw [State.followed, State.followed, ho]
  have hs : u.signalled d n = s.signalled d n := by rw [State.signalled, State.signalled, ho, hf, hair]
  have hm : u.signalMissed d n = s.signalMissed d n := by rw [State.signalMissed, State.signalMissed, ho]
  unfold State.started at h ⊢
  rw [hf, hs, hm, hair, hc, count_congr hc] at h
  rw [hx]
  exact h

theorem startWord_congr {s u : State} {d : DeckId} {n : Cue} (ho : u.decks.get d.other = s.decks.get d.other) {b : Nat}
    (h : u.startWord d n b) : s.startWord d n b := by
  have hf : u.followed d n = s.followed d n := by rw [State.followed, State.followed, ho]
  have hm : u.signalMissed d n = s.signalMissed d n := by rw [State.signalMissed, State.signalMissed, ho]
  unfold State.startWord at h ⊢
  rwa [hf, hm] at h

/-- A started cue stands through the step's publication. -/
theorem started_publish {s v : State} {d : DeckId} {n : Cue} {r : DeckRec} (h : s.started v d n r)
    (ha : inCueArea n.address) (hm : ∀ m ∈ s.followed d n, inCueArea m.address) : s.started v.publish d n r := by
  obtain ⟨hplaying, hturn, hair, hdeck, hother, hevent, hcounters⟩ := h
  exact ⟨completion_publish ha hplaying, fun m hf => completion_publish (hm m hf) (hturn m hf),
    (State.publish_air v).trans hair, by rw [State.publish_decks, hdeck], by rw [State.publish_decks, hother],
    fun hms p => hasEvent_publish (hevent hms p), (State.publish_counters v).trans hcounters⟩

theorem cueEnd_starts {n : Cue} (h : s.runsOwing) (hd : s.decks.get d = r) (hnow : EndsNow r c)
    (hf : r.fadeDue = false) (hs : r.segueDue = false) (ha : inCueArea c.address) (hk : s.keepsClip c.clip)
    (hn : r.next = some n) (hapart : apart c.address n.address) (hfol : s.followable d n)
    (hturns : ∀ q ∈ s.followed d n, apart c.address q.address) :
    ∃ t, Sys2Proof.Machine.exec (.cueEnd d) s = .next t ∧ t.completion c.address .played c.length none ∧
      s.started t d n { r with next := none, lookahead := .notMade } ∧ t.clips = s.lockReleased c.clip ∧
      (c.notifies = true → ∀ p, t.hasEvent p .cueDone) ∧
      s.within t [.air, .decks, .clips, .counters]
        (fun b => eventWord b ∨ completionWord c.address b ∨ s.startWord d n b) := by
  subst hd
  obtain ⟨_, ⟨hmessages, hforced⟩, _⟩ := id h
  obtain ⟨hdecks, hclips, hair, hum, hcompletion, hdone, -, hreach⟩ := playedFrom_out (d := d) ha hk
  set u := nextFrom s d c n with hu
  have hudecks : u.decks = s.decks.set d
      { s.decks.get d with current := some n, next := none, lookahead := .notMade } := by
    rw [hu, nextFrom, State.onDeck_decks, PerDeck.modify, hdecks, perDeck_set_set, PerDeck.get_set_same]
  have hget : u.decks.get d = { s.decks.get d with current := some n, next := none, lookahead := .notMade } := by
    rw [hudecks, PerDeck.get_set_same]
  have hother : u.decks.get d.other = s.decks.get d.other := by rw [hudecks, get_set_other]
  have hfollowed : u.followed d n = s.followed d n := by rw [State.followed, State.followed, hother]
  have hfolu : u.followable d n := by
    unfold State.followable
    rw [hfollowed, hother]
    exact hfol
  have hucounters : u.counters = s.counters := hreach.keeps .counters (by simp)
  have hgo : s.playedOut d = u.startCue d := by
    have hnext : ((playedFrom s d c).decks.get d).next = some n := by rw [hdecks, PerDeck.get_set_same]; exact hn
    rw [playedOut_current hnow.current]
    simp only [State.goOn, hnext]
    rfl
  obtain ⟨k, hk', v, hdrains, hstarted⟩ := startCue_started (s := u) (d := d) (c := n) (hum.trans hmessages)
    (by rw [hget]) (by rw [hget]; exact hnow.free) (by rw [hget]; exact hnow.noEnd) hfolu
  have hnotStart : ∀ b, completionWord c.address b → ¬ u.startWord d n b := by
    rintro b hb (hw | ⟨m, hm, hw⟩ | ⟨-, he⟩)
    · exact apart_words hapart hb hw
    · exact apart_words (hturns m (hfollowed ▸ hm)) hb hw
    · exact completionWord_not_event ha hb he
  have hplayed : v.completion c.address .played c.length none :=
    completion_of_same hcompletion fun b hb => hstarted.reaches.xm b (hnotStart b hb)
  have hvclips : v.clips = s.lockReleased c.clip :=
    (hstarted.reaches.keeps .clips (by simp)).trans hclips
  have hreaches : Reaches [.air, .decks, .clips, .counters]
      (fun b => eventWord b ∨ completionWord c.address b ∨ s.startWord d n b) s v := by
    have h1 : Reaches [.air, .decks, .clips, .counters]
        (fun b => eventWord b ∨ completionWord c.address b ∨ s.startWord d n b) s u :=
      (hreach.mono (by simp) fun b hb => hb.imp id .inl).deck (by simp) d _
    exact h1.trans (hstarted.reaches.mono (by simp) fun b hb => .inr (.inr (startWord_congr hother hb)))
  have hstep : (s.deckAct fun s => s.lastTake d) = v.publish := by
    rw [s.deckAct_runs _ h, hnow.lastTake hmessages hf hs, hgo, State.settle, hdrains.drain (by omega) hstarted.messages]
  have hs' : s.started v d n { s.decks.get d with next := none, lookahead := .notMade } :=
    started_congr hstarted.started hair hother hucounters fun a hold => by
      rw [hget]
      rfl
  rw [exec_cueEnd, hstep]
  exact ⟨_, rfl, completion_publish ha hplayed, started_publish hs' hfol.1 fun m hm => (hfol.2 m hm).1,
    (State.publish_clips v).trans hvclips,
    fun hno p => hasEvent_publish (hstarted.events p _ (hasEvent_of_same (hdone hno p) rfl)), hreaches.within hforced⟩

end

end Sys2Proof.DecksAndCueChains

/-!
CUE_FADE_OUT_POINT and CUE_SEGUE_POINT (R71, R80), and CUE_END of a cue whose segue point the same take reached (R84).
-/
namespace Sys2Proof.DecksAndCueChains

open Sys2Proof.Machine

section

variable {s : State} {d : DeckId} {r o : DeckRec} {c m : Cue}

/-! ## The fade-out point (R71) -/

theorem exec_cueFadeOutPoint (s : State) (d : DeckId) :
    Sys2Proof.Machine.exec (.cueFadeOutPoint d) s = .next (s.deckAct fun s => s.fadeOutPoint d) := rfl

theorem fadeOutPoint_due (hc : (s.decks.get d).current = some c) (h : (s.decks.get d).fadeDue = true) :
    s.fadeOutPoint d =
      (s.airRamp (.deck d) 0 c.fadeOut).1.onDeck d fun r => { r with current := some { c with fadeDone := true } } := by
  simp only [State.fadeOutPoint, h, if_true, hc]

theorem fadeOutPoint_fades (h : s.runsOwing) (hd : s.decks.get d = r) (hc : r.current = some c)
    (hdue : r.fadeDue = true) (hp : r.pendingEnd = .none) (hr : r.reading = none)
    (hstate : r.state = .playing ∨ (r.state = .held ∧ (s.air.sources.get (.deck d)).state = .held)) :
    ∃ t, Sys2Proof.Machine.exec (.cueFadeOutPoint d) s = .next t ∧ t.air = s.air.ramped (.deck d) 0 c.fadeOut ∧
      t.decks = s.decks.set d { r with current := some { c with fadeDone := true } } ∧
      s.within t [.air, .decks] (fun _ => False) := by
  subst hd
  obtain ⟨_, ⟨hmessages, hforced⟩, _⟩ := id h
  set new := rampedRec s.air d 0 c.fadeOut with hnew
  have hheld : new.state = .held ↔ (s.air.sources.get (.deck d)).state = .held := by
    rw [hnew, rampedRec_held_iff]
    simp
  have hnotices : rampNotices d (s.air.sources.get (.deck d)) new =
      stateNotice (.deck d) (s.air.sources.get (.deck d)) new := by
    rw [rampNotices, if_neg (fun ⟨h1, h2⟩ => h1 (hheld.mp h2)), List.append_nil]
  set v := (s.airRamp (.deck d) 0 c.fadeOut).1.onDeck d fun r =>
    { r with current := some { c with fadeDone := true } } with hv
  rw [airRamp_deck, ← hnew, hnotices] at hv
  have hvm : v.messages = stateNotice (.deck d) (s.air.sources.get (.deck d)) new := by
    rw [hv, State.onDeck_messages, State.tell]
    show s.messages ++ _ = _
    rw [hmessages, List.nil_append]
  have hdecks : v.decks = s.decks.set d { s.decks.get d with current := some { c with fadeDone := true } } := by
    rw [hv]
    rfl
  have hair : v.air = s.air.ramped (.deck d) 0 c.fadeOut := by
    rw [hv]
    rfl
  have hdrain : v.drain = { v with messages := [] } := by
    refine drain_stateNotice hvm fun hne => ?_
    have hnot : new.state ≠ .held := fun hn => hne ((hheld.mp hn).trans hn.symm)
    have hplay : (s.decks.get d).state = .playing := hstate.resolve_right fun ⟨_, h2⟩ => hnot (hheld.mpr h2)
    rw [hdecks, PerDeck.get_set_same]
    exact ⟨hr, fun hn => absurd hn hnot, fun _ => by simp [hplay], fun _ _ => hp⟩
  have hstep : (s.deckAct fun s => s.fadeOutPoint d) = ({ v with messages := [] } : State).publish := by
    rw [s.deckAct_runs _ h, fadeOutPoint_due hc hdue, State.settle, airRamp_deck, ← hnew, hnotices, ← hv, hdrain]
  have hreach : Reaches [.air, .decks] (fun _ => False) s v := by
    rw [hv]
    exact (((Reaches.refl _ _ s).withAir (by simp) _).tell _).deck (by simp) d _
  rw [exec_cueFadeOutPoint, hstep]
  exact ⟨_, rfl, (State.publish_air _).trans hair, (State.publish_decks _).trans hdecks,
    (hreach.messages []).within hforced⟩

/-! ## The segue point (R71, R80) -/

theorem exec_cueSeguePoint (s : State) (d : DeckId) :
    Sys2Proof.Machine.exec (.cueSeguePoint d) s = .next (s.deckAct fun s => s.seguePoint d) := rfl

/-- The step of a segue point whose signal's delivery is known. -/
theorem seguePoint_step {v : State} {n : Nat} (h : s.runsOwing) (hc : (s.decks.get d).current = some c)
    (hdue : (s.decks.get d).segueDue = true) (hn : n ≤ 900)
    (hv : Drains n ((segueSent s d c).deckTake d.other .segue) v) (hvm : v.messages = []) :
    (s.deckAct fun s => s.seguePoint d) = v.publish := by
  have hone := drains_segue (s := segueSent s d c) (o := d.other) h.2.1.1 rfl
  rw [s.deckAct_runs _ h, seguePoint_due hc hdue, State.settle, (hone.trans hv).drain (by omega) hvm]

theorem segueSent_other (s : State) (d : DeckId) (c : Cue) :
    (segueSent s d c).decks.get d.other = s.decks.get d.other := by rw [segueSent_decks, get_set_other]

theorem segueSent_blocks (s : State) (d : DeckId) (c : Cue) :
    (segueSent s d c).blocks =
      { s.blocks with decks := s.decks.set d { s.decks.get d with current := some { c with segueDone := true } } } := rfl

theorem segueSent_reaches (s : State) (d : DeckId) (c : Cue) {ps : List Part} {w : Nat → Prop} (hd : .decks ∈ ps) :
    Reaches ps w s (segueSent s d c) := (Reaches.refl ps w s).deck hd d _

/-- A signal that only the other deck's record notes: a read holds it, or it is LOADING (R64, R80). -/
theorem seguePoint_noted (h : s.runsOwing) (hc : (s.decks.get d).current = some c)
    (hdue : (s.decks.get d).segueDue = true) {f : DeckRec → DeckRec}
    (htake : (segueSent s d c).deckTake d.other .segue = (segueSent s d c).onDeck d.other f)
    (hkey : deckKey (f (s.decks.get d.other)) = deckKey (s.decks.get d.other)) :
    ∃ t, Sys2Proof.Machine.exec (.cueSeguePoint d) s = .next t ∧
      s.changedTo t
        { s with
          decks := (s.decks.set d { s.decks.get d with current := some { c with segueDone := true } }).set d.other
            (f (s.decks.get d.other)) } (fun _ => False) := by
  set v := (segueSent s d c).onDeck d.other f with hv
  have hforced : v.forced = [] := by
    rw [hv, onDeck_forced_same _ _ _ (by rw [segueSent_other]; exact hkey), segueSent_forced hc, h.2.1.2]
  have hblocks : v.blocks = ({ s with
      decks := (s.decks.set d { s.decks.get d with current := some { c with segueDone := true } }).set d.other
        (f (s.decks.get d.other)) } : State).blocks := by
    rw [hv, onDeck_blocks, segueSent_other, segueSent_blocks, segueSent_decks]
    rfl
  rw [exec_cueSeguePoint, seguePoint_step (v := v) h hc hdue (n := 0) (by omega) (by rw [htake]; exact Drains.refl _)
    h.2.1.1]
  exact ⟨_, rfl, ((segueSent_reaches s d c (List.mem_singleton_self _)).deck (List.mem_singleton_self _) _ _).changedTo
    _ hblocks hforced⟩

theorem seguePoint_lost (h : s.runsOwing) (hc : (s.decks.get d).current = some c)
    (hdue : (s.decks.get d).segueDue = true) (hr : (s.decks.get d.other).reading = none)
    (h1 : (s.decks.get d.other).state ≠ .cued) (h2 : (s.decks.get d.other).state ≠ .loading) :
    ∃ t, Sys2Proof.Machine.exec (.cueSeguePoint d) s = .next t ∧ (∀ p, t.hasEvent p .segueMissed) ∧
      s.changedTo t
        { s.count .segueMissed with
          decks := s.decks.set d { s.decks.get d with current := some { c with segueDone := true } } } eventWord := by
  have htake := deckTake_missed (s := segueSent s d c) (o := d.other) (by rw [segueSent_other, hr])
    (by rw [segueSent_other]; exact h1) (by rw [segueSent_other]; exact h2)
  set u := segueSent s d c with hu
  have hforced : (segueMissed u).forced = [] := (segueSent_forced hc).trans h.2.1.2
  have hreach : Reaches [.decks, .counters] eventWord s (segueMissed u) :=
    (segueSent_reaches s d c (by simp)).trans (segueMissed_reaches u (by simp) fun _ hb => hb)
  rw [exec_cueSeguePoint, seguePoint_step (v := segueMissed u) h hc hdue (n := 0) (by omega)
    (by rw [← hu, htake]; exact Drains.refl _) ((segueMissed_messages u).trans h.2.1.1)]
  exact ⟨_, rfl, fun p => hasEvent_publish (segueMissed_has u p), hreach.changedTo _ rfl hforced⟩

theorem followed_live (h : (s.decks.get d.other).state ≠ .cued) : s.followed d m = none :=
  followed_none fun ⟨_, _, hq⟩ => h hq

theorem seguePoint_starts (h : s.runsOwing) (hc : (s.decks.get d).current = some c)
    (hdue : (s.decks.get d).segueDue = true) (hq : (s.decks.get d.other).state = .cued)
    (hm : (s.decks.get d.other).current = some m) (hstart : s.startable d.other m) :
    ∃ t, Sys2Proof.Machine.exec (.cueSeguePoint d) s = .next t ∧
      State.started { s with decks := s.decks.set d { s.decks.get d with current := some { c with segueDone := true } } } t
        d.other m (s.decks.get d.other) ∧
      s.within t [.air, .decks, .counters] (s.startWord d.other m) := by
  obtain ⟨hfol, hp, hr⟩ := hstart
  obtain ⟨hlive, -⟩ := (segueDue_iff hc).mp hdue
  set u := segueSent s d c with hu
  have hother : u.decks.get d.other = s.decks.get d.other := segueSent_other s d c
  have hback : u.decks.get d.other.other = { s.decks.get d with current := some { c with segueDone := true } } := by
    rw [other_other, hu, segueSent_decks, PerDeck.get_set_same]
  have hnone : u.followed d.other m = none := followed_live (by
    rw [hback]
    rcases hlive with hl | hl <;> simp [hl])
  have hfolu : u.followable d.other m := ⟨hfol.1, by simp [hnone]⟩
  obtain ⟨k, hk, v, hdrains, hstarted⟩ := startCue_started (s := u) (d := d.other) (c := m) h.2.1.1
    (by rw [hother, hm]) (by rw [hother, hr]) (by rw [hother, hp]) hfolu
  have htake : u.deckTake d.other .segue = u.startCue d.other := deckTake_cued (by rw [hother, hr]) (by rw [hother, hq])
  have hwords : ∀ b, u.startWord d.other m b → s.startWord d.other m b := by
    have hmissed : u.signalMissed d.other m = s.signalMissed d.other m := by
      rw [State.signalMissed, State.signalMissed, hback, other_other]
      rcases hlive with hl | hl <;> simp [hl]
    rintro b (hb | ⟨q, hq', _⟩ | ⟨hms, he⟩)
    · exact .inl hb
    · simp [hnone] at hq'
    · exact .inr (.inr ⟨hmissed ▸ hms, he⟩)
  have hreach : Reaches [.air, .decks, .counters] (s.startWord d.other m) s v :=
    (segueSent_reaches s d c (by simp)).trans (hstarted.reaches.mono (fun _ h => h) hwords)
  have hs' := started_publish hstarted.started hfol.1 (by simp [hnone])
  rw [hother] at hs'
  rw [exec_cueSeguePoint, seguePoint_step (v := v) h hc hdue (n := k) (by omega) (by rw [← hu, htake]; exact hdrains)
    hstarted.messages]
  exact ⟨_, rfl, hs', hreach.within h.2.1.2⟩

/-! ## A cue whose last pair is also its segue point (R84) -/

theorem cueEnd_afterSegue (h : s.runsOwing) (hd : s.decks.get d = r) (hnow : EndsNow r c) (hf : r.fadeDue = false)
    (hs : r.segueDue = true) (ha : inCueArea c.address) (hk : s.keepsClip c.clip) (hn : r.next = none)
    (hl : r.lookahead = .none) (hh : c.holds = false) (he : c.ends = true)
    (hor : (s.decks.get d.other).reading = none) (h1 : (s.decks.get d.other).state ≠ .cued)
    (h2 : (s.decks.get d.other).state ≠ .loading) :
    ∃ t, Sys2Proof.Machine.exec (.cueEnd d) s = .next t ∧ t.completion c.address .played c.length none ∧
      (∀ p, t.hasEvent p .segueMissed) ∧ t.counters = (s.count .segueMissed).counters ∧
      t.decks = s.decks.set d (r.atRest none) ∧ t.clips = s.lockReleased c.clip ∧
      s.within t [.air, .decks, .clips, .arbiter, .counters] (fun b => eventWord b ∨ completionWord c.address b) := by
  subst hd
  obtain ⟨_, ⟨hmessages, hforced⟩, _⟩ := id h
  have hmiss := seguePoint_missed hmessages hnow.current hs hor h1 h2
  have hsc : (segueMissed (segueSent s d c)).clips = s.clips := rfl
  obtain ⟨u, hu, hum, huair, hucounters, huevent, hudecks, hureach⟩ := signalLost s d c
  rw [hu] at hmiss hsc
  set c' : Cue := { c with segueDone := true } with hc'
  have hget : u.decks.get d = { s.decks.get d with current := some c' } := by rw [hudecks, PerDeck.get_set_same]
  have hnow' : EndsNow (u.decks.get d) c' := by
    rw [hget]
    exact ⟨rfl, hnow.free, hnow.live, hnow.taken, lookaheadDue_made (c := c') rfl (.inl (by simp [hl])), hnow.noEnd⟩
  have hku : u.keepsClip c'.clip := by
    unfold State.keepsClip State.storeFree State.mustWait State.clip
    rw [hsc]
    exact hk
  have hplay : PlayedToRest d c' none u (u.playedOut d) := playedOut_rests hnow'.current (by rw [hget]; exact hn) ha hku
    (.inr (.inl ⟨rfl, hh, by rw [hget]; exact hl, he⟩))
  have htake : s.lastTake d = u.playedOut d := by
    rw [State.lastTake, if_pos hnow.due, ← hnow'.endCue]
    refine congrArg (fun x : State => x.endCue d) ?_
    exact acts_from (l := [fun s => s.fadeOutPoint d]) (f := fun s => s.seguePoint d) (m := []) hmessages
      (by simp [fadeOutPoint_notDue s d hf]) hmiss
  have hstep : (s.deckAct fun s => s.lastTake d) = ({ u.playedOut d with messages := [] } : State).publish := by
    rw [s.deckAct_runs _ h, htake, State.settle, hplay.drain (hum.trans hmessages) hnow'.free]
  have hcounters : (u.playedOut d).counters = (s.count .segueMissed).counters :=
    (hplay.reaches.keeps .counters (by simp)).trans hucounters
  have hreach : Reaches [.air, .decks, .clips, .arbiter, .counters] (fun b => eventWord b ∨ completionWord c.address b) s
      (u.playedOut d) :=
    ((hureach _ (by simp) (by simp)).mono (fun _ h => h) fun _ hb => .inl hb).trans
      (hplay.reaches.mono (by simp) fun _ hb => hb)
  rw [exec_cueEnd, hstep]
  refine ⟨_, rfl, completion_publish ha (completion_of_same hplay.completion fun _ _ => rfl),
    fun p => hasEvent_publish (hasEvent_of_same (hplay.events p _ (huevent p)) rfl),
    (State.publish_counters _).trans hcounters, ?_, ?_, (hreach.messages []).within hforced⟩
  · rw [State.publish_decks]
    show (u.playedOut d).decks = _
    rw [hplay.decks, hget, hudecks, perDeck_set_set]
    rfl
  · rw [State.publish_clips]
    show (u.playedOut d).clips = _
    rw [hplay.clips, State.lockReleased, State.lockReleased, State.clip, State.clip, hsc]

end

end Sys2Proof.DecksAndCueChains

/-!
The clock through what an act finds: nothing that settles before an act touches it, so that a running part still runs in the
state found (R5, R12, R71, R130). One lemma per operation, in the order of the model.
-/
namespace Sys2Proof.DecksAndCueChains

open Sys2Proof.Machine

/-! ## The shape of the lemmas -/

/-- A fold of operations that keep the clock keeps it. -/
theorem foldl_clock {α : Type} {f : State → α → State} (h : ∀ (s : State) x, (f s x).clock = s.clock) (l : List α)
    (s : State) : (l.foldl f s).clock = s.clock := by
  induction l generalizing s with
  | nil => rfl
  | cons x l ih => rw [List.foldl_cons, ih, h]

theorem clock_of_touches {ps : List Part} {s t : State} (h : State.Touches ps s t) (hp : .clock ∉ ps) :
    t.clock = s.clock := h.keeps .clock hp

theorem clock_of_reaches {ps : List Part} {w : Nat → Prop} {s t : State} (h : Reaches ps w s t) (hp : .clock ∉ ps) :
    t.clock = s.clock := h.keeps .clock hp

/-! ## The air map -/

@[simp] theorem airRamp_clock (s : State) (src : Source) (T S : Nat) : (s.airRamp src T S).1.clock = s.clock := by
  unfold State.airRamp
  dsimp only
  split_ifs <;> rfl

@[simp] theorem airCut_clock (s : State) (src : Source) : (s.airCut src).1.clock = s.clock := rfl

@[simp] theorem endRamp_clock (s : State) (src : Source) : (s.endRamp src).clock = s.clock := by
  unfold State.endRamp
  dsimp only
  split_ifs <;> rfl

@[simp] theorem airRestore_clock (s : State) (n : Nat) : (s.airRestore n).clock = s.clock := by
  refine (foldl_clock (fun s src => ?_) allSources _).trans rfl
  unfold State.restoreSource
  dsimp only
  split_ifs <;> rfl

/-! ## The clip store -/

@[simp] theorem drainPair_clock (s : State) (p : Port) : (s.drainPair p).clock = s.clock := by
  unfold State.drainPair
  split
  · rfl
  · dsimp only
    split_ifs <;> simp [State.clipWriteFault]

@[simp] theorem writeBurst_clock (s : State) (p : Port) (n : Nat) : (s.writeBurst p n).clock = s.clock :=
  foldl_clock (fun s _ => drainPair_clock s p) _ s

@[simp] theorem endGrantOf_clock (s : State) (w : Requester) (b : Bool) : (s.endGrantOf w b).clock = s.clock := rfl

@[simp] theorem endDeadReads_clock (s : State) : s.endDeadReads.clock = s.clock := by
  refine foldl_clock (fun s p => ?_) _ s
  split_ifs <;> rfl

@[simp] theorem endDeadWrite_clock (s : State) (p : Port) : (s.endDeadWrite p).clock = s.clock := by
  unfold State.endDeadWrite
  split
  · split_ifs <;> simp
  · rfl

@[simp] theorem becomeFree_clock (s : State) (i : Fin 128) : (s.becomeFree i).clock = s.clock := by
  unfold State.becomeFree
  dsimp only
  split <;> simp [State.endDeadWrites]

@[simp] theorem lockNow_clock (s : State) (i : Fin 128) : (s.lockNow i).1.clock = s.clock := by
  unfold State.lockNow
  dsimp only
  split_ifs <;> rfl

@[simp] theorem unlockNow_clock (s : State) (i : Fin 128) : (s.unlockNow i).clock = s.clock := by
  unfold State.unlockNow
  dsimp only
  split_ifs <;> simp

@[simp] theorem unlockClip_clock (s : State) (i : Fin 128) : (s.unlockClip i).clock = s.clock := by
  unfold State.unlockClip
  split_ifs <;> simp

@[simp] theorem cutDeck_clock (s : State) (d : DeckId) : (s.cutDeck d).clock = s.clock :=
  clock_of_reaches (cutDeck_reaches s d (ps := [.decks, .arbiter]) (w := fun _ => False) (by simp) (by simp)) (by simp)

/-! ## Cue records and walks -/

@[simp] theorem writeCompletion_clock (s : State) (a : Nat) (st : CueStatus) (n : Nat) (f : Option CueFault) :
    (s.writeCompletion a st n f).clock = s.clock := rfl

@[simp] theorem markFault_clock (s : State) (d : DeckId) (a : Nat) (f : CueFault) :
    (s.markFault d a f).clock = s.clock := by
  unfold State.markFault
  dsimp only
  split_ifs <;> simp

@[simp] theorem lockedRead_clock (s : State) (d : DeckId) (a : Nat) (ws : List Word) (i : Fin 128) :
    (s.lockedRead d a ws i).1.clock = s.clock := by
  have h := lockNow_clock s i
  unfold State.lockedRead
  split
  · rename_i heq
    rw [heq] at h
    simpa using h
  · rename_i heq
    rw [heq] at h
    split_ifs <;> simpa using h

@[simp] theorem readRecord_clock (s : State) (d : DeckId) (a : Nat) (ctx : ReadContext) :
    (s.readRecord d a ctx).1.clock = s.clock := by
  unfold State.readRecord
  split
  · simp
  · dsimp only
    split
    · simp
    · split <;> simp

@[simp] theorem walk_clock (n : Nat) (s : State) (d : DeckId) (link : Nat) (ctx : ReadContext) :
    (State.walk n s d link ctx).1.clock = s.clock := by
  induction n generalizing s link with
  | zero => rfl
  | succ n ih =>
    have h := readRecord_clock s d link ctx
    unfold State.walk
    split_ifs
    · rfl
    · split <;> rename_i heq <;> rw [heq] at h
      · exact h
      · exact h
      · dsimp only
        split_ifs <;> simpa [ih] using h

@[simp] theorem walkFrom_clock (s : State) (d : DeckId) (a : Nat) (ctx : ReadContext) :
    (s.walkFrom d a ctx).1.clock = s.clock := walk_clock _ _ _ _ _

/-! ## The decks -/

@[simp] theorem rest_clock (s : State) (d : DeckId) (resume : Option Nat) : (s.rest d resume).clock = s.clock := by
  rw [rest_steps]
  dsimp only
  rw [raiseIf_keeps State.clock _ _ _ rfl, State.onDeck_clock,
    clock_of_reaches (abandonNext_reaches _ _ (ps := []) (w := fun _ => True) fun _ _ _ _ => trivial) (by simp)]
  exact foldl_clock unlockClip_clock _ _

@[simp] theorem startCue_clock (s : State) (d : DeckId) : (s.startCue d).clock = s.clock := by
  cases hc : (s.decks.get d).current with
  | none => simp [State.startCue, hc]
  | some c =>
    exact clock_of_reaches ((startCue_begun hc).reaches [.decks, .air] (completionWord c.address) (by simp) (by simp)
      fun _ h => h) (by simp)

@[simp] theorem finishReread_clock (s : State) (d : DeckId) (a : Nat) (w : WalkResult) :
    (s.finishReread d a w).clock = s.clock := by
  cases w <;> simp [State.finishReread, State.loadPending]

@[simp] theorem goOn_clock (s : State) (d : DeckId) (a : Nat) (h e : Bool) : (s.goOn d a h e).clock = s.clock := by
  unfold State.goOn
  dsimp only
  split
  · simp
  · split_ifs <;> simp

@[simp] theorem finishSkip_clock (s : State) (d : DeckId) (a : Nat) (e : Bool) (w : WalkResult) :
    (s.finishSkip d a e w).clock = s.clock := by
  cases w <;> simp [State.finishSkip, State.loadPending]

@[simp] theorem finishLookahead_clock (s : State) (d : DeckId) (w : WalkResult) :
    (s.finishLookahead d w).clock = s.clock := by
  cases w <;> rfl

@[simp] theorem makeLookahead_clock (s : State) (d : DeckId) : (s.makeLookahead d).clock = s.clock := by
  unfold State.makeLookahead
  dsimp only
  split_ifs
  · split <;> simp
  · rfl

@[simp] theorem writeCut_clock (s : State) (d : DeckId) : (s.writeCut d).clock = s.clock := by
  unfold State.writeCut
  split
  · rfl
  · dsimp only
    split_ifs <;> simp

@[simp] theorem stopDone_clock (s : State) (d : DeckId) : (s.stopDone d).clock = s.clock := by simp [State.stopDone]

@[simp] theorem skipDone_clock (s : State) (d : DeckId) : (s.skipDone d).clock = s.clock := by
  unfold State.skipDone
  dsimp only
  split
  · rfl
  · split_ifs <;> simp

@[simp] theorem endPending_clock (s : State) (d : DeckId) : (s.endPending d).clock = s.clock := by
  unfold State.endPending
  split <;> simp

@[simp] theorem playedOut_clock (s : State) (d : DeckId) : (s.playedOut d).clock = s.clock := by
  unfold State.playedOut
  split
  · rfl
  · dsimp only
    split_ifs <;> simp

@[simp] theorem endCue_clock (s : State) (d : DeckId) : (s.endCue d).clock = s.clock := by
  unfold State.endCue
  dsimp only
  split_ifs <;> simp

@[simp] theorem fadeOutPoint_clock (s : State) (d : DeckId) : (s.fadeOutPoint d).clock = s.clock := by
  unfold State.fadeOutPoint
  dsimp only
  split_ifs
  · split <;> simp
  · rfl

@[simp] theorem seguePoint_clock (s : State) (d : DeckId) : (s.seguePoint d).clock = s.clock := by
  unfold State.seguePoint
  dsimp only
  split_ifs
  · split <;> simp
  · rfl

@[simp] theorem deckPrimed_clock (s : State) (d : DeckId) : (s.deckPrimed d).clock = s.clock := by
  unfold State.deckPrimed
  dsimp only
  split_ifs <;> simp

/-! ## What a notice or a signal brings -/

@[simp] theorem deckState_clock (s : State) (d : DeckId) (st : SourceState) : (s.deckState d st).clock = s.clock := by
  have hfree : ∀ u : State, u.clock = s.clock →
      (if st = .off ∧ (u.decks.get d).live = true then u.endPending d else u).clock = s.clock := fun u hu => by
    split_ifs <;> simp [hu]
  unfold State.deckState
  dsimp only
  split
  · split <;> rfl
  · refine hfree _ ?_
    split <;> rfl

@[simp] theorem deckSilent_clock (s : State) (d : DeckId) : (s.deckSilent d).clock = s.clock := by
  unfold State.deckSilent
  dsimp only
  split_ifs <;> simp

@[simp] theorem deckSegue_clock (s : State) (d : DeckId) : (s.deckSegue d).clock = s.clock := by
  unfold State.deckSegue
  split <;> simp

/-- A deck's message from the air map or the other deck (R12, R80). -/
theorem deckTake_clock (s : State) (d : DeckId) {m : DeckMessage} (hm : m ≠ .command) :
    (s.deckTake d m).clock = s.clock := by
  unfold State.deckTake
  split
  · rfl
  · cases m with
    | state n => exact deckState_clock s d n.state
    | silent => exact deckSilent_clock s d
    | segue => exact deckSegue_clock s d
    | command => exact absurd rfl hm

@[simp] theorem lineNotice_clock (s : State) (k : Line) (st : SourceState) : (s.lineNotice k st).clock = s.clock := by
  unfold State.lineNotice
  dsimp only
  split_ifs <;> rfl

@[simp] theorem fallbackNotice_clock (s : State) (st : SourceState) : (s.fallbackNotice st).clock = s.clock := by
  unfold State.fallbackNotice
  split
  · split_ifs <;> simp
  · split_ifs <;> rfl
  · rfl

theorem monitorNotice_clock (s : State) (n : StateNotice) : (s.monitorTake (.notice n)).clock = s.clock := by
  unfold State.monitorTake
  split
  · rfl
  · exact fallbackNotice_clock s n.state

@[simp] theorem deliver_clock (s : State) (m : Message) : (s.deliver m).clock = s.clock := by
  cases m with
  | state src n =>
    have htap : (s.tapState src n.state).clock = s.clock := clock_of_touches (s.tapState_touches src n.state) (by simp)
    refine Eq.trans ?_ htap
    cases src with
    | deck d => exact deckTake_clock _ d (by simp)
    | line k => exact lineNotice_clock _ k n.state
    | fallback => exact monitorNotice_clock _ n
    | mic => rfl
    | alert => rfl
  | silent src =>
    cases src with
    | deck d => exact deckTake_clock s d (by simp)
    | _ => rfl
  | segue d => exact deckTake_clock s d (by simp)

@[simp] theorem drainMessages_clock (n : Nat) (s : State) : (s.drainMessages n).clock = s.clock := by
  induction n generalizing s with
  | zero => rfl
  | succ n ih =>
    unfold State.drainMessages
    split
    · rfl
    · rw [ih, deliver_clock]

@[simp] theorem drain_clock (s : State) : s.drain.clock = s.clock := drainMessages_clock 1000 s

/-! ## The end of a message (R130) -/

@[simp] theorem lampInput_clock (s : State) (i : LampInput) : (s.lampInput i).clock = s.clock := rfl

@[simp] theorem studioChange_clock (s : State) (c : StudioChange) : (s.studioChange c).clock = s.clock :=
  clock_of_touches (State.studioChange_touches s c) (by simp)

@[simp] theorem setPhase_clock (s : State) (p : Phase) (n : Nat) : (s.setPhase p n).clock = s.clock := by
  simp [State.setPhase]

@[simp] theorem offerPriority_clock (s : State) (f : Frame) : (s.offerPriority f).clock = s.clock :=
  clock_of_touches (State.offerPriority_touches s f) (by simp)

@[simp] theorem handNotice_clock (s : State) (n : AlertNotice) : (s.handNotice n).clock = s.clock := by
  unfold State.handNotice
  split
  · simp
  · rfl

@[simp] theorem leaveQueue_clock (s : State) (r : AlertRec) (o : AlertOutcome) : (s.leaveQueue r o).clock = s.clock := by
  cases o <;> simp [State.leaveQueue, State.countOutcome, State.addHistory, State.onAlertQueue]

@[simp] theorem enterTone_clock (s : State) (r : AlertRec) : (s.enterTone r).clock = s.clock := by
  unfold State.enterTone
  split <;> simp [State.enterMessage]

@[simp] theorem enterRestore_clock (s : State) : s.enterRestore.clock = s.clock := by simp [State.enterRestore]

@[simp] theorem endAiring_clock (s : State) (r : AlertRec) (o : AlertOutcome) : (s.endAiring r o).clock = s.clock := by
  unfold State.endAiring
  dsimp only
  split <;> simp [State.unbindAlert, State.bindAlert, State.becomeAiring, State.onAlertQueue]

@[simp] theorem messageOver_clock (s : State) : s.messageOver.clock = s.clock := by
  unfold State.messageOver
  split
  · split <;> simp
  · rfl

/-! ## The state found -/

@[simp] theorem landed_clock (s : State) : s.landed.clock = s.clock := by
  rw [State.landed, drain_clock]
  exact foldl_clock endRamp_clock _ s

theorem acts_clock (l : List (State → State)) (h : ∀ f ∈ l, ∀ s : State, (f s).clock = s.clock) (s : State) :
    (s.acts l).clock = s.clock := by
  induction l generalizing s with
  | nil => rfl
  | cons f l ih =>
    rw [acts_cons, ih (fun g hg => h g (List.mem_cons_of_mem _ hg)), drain_clock, h f List.mem_cons_self]

theorem deckActions_clock (d : DeckId) : ∀ f ∈ deckActions d, ∀ s : State, (f s).clock = s.clock := by
  simp [deckActions]

/-- What settles before an act leaves the clock (R5, R71, R133). -/
theorem found_clock (s : State) : s.found.clock = s.clock := by
  have hdecks : ∀ f ∈ deckActions .d1 ++ deckActions .d2, ∀ u : State, (f u).clock = u.clock := fun f hf =>
    (List.mem_append.mp hf).elim (deckActions_clock .d1 f) (deckActions_clock .d2 f)
  have hfound : s.decksFound.clock = s.clock := (acts_clock _ hdecks _).trans (landed_clock s)
  unfold State.found
  dsimp only
  split
  · refine (acts_clock _ (fun f hf => ?_) _).trans hfound
    rcases List.mem_cons.mp hf with rfl | hf
    · exact messageOver_clock
    · exact hdecks f hf
  · exact hfound

theorem acts_messages {s : State} (l : List (State → State)) (hm : s.messages = []) : (s.acts l).messages = [] := by
  induction l generalizing s with
  | nil => exact hm
  | cons f l ih => exact ih rfl

/-- Nothing waits to be delivered in the state an act finds (R12). -/
theorem found_messages (s : State) : s.found.messages = [] := by
  have hdecks : s.decksFound.messages = [] := acts_messages _ rfl
  unfold State.found
  dsimp only
  split
  · exact acts_messages _ hdecks
  · exact hdecks

end Sys2Proof.DecksAndCueChains

/-!
O38: an act finds what the rows of the decks and of the message's end would leave (R84, R133; log 49), and the statement.
-/
namespace Sys2Proof.DecksAndCueChains

open Sys2Proof.Machine

/-! ## An act on the state it finds -/

/-- A command's meaning is an act of a released part, made on the state found. -/
def IsAct (c : Instr) : Prop := ∃ f : State → State, ∀ s, Sys2Proof.Machine.exec c s = .next (s.act f)

/-- A mailbox command is issued by its host in an act (R181). -/
theorem exec_issued {c : Instr} {p : Port} {k : Command} {ws : List Word} (h : c.issued = some (p, k, ws)) (s : State) :
    Sys2Proof.Machine.exec c s = .next (s.act fun s => s.issue p k ws) := by
  cases c <;> cases h <;> rfl

theorem isAct_issued {c : Instr} (h : c.issued.isSome = true) : IsAct c := by
  obtain ⟨⟨p, k, ws⟩, hc⟩ := Option.isSome_iff_exists.mp h
  exact ⟨_, exec_issued hc⟩

/-- An act made on the state found is the act: nothing is left to be found in it (R84; log 49). -/
theorem exec_found {c : Instr} {s : State} (hc : IsAct c) (hpower : s.clock.power = .running)
    (howed : s.found.nothingOwed) :
    ∃ t, Sys2Proof.Machine.exec c s = .next t ∧ Sys2Proof.Machine.exec c s.found = .next t := by
  obtain ⟨f, hf⟩ := hc
  have hfound : s.found.found = s.found := State.found_same _ (found_messages s) howed
  have hrun : s.found.clock.power = .running := by rw [found_clock, hpower]
  refine ⟨_, hf s, ?_⟩
  rw [hf, act_found f hrun hfound, act_found f hpower rfl]

/-! ## The rows leave what an act finds -/

theorem exec_messageEnd (s : State) :
    Sys2Proof.Machine.exec .messageEnd s = .next (s.messageAct fun s => s.messageOver) := rfl

theorem messageOver_notOwed {s : State} (h : s.alert.messageOwed = false) : s.messageOver = s := by
  unfold State.messageOver
  split
  · rename_i r hr
    refine if_neg fun ⟨h1, h2⟩ => ?_
    simp [AlertEngine.messageOwed, hr, h1, h2] at h
  · rfl

/-- Publication leaves what a state owes. -/
theorem publish_owes {s : State} (h : s.publish.nothingOwed) : s.nothingOwed := by
  obtain ⟨⟨hramps, h1, h2⟩, ha⟩ := h
  refine ⟨⟨fun src => ?_, ?_, ?_⟩, ?_⟩
  · simpa using hramps src
  · simpa using h1
  · simpa using h2
  · simpa using ha

theorem acts_settled {s : State} (h : s.nothingOwed) (hm : s.messages = []) :
    s.acts (deckActions .d1 ++ deckActions .d2) = s :=
  s.acts_same _ hm fun f hf => (List.mem_append.mp hf).elim (deckActions_owes s .d1 h.1.2.1 f)
    (deckActions_owes s .d2 h.1.2.2 f)

/-- MESSAGE_END leaves the state an act finds (R133; log 49). -/
theorem messageEnd_found {s u : State} (h : s.runsEnding) (hu : Sys2Proof.Machine.exec .messageEnd s = .next u)
    (howed : u.nothingOwed) : s.found.publish = u := by
  rw [exec_messageEnd, s.messageAct_runs _ h] at hu
  obtain ⟨-, ⟨hmessages, -⟩, hdecks⟩ := h
  cases hu
  have hsettled : s.messageOver.drain.nothingOwed := publish_owes howed
  rw [State.settle]
  cases hm : s.alert.messageOwed with
  | true => rw [s.found_ending hmessages hdecks hm, acts_settled hsettled rfl]
  | false => rw [messageOver_notOwed hm, State.drain_nil _ hmessages, s.found_same hmessages ⟨hdecks, hm⟩]

/-- CUE_END with nothing else due on its deck leaves the state an act finds (R84; log 49). -/
theorem cueEnd_found {s u : State} {d : DeckId} (h : s.runsOwing) (ho : (s.decks.get d.other).owes = false)
    (hl : (s.decks.get d).lookaheadDue = false) (hf : (s.decks.get d).fadeDue = false)
    (hs : (s.decks.get d).segueDue = false) (hu : Sys2Proof.Machine.exec (.cueEnd d) s = .next u)
    (howed : u.nothingOwed) : s.found.publish = u := by
  rw [exec_cueEnd, s.deckAct_runs _ h] at hu
  obtain ⟨-, ⟨hmessages, -⟩, hramps⟩ := h
  cases hu
  have hsettled : (s.lastTake d).drain.nothingOwed := publish_owes howed
  rw [State.settle]
  by_cases hdue : (s.decks.get d).endDue = true
  · rw [lastTake_ends hmessages hdue hf hs] at hsettled ⊢
    have hlive : (s.decks.get d).state = .playing ∨ (s.decks.get d).state = .held := by
      cases hc : (s.decks.get d).current with
      | none => simp [DeckRec.endDue, hc] at hdue
      | some c => exact live_iff.mp ((endDue_iff hc).mp hdue).1
    have hacts : s.acts (deckActions d) = (s.endCue d).drain := by
      refine (acts_from (l := [fun s => s.makeLookahead d, fun s => s.deckPrimed d, fun s => s.fadeOutPoint d,
        fun s => s.seguePoint d]) (f := fun s => s.endCue d) hmessages ?_ rfl).trans ?_
      · simp [makeLookahead_notDue s d hl, deckPrimed_notDue s d (primed_live hlive), fadeOutPoint_notDue s d hf,
          seguePoint_notDue s d hs]
      · refine State.acts_same _ _ rfl fun g hg => ?_
        rw [List.mem_singleton] at hg
        subst hg
        cases d with
        | d1 => exact State.makeLookahead_owes _ _ hsettled.1.2.1
        | d2 => exact State.makeLookahead_owes _ _ hsettled.1.2.2
    have hother : ((s.endCue d).drain.decks.get d.other).owes = false := by
      cases d with
      | d1 => exact hsettled.1.2.2
      | d2 => exact hsettled.1.2.1
    rw [found_oneDeck hmessages hramps ho hacts rfl hother hsettled.2]
  · rw [lastTake_notDue (Bool.eq_false_iff.mpr hdue), State.drain_nil _ hmessages] at hsettled ⊢
    rw [s.found_same hmessages hsettled]

/-! ## The statement -/

/-- A row out of turn changes nothing (log 6). -/
theorem cueEnd_outOfTurn {s : State} {d : DeckId} {c : Cue} (h : s.runsOwing) (hc : (s.decks.get d).current = some c)
    (hout : (s.decks.get d).reading ≠ none ∨ c.played < c.length ∨
      ((s.decks.get d).state ≠ .playing ∧ (s.decks.get d).state ≠ .held)) :
    Sys2Proof.Machine.exec (.cueEnd d) s = .next s := by
  have hdue : (s.decks.get d).endDue = false := by
    rw [Bool.eq_false_iff, ne_eq, endDue_iff hc, live_iff]
    rintro ⟨hlive, hend, hfree⟩
    rcases hout with hr | hp | ⟨h1, h2⟩
    · exact hr hfree
    · omega
    · exact hlive.elim h1 h2
  rw [exec_cueEnd, deckAct_same s (fun s => s.lastTake d) h (lastTake_notDue hdue)]

theorem fadeOutPoint_outOfTurn {s : State} {d : DeckId} {c : Cue} (h : s.runsOwing)
    (hc : (s.decks.get d).current = some c)
    (hout : (s.decks.get d).reading ≠ none ∨ (s.decks.get d).pendingEnd ≠ .none ∨ c.fadeDone = true ∨
      c.fadeOut = 0 ∨ c.played < c.length - c.fadeOut ∨ ((s.decks.get d).state ≠ .playing ∧ (s.decks.get d).state ≠ .held)) :
    Sys2Proof.Machine.exec (.cueFadeOutPoint d) s = .next s := by
  have hdue : (s.decks.get d).fadeDue = false := by
    rw [Bool.eq_false_iff, ne_eq, fadeDue_iff hc]
    rintro ⟨hlive, hfree, hp, hdone, hpos, hreached⟩
    rcases hout with hr | hp' | hdone' | hzero | hnot | ⟨h1, h2⟩
    · exact hr hfree
    · exact hp' hp
    · simp [hdone] at hdone'
    · omega
    · omega
    · exact hlive.elim h1 h2
  rw [exec_cueFadeOutPoint, deckAct_same s (fun s => s.fadeOutPoint d) h (fadeOutPoint_notDue s d hdue)]

theorem seguePoint_outOfTurn {s : State} {d : DeckId} {c : Cue} (h : s.runsOwing)
    (hc : (s.decks.get d).current = some c)
    (hout : (s.decks.get d).reading ≠ none ∨ (s.decks.get d).pendingEnd ≠ .none ∨ c.segueDone = true ∨
      c.segues = false ∨ c.segue = 0 ∨ c.played < c.length - c.segue ∨
        ((s.decks.get d).state ≠ .playing ∧ (s.decks.get d).state ≠ .held)) :
    Sys2Proof.Machine.exec (.cueSeguePoint d) s = .next s := by
  have hdue : (s.decks.get d).segueDue = false := by
    rw [Bool.eq_false_iff, ne_eq, segueDue_iff hc]
    rintro ⟨hlive, hfree, hp, hsegues, hdone, hpos, hreached⟩
    rcases hout with hr | hp' | hdone' | hclear | hzero | hnot | ⟨h1, h2⟩
    · exact hr hfree
    · exact hp' hp
    · simp [hdone] at hdone'
    · simp [hsegues] at hclear
    · omega
    · omega
    · exact hlive.elim h1 h2
  rw [exec_cueSeguePoint, deckAct_same s (fun s => s.seguePoint d) h (seguePoint_notDue s d hdue)]

/-- Settles O38: the points of a cue and its end, by their rows and as an act finds them. -/
theorem cuePointsAndEnds : Obligations.CuePointsAndEnds := by
  refine ⟨fun c s hpower howed hc => exec_found ?_ hpower howed, fun s u h hu howed => messageEnd_found h hu howed,
    fun s u d r h hd ho hl hf hs hu howed => ?_, fun s d r o c h hd hod hc hr hp hlive hend hf hs hn hl hh he ha hk hor h1 h2 =>
      ?_, fun s d r c link h hd hc hlink => ⟨fun hout => ?_, fun hr hend hlive hp hmade hf hs ha hk =>
        ⟨fun n hn hapart hfol hturns => ?_, fun resume hn hrest => ?_, fun i hn hh hl he hi hapart => ?_⟩⟩,
    fun s d r o c h hd hc hod => ⟨fun hout => ?_, fun hout => ?_, fun hr hp =>
      ⟨fun hstate hdone hpos hreached => ?_, fun hlive hdone hsegues hpos hreached => ?_⟩⟩⟩
  · rcases hc with hc | ⟨src, T, S, rfl⟩ | ⟨src, rfl⟩ | ⟨n, rfl | rfl⟩ | ⟨src, n, rfl⟩ | ⟨src, rfl⟩ | ⟨d, rfl⟩ |
      ⟨i, rfl | rfl⟩ | ⟨id, rfl | rfl⟩ | rfl | rfl
    · exact isAct_issued hc
    all_goals exact ⟨_, fun _ => rfl⟩
  · subst hd
    exact cueEnd_found h ho hl hf hs hu howed
  · subst hod
    exact cueEnd_afterSegue h hd ⟨hc, hr, hlive, hend, lookaheadDue_made hc (.inl (by simp [hl])), hp⟩ hf hs ha hk hn
      hl hh he hor h1 h2
  · subst hd
    exact cueEnd_outOfTurn h hc hout
  · exact cueEnd_starts h hd ⟨hc, hr, hlive, hend, lookaheadDue_made hc hmade, hp⟩ hf hs ha hk hn hapart hfol hturns
  · subst hlink
    exact cueEnd_rests h hd ⟨hc, hr, hlive, hend, lookaheadDue_made hc hmade, hp⟩ hf hs ha hk hn hrest
  · exact cueEnd_rereads h hd ⟨hc, hr, hlive, hend, lookaheadDue_made hc hmade, hp⟩ hf hs ha hk hn hh hl he hlink hi hapart
  · subst hd
    exact fadeOutPoint_outOfTurn h hc hout
  · subst hd
    exact seguePoint_outOfTurn h hc hout
  · have hlive : r.state = .playing ∨ r.state = .held := hstate.imp id And.left
    exact fadeOutPoint_fades h hd hc ((fadeDue_iff hc).mpr ⟨hlive, hr, hp, hdone, hpos, hreached⟩) hp hr hstate
  · subst hd hod
    have hdue := (segueDue_iff hc).mpr ⟨hlive, hr, hp, hsegues, hdone, hpos, hreached⟩
    refine ⟨fun hor => ?_, fun hor h1 h2 => seguePoint_lost h hc hdue hor h1 h2, fun hor hq => ?_,
      fun m hq hm hstart => seguePoint_starts h hc hdue hq hm hstart⟩
    · have htake := deckTake_reading (s := segueSent s d c) (o := d.other) (by rw [segueSent_other]; exact hor)
      exact seguePoint_noted h hc hdue htake rfl
    · have htake := deckTake_loading (s := segueSent s d c) (o := d.other) (by rw [segueSent_other, hor])
        (by rw [segueSent_other, hq])
      exact seguePoint_noted h hc hdue htake rfl

end Sys2Proof.DecksAndCueChains
